-- ==== Sys2Proof/Word.lean ====
section
/-! DEFINITION. The word types of the EZT-46: bytes and the fixed widths that the manual's layout tables give
(10_work_chain_and_result_log.md, 01_test_steps.md). Quantities the manual calls integers (µm, µs, µΩ, counts) are
Nat or Int elsewhere; only what the manual treats as bits is a bit vector. -/

namespace Sys2Proof

/-- One byte of a host memory structure. -/
abbrev Byte := BitVec 8

/-- A 32-bit word: register writes, sequences, published and drained counts, step tags. -/
abbrev Word32 := BitVec 32

/-- A 64-bit word: host memory addresses, links, board serials. -/
abbrev Word64 := BitVec 64

/-- One signed converter code, −32,768..32,767 (R111), in two's complement. -/
abbrev Code := BitVec 16

/-- A count of the 24-bit CAP charge timer, in 5 ns ticks (R114). -/
abbrev Ticks := BitVec 24

end Sys2Proof
end

