-- ==== Sys2Proof/Syntax.lean ====
section
/-! DEFINITION. The commands and events of the EZT-46: one constructor of `Instr` per row of spec/opcode_table.json,
with the row's operands as the chapters give them. -/

namespace Sys2Proof

/-- The two sides of the board (R5). -/
inductive Side where
  | top
  | bottom
deriving DecidableEq, Repr

/-- The six carriages, T1..T4 on top and B1, B2 below, in increasing x order on each side (R43). -/
inductive Carriage where
  | t1
  | t2
  | t3
  | t4
  | b1
  | b2
deriving DecidableEq, Repr

/-- A position in machine coordinates in µm: a gantry x, or a machine point's x, with a y (R19). -/
structure Pos where
  x : Int
  y : Int
deriving DecidableEq, Repr

/-- The two overload comparators (R147). -/
inductive Comparator where
  | sense
  | source
deriving DecidableEq, Repr

/-- One counted sample: the raw converter code and the compliance level read at the same sample (R113). -/
structure Sample where
  code : Code
  compliance : Bool
deriving DecidableEq, Repr

/-- A write to STATION_BASE: a 4-byte write of either half, or one 8-byte write (R189). -/
inductive StationWrite where
  | low (value : Word32)
  | high (value : Word32)
  | whole (value : Word64)
deriving DecidableEq, Repr

/-- Why the link dropped a response (R45). -/
inductive LinkDrop where
  | checkFailed
  | badDrive (number : Nat)
deriving DecidableEq, Repr

/-- The commands and events, in the order of opcode_table.json. -/
inductive Instr where
  | start
  | stop
  | abort
  | clearFault
  | calibrate
  | reset
  | commandUnknown (code : Byte)
  | wake (value : Word32)
  | stationBaseWrite (write : StationWrite)
  | intStatusWrite (value : Word32)
  | intEnableWrite (value : Word32)
  | powerOnReset
  | arrived (c : Carriage) (at_ : Pos)
  | halted (c : Carriage) (at_ : Pos)
  | touched (c : Carriage) (depth : Nat)
  | noTouch (c : Carriage)
  | lifted (c : Carriage)
  | position (c : Carriage) (at_ : Pos) (zUp : Bool)
  | driveFault (c : Carriage) (code : Byte)
  | linkFrameDropped (why : LinkDrop)
  | requestTimeout (c : Carriage)
  | forceLineAsserted (c : Carriage)
  | forceLineDrops (c : Carriage)
  | filterTimeComplete (c : Carriage)
  | limitTime (c : Carriage)
  | precheckEnd (codes : List Code)
  | dummyEnd
  | settleEnd
  | skipEnd
  | countEnd (samples : List Sample)
  | pairCheckCountEnd (samples : List Sample)
  | chargeThreshold (ticks : Ticks)
  | timerLimit
  | chargeCompliance (ticks : Ticks)
  | dwellEnd
  | guardDwellEnd
  | calCountEnd (codes : List Code)
  | comparatorAsserted (which : Comparator)
  | comparatorFalls (which : Comparator)
  | deglitchComplete (which : Comparator)
  | stationBlockRead (bytes : List Byte)
  | setupRecordRead (bytes : List Byte)
  | headerRead (bytes : List Byte)
  | recordRead (bytes : List Byte)
  | linkRead (link : Word64)
  | pollExpiry
  | drainedRead (count : Word32)
  | entryWritten
  | publication
  | netImageWritten
deriving DecidableEq, Repr

end Sys2Proof
end

