-- ==== Sys2Proof/Decode.lean ====
section
/-! DEFINITION. The commands that the host's register writes spell (R189), and the command that a word spells by
opcode_table.json. The rows of the table are events and register writes and give no bits ("fields" is empty in all 50
rows), so no word spells a command by the table. -/

namespace Sys2Proof

/-- The command a write of a code to COMMAND gives (R189, R192). -/
def commandOf (code : Byte) : Instr :=
  match code.toNat with
  | 0x01 => .start
  | 0x02 => .stop
  | 0x03 => .abort
  | 0x04 => .clearFault
  | 0x05 => .calibrate
  | 0x06 => .reset
  | _ => .commandUnknown code

/-- The command that a 4-byte write at an offset of the register window gives; STATE takes no write, and the window has no
other register (R189). The code of a COMMAND write is its bits 7:0. -/
def registerWrite (offset : Nat) (v : Word32) : Option Instr :=
  match offset with
  | 0x00 => some (.stationBaseWrite (.low v))
  | 0x04 => some (.stationBaseWrite (.high v))
  | 0x08 => some (commandOf (v.extractLsb' 0 8))
  | 0x0C => some (.wake v)
  | 0x14 => some (.intStatusWrite v)
  | 0x18 => some (.intEnableWrite v)
  | _ => none

/-- The command that an 8-byte write at an offset gives: STATION_BASE alone may be written so (R189). -/
def registerWriteWide (offset : Nat) (v : Word64) : Option Instr :=
  if offset = 0x00 then some (.stationBaseWrite (.whole v)) else none

/-- The command a word of `nbits` bits spells: none, since no row of the table gives bits (AL 43). -/
def decodeTableWord (_nbits _w : Nat) : Option Instr :=
  none

end Sys2Proof
end

