-- ==== Sys2Proof/Config.lean ====
section
/-! DEFINITION. The parameters the part fixes (category F of the parameter summary in 00_scope.md) and the one free
value of the model. -/

namespace Sys2Proof.Config

/-- Lanes on each side (parameter 2, R24). -/
def lanes : Nat := 128

/-- Highest machine x in µm (parameter 3). -/
def maxX : Nat := 655360

/-- Highest machine y in µm (parameter 3, R19). -/
def maxY : Nat := 500000

/-- Slots of the step window (parameter 4, R78). -/
def windowSlots : Nat := 16

/-- The window is refilled when fewer than this many slots are occupied (parameter 4, R178). -/
def refillBelow : Nat := 12

/-- Steps in flight at most (parameter 5, R83). -/
def inFlight : Nat := 3

/-- Overtake count cap (parameter 6, R85). -/
def overtakeCap : Nat := 8

/-- Places in the contact-check queue (parameter 8, R106). -/
def checkQueue : Nat := 2

/-- Places in the measurement queue (parameter 8, R107). -/
def measQueue : Nat := 3

/-- Places in the held-result list (parameter 9, R183). -/
def heldResults : Nat := 3

/-- Places in the held-note list (parameter 9, R183). -/
def heldNotes : Nat := 8

/-- Dropped-note count maximum (parameter 10, R183). -/
def droppedMax : Nat := 65535

/-- Net records (parameter 11, R158). -/
def nets : Nat := 4096

/-- Segments in the retire list at most (R182). -/
def retireList : Nat := 32

/-- The CAP charge timer's limit in ticks, 2^24 − 1 (parameter 17, R114). -/
def timerLimit : Nat := 16777215

/-- Conversions per attempt at most (parameter 18, R136). -/
def conversions : Nat := 4

/-- Range code of a pair check, 1 mA (parameter 20, R69). -/
def pairRange : Nat := 3

/-- Gain code of a pair check (parameter 20, R69). -/
def pairGain : Nat := 1

/-- Counted samples of a pair check (parameter 20, R69). -/
def pairSamples : Nat := 16

/-- Samples of the residual pre-check (parameter 22, R115). -/
def precheckSamples : Nat := 16

/-- Counted samples of one gain of a calibration (parameter 16, R122). -/
def calSamples : Nat := 1024

/-- Guard retries per attempt (parameter 24, R151). -/
def guardRetries : Nat := 3

/-- Duration maximum in µs (parameter 28, R96). -/
def durationMax : Nat := 16777215

/-- Saturation of a 32-bit result count (R160). -/
def count32Max : Nat := 4294967295

/-- FREE VALUE (AL 7). How far a write to host memory had got when a reset or an ABORT stopped it: the `n`-th such
value. The spec says that the write stops (R168, R186) and not how many bytes had landed. -/
opaque freeProgress : Nat → Nat

end Sys2Proof.Config
end

