-- ==== Sys2Proof/Machine/State.lean ====
section
/-! DEFINITION. The state of the EZT-46, block by block, as the chapters give it, and the state after power-on reset.
All of it is plain data. INVENTORY.md lists every field with the rule that names it. -/

namespace Sys2Proof.Machine

/-! ## Shapes -/

/-- One value per side. -/
structure Sides (α : Type) where
  top : α
  bottom : α
deriving DecidableEq, Repr

/-- One value per carriage, T1, T2, T3, T4, B1, B2 in order. -/
structure Six (α : Type) where
  t1 : α
  t2 : α
  t3 : α
  t4 : α
  b1 : α
  b2 : α
deriving DecidableEq, Repr

/-- The lanes lo..hi, both ends included (00_scope.md, "Lane intervals"). -/
structure Interval where
  lo : Nat
  hi : Nat
deriving DecidableEq, Repr

/-! ## The setup in force (R200) -/

/-- Contact methods (R65), in the order of their codes (R200). -/
inductive Method where
  | force
  | electrical
  | forceAndElectrical
  | forceOrElectrical
deriving DecidableEq, Repr

/-- Response modes of the Source Guard (R145), in the order of their codes (R200). -/
inductive GuardMode where
  | latch
  | retry
  | report
  | ignore
deriving DecidableEq, Repr

/-- A side's probing field, field start ≤ X < field end (R20). -/
structure Field where
  start : Nat
  stop : Nat
deriving DecidableEq, Repr

/-- One carriage block of the setup record, corrected (R200). -/
structure CarriageSetup where
  enabled : Bool
  tipOffset : Int
  parkX : Nat
  parkY : Nat
  guard : Nat
  method : Method
  filter : Nat
  lead : Nat
  stray : Nat
deriving DecidableEq, Repr

/-- The setup values (R200). `dwell` is in units of 10 µs; `deglitch` and `retryDwell` are in µs. -/
structure Setup where
  laneFactor : Nat
  moveMs : Nat
  descendMs : Nat
  liftMs : Nat
  zLimit : Nat
  reland : Nat
  scrub : Nat
  filter0 : Nat
  filter1 : Nat
  filter2 : Nat
  filter3 : Nat
  contactLimit : Nat
  dwell : Nat
  residualLimit : Nat
  residualMode : GuardMode
  overloadMode : GuardMode
  deglitch : Nat
  retryDwell : Nat
  fields : Sides Field
  carriages : Six CarriageSetup
deriving DecidableEq, Repr

/-! ## Host registers (R189) -/

/-- The registers that hold a value (R189). -/
structure Regs where
  stationBase : Word64
  intStatus : BitVec 6
  intEnable : BitVec 6
deriving DecidableEq, Repr

/-! ## Carriages (R40) and claims (R24, R25) -/

/-- The ten carriage states (R41). -/
inductive CarriageState where
  | off
  | homing
  | idle
  | travel
  | descend
  | check
  | ready
  | engaged
  | lift
  | fault
deriving DecidableEq, Repr

/-- Progress of a travel (R40). -/
inductive TravelPhase where
  | claimWait
  | moving
  | halting
deriving DecidableEq, Repr

/-- Why a carriage travels (R40). -/
inductive Purpose where
  | step
  | yield
  | scrub
  | home
  | park
deriving DecidableEq, Repr

/-- Roles of a step's probes (R1, R4). -/
inductive Role where
  | hi
  | lo
  | forceHi
  | forceLo
  | senseHi
  | senseLo
deriving DecidableEq, Repr

/-- Relay states of a probe tip (R41). -/
inductive Tip where
  | isolated
  | bleed
  | matrix
  | discharge
deriving DecidableEq, Repr

/-- The five requests of the axis link (R43). -/
inductive RequestKind where
  | move
  | descend
  | lift
  | halt
  | query
deriving DecidableEq, Repr

/-- A request as sent on the axis link, with its contents (R43). -/
inductive AxisRequest where
  | move (target : Pos)
  | descend (zLimit : Nat)
  | lift
  | halt
  | query
deriving DecidableEq, Repr

/-- The outstanding request of a carriage, with the superseded-MOVE mark (R40, R44). -/
structure Outstanding where
  kind : RequestKind
  superseded : Bool
deriving DecidableEq, Repr

/-- The step a carriage works for (R40). -/
structure Service where
  slot : Nat
  role : Role
deriving DecidableEq, Repr

/-- What a carriage does when its lift completes (R40). The point is a machine point. -/
inductive FollowOn where
  | free
  | landAt (point : Pos) (purpose : Purpose)
deriving DecidableEq, Repr

/-- The carriage record (R40). The model's own field is `timerCut`, the time at which the request timer was last stopped (R46,
AL 58). -/
structure CarriageRec where
  state : CarriageState
  phase : Option TravelPhase
  purpose : Option Purpose
  service : Option Service
  ended : Bool
  target : Option Pos
  position : Option Pos
  probeUp : Bool
  request : Option Outstanding
  timer : Option Nat
  timerCut : Option Nat
  scrubIndex : Nat
  followOn : Option FollowOn
  tip : Tip
deriving DecidableEq, Repr

/-- An entry of a side's pending list (R25). -/
structure ClaimEntry where
  carriage : Carriage
  purpose : Purpose
  span : Interval
deriving DecidableEq, Repr

/-- One side of the Lane Claim Table: 128 owner cells (R24) and the pending list, oldest first (R25). -/
structure ClaimTable where
  cells : List (Option Carriage)
  pend : List ClaimEntry
deriving DecidableEq, Repr

/-- Input pins read as levels: the six force lines (R54) and the two overload comparators (R147). -/
structure Pins where
  force : Six Bool
  sense : Bool
  source : Bool
deriving DecidableEq, Repr

/-! ## The Contact Qualifier (R65 to R68) -/

/-- A partner pair of one step, named by its slot and its FORCE-role and SENSE-role carriages (R106). -/
structure Pair where
  slot : Nat
  force : Carriage
  sense : Carriage
deriving DecidableEq, Repr

/-- Force progress (R66, R67): while WATCHING, the start of the current assertion and the limit time. -/
inductive ForceProgress where
  | notUsed
  | watching (since : Option Nat) (limit : Nat)
  | qualified
  | unqualified
deriving DecidableEq, Repr

/-- Electrical progress (R66). -/
inductive ElecProgress where
  | notUsed
  | waitingPartner
  | owed
  | queued
  | running
  | passed
  | failed
deriving DecidableEq, Repr

/-- A landing record (R66). -/
structure Landing where
  slot : Nat
  role : Role
  partner : Option Carriage
  attempt : Nat
  method : Method
  force : ForceProgress
  elec : ElecProgress
  fallback : Bool
deriving DecidableEq, Repr

/-- The Qualifier's records (R65). Its setup values are in the setup in force. -/
structure Qualifier where
  landings : Six (Option Landing)
  owed : List Pair
deriving DecidableEq, Repr

/-! ## Steps, outcomes and the window (R1, R12, R78, R96, R127) -/

/-- Measurement kinds (R3). -/
inductive Kind where
  | res2
  | cont
  | res4
  | iso
  | cap
  | diode
  | volt
deriving DecidableEq, Repr

/-- A used point of an admitted step, as a machine point (R5, R14). -/
structure Point where
  side : Side
  role : Role
  net : Nat
  at_ : Pos
deriving DecidableEq, Repr

/-- The admitted copy of a step (R12, R14, R16). `kindCode` is the kind field as read; `kind` is its meaning (for an
unlisted code, which check 1 refuses, it is not used: AL 29). `gainRead` is the gain initial as read, before its clamp: the
reachability test reports it whenever it ends the step (R13, R17). `points` is empty when check 1, 2 or 3 failed. -/
structure StepCopy where
  tag : Word32
  kindCode : Byte
  kind : Kind
  autorange : Bool
  barrier : Bool
  skipIfNetFailed : Bool
  loPresent : Bool
  hiPresent : Bool
  retest : Nat
  range : Nat
  gainRead : Nat
  gainInit : Nat
  gainMin : Nat
  gainMax : Nat
  window : Nat
  extension : Nat
  skip : Nat
  settle : Nat
  threshold : Nat
  lo : Int
  hi : Int
  points : List Point
  seq : Word32
  offsets : Sides Pos
  netCount : Nat
  clamped : Bool
deriving DecidableEq, Repr

/-- Dispatch states (R80). -/
inductive DispatchState where
  | waiting
  | moving
  | landing
  | measureQueued
  | measuring
  | discharging
  | lifting
  | held
  | done
deriving DecidableEq, Repr

/-- Verdicts of a step (R170). -/
inductive Verdict where
  | pass
  | low
  | high
  | unresolved
  | nocontact
  | skipped
  | error
deriving DecidableEq, Repr

/-- Failure kinds of a landing (R71). -/
inductive FailureKind where
  | noTouch
  | force
  | pair
  | claim
  | field
deriving DecidableEq, Repr

/-- Causes of an outcome (R170). -/
inductive Cause where
  | none
  | badStep
  | outOfField
  | unreachable
  | noCarriages
  | carriageFault
  | guard
  | halted
  | landing (kind : FailureKind)
deriving DecidableEq, Repr

/-- A step's outcome (R96, R142). -/
structure Outcome where
  verdict : Verdict
  cause : Cause
  value : Int
  clipped : Bool
  ranged : Bool
  guardIgnored : Bool
  passOnRetest : Bool
  stepClamped : Bool
  elecFallback : Bool
  gain : Nat
  range : Nat
  attempts : Nat
  carriages : List (Option Carriage)
  duration : Nat
deriving DecidableEq, Repr

/-- The end at which a conversion clipped (R130). -/
inductive ClipEnd where
  | positive
  | negative
deriving DecidableEq, Repr

/-- A conversion as the Evaluator keeps it (R127). -/
structure Conversion where
  value : Int
  clip : Option ClipEnd
  gain : Nat
  range : Nat
deriving DecidableEq, Repr

/-- The Evaluator's record of a step (R127). -/
structure EvalRec where
  attempt : Nat
  conversions : Nat
  clippedGains : List Nat
  clippedRanges : List Nat
  last : Option Conversion
  ranged : Bool
  guardIgnored : Bool
deriving DecidableEq, Repr

/-- A carriage moved aside for a step, its yield lane and its done mark (R78, R90). -/
structure Yield where
  carriage : Carriage
  lane : Nat
  done : Bool
deriving DecidableEq, Repr

/-- A step entry of the window (R78), with the RETEST answer held until the release (R141) and the Evaluator's record
beside it (R127). `assignment` is empty while the entry has none. -/
structure Entry where
  slot : Nat
  copy : StepCopy
  state : DispatchState
  overtake : Nat
  assignment : List (Option Carriage)
  lastCarriages : List (Option Carriage)
  yields : List Yield
  arrived : List Bool
  ready : List Bool
  attempts : Nat
  dispatchTime : Option Nat
  fallback : Bool
  outcome : Option Outcome
  retestHeld : Bool
  eval : Option EvalRec
deriving DecidableEq, Repr

/-- The Dispatcher: the window in plan order (R78), the slots whose outcomes the held-result list refused (R100), and
its working marks inside one command (AL 24). -/
structure Dispatcher where
  window : List Entry
  refused : List Nat
  withdraw : List Nat
  reach : Bool
  scan : Bool
deriving DecidableEq, Repr

/-! ## The Measurement Unit (R104) and the Source Guard (R145) -/

/-- The work the unit holds (R104); `idle` is NONE. -/
inductive Operation where
  | idle
  | pairCheck
  | measurement
  | calibration
deriving DecidableEq, Repr

/-- Phases of an operation (R105). The unit passes EVALUATE inside one step: the end of COUNT or CHARGE enters it, and
the Evaluator's answer leaves it (R144, AL 12). -/
inductive Phase where
  | precheck
  | dummy
  | settle
  | skip
  | count
  | charge
  | evaluate
  | dwell
  | guardDwell
deriving DecidableEq, Repr

/-- Matrix classes (R109); `opened` is OPEN. -/
inductive MatrixClass where
  | twoWire
  | fourWire
  | isolation
  | charge
  | junction
  | senseOnly
  | opened
deriving DecidableEq, Repr

/-- The four buses of the switch matrix, each reaching one carriage's tip or none (R109). -/
structure Buses where
  sourcePlus : Option Carriage
  sourceMinus : Option Carriage
  sensePlus : Option Carriage
  senseMinus : Option Carriage
deriving DecidableEq, Repr

/-- States of the current source (R110). -/
inductive Source where
  | off
  | load
  | board
deriving DecidableEq, Repr

/-- What follows a DWELL: the release, or a CAP repeat at a range (R116, R117). -/
inductive DwellNext where
  | release
  | repeatAt (range : Nat)
deriving DecidableEq, Repr

/-- The five auto-zero offsets (R104). -/
structure ZTable where
  z0 : Int
  z1 : Int
  z2 : Int
  z3 : Int
  z4 : Int
deriving DecidableEq, Repr

/-- The unit record (R104), with the gain of the conversion in hand kept over a pre-check (R115), the charge timer
(R114), what follows a DWELL, the calibration's offsets formed so far with their clamp marks (R122), and a cut mark: the
phase that an abandonment or a response of the Source Guard stopped, with the time (R119, R121, R153, AL 54). -/
structure MeasUnit where
  op : Operation
  phase : Option Phase
  step : Option Nat
  pair : Option Pair
  checkQueue : List Pair
  measQueue : List Nat
  cls : MatrixClass
  buses : Buses
  source : Source
  range : Option Nat
  gain : Nat
  lastClass : Option MatrixClass
  lastRange : Option Nat
  z : ZTable
  zAge : Nat
  calRange : Bool
  calOrder : Bool
  convGain : Nat
  charge : Nat
  dwellNext : DwellNext
  newZ : List Int
  newClamped : List Bool
  cut : Option (Phase × Nat)
deriving DecidableEq, Repr

/-- The guard record (R145). Its modes, limit and times are in the setup in force. A timer holds the time at which the
assertion it follows began. A cut mark holds the time at which the comparator's running timer was stopped by the end of a
phase or by a response: a completion taken together with it finds its timer gone (R148, AL 46). -/
structure Guard where
  residual : Bool
  senseOver : Bool
  sourceOver : Bool
  senseTimer : Option Nat
  sourceTimer : Option Nat
  senseRaised : Bool
  sourceRaised : Bool
  senseCut : Option Nat
  sourceCut : Option Nat
  retries : Nat
deriving DecidableEq, Repr

/-! ## Net table, frame record and Log Writer (R158, R160, R183) -/

/-- The verdict of a net (R158). -/
inductive NetVerdict where
  | untested
  | pass
  | fail
deriving DecidableEq, Repr

/-- A net record (R158). -/
structure NetRec where
  verdict : NetVerdict
  fails : Nat
  firstTag : Option Word32
deriving DecidableEq, Repr

/-- What a net record holds after a reset and at a frame's opening (R158). -/
def NetRec.untested : NetRec := ⟨.untested, 0, none⟩

/-- The Net Verdict Table (R158): the records that differ from `NetRec.untested`, net numbers strictly rising, and the
net count in use. -/
structure NetTable where
  recs : List (Nat × NetRec)
  inUse : Nat
deriving DecidableEq, Repr

/-- Frame states (R160). -/
inductive FrameState where
  | none
  | opened
  | closing
deriving DecidableEq, Repr

/-- Close reasons (R160). -/
inductive CloseReason where
  | boardEnd
  | nextBegin
deriving DecidableEq, Repr

/-- The frame's result counts (R160). -/
structure ResultCounts where
  pass : Nat
  failing : Nat
  nocontact : Nat
  skipped : Nat
  error : Nat
deriving DecidableEq, Repr

/-- The frame record (R160), with the net image write in progress (R168) and the FRAME_END owed to an ABORT with its
discarded count (R169). -/
structure FrameRec where
  state : FrameState
  reason : Option CloseReason
  serial : Word64
  planTag : Word32
  offsets : Sides Pos
  netCount : Nat
  imageAddr : Word64
  parkOnClose : Bool
  counts : ResultCounts
  imageWritten : Bool
  imageBusy : Bool
  abortDiscards : Option Nat
deriving DecidableEq, Repr

/-- A BOARD_BEGIN as corrected under R161, with its sequence and the code of its OFFSET_CLAMPED note (0 for none). -/
structure BoardBegin where
  serial : Word64
  planTag : Word32
  offsets : Sides Pos
  netCount : Nat
  imageAddr : Word64
  seq : Word32
  clampMarks : Nat
deriving DecidableEq, Repr

/-- Note kinds (R171). -/
inductive NoteKind where
  | offsetClamped
  | lateResponse
  | carriageFault
  | calDone
  | calRange
  | guardEvent
  | chainBreak
deriving DecidableEq, Repr

/-- A NOTE entry's contents (R171). -/
structure Note where
  kind : NoteKind
  carriage : Option Carriage
  code : Nat
  tag : Word32
  seq : Word32
  detail : Nat
deriving DecidableEq, Repr

/-- An outcome in the held-result list, by its step's slot, with the number of its offer (R185). -/
structure HeldResult where
  slot : Nat
  offer : Nat
deriving DecidableEq, Repr

/-- A note in the held-note list, with the number of its offer (R185). -/
structure HeldNote where
  note : Note
  offer : Nat
deriving DecidableEq, Repr

/-- What the entry being written is (R186). -/
inductive EntryKind where
  | frameStart (start : BoardBegin)
  | result (slot : Nat)
  | note
  | frameEnd
deriving DecidableEq, Repr

/-- The two parts of an entry's write (R186): its bytes, then the published count. -/
inductive WriteStage where
  | bytes
  | publish
deriving DecidableEq, Repr

/-- The entry whose write is in progress (R186). -/
structure Writing where
  kind : EntryKind
  bytes : List Byte
  stage : WriteStage
deriving DecidableEq, Repr

/-- Room states (R183). -/
inductive RoomState where
  | ready
  | roomWait
deriving DecidableEq, Repr

/-- The Log Writer (R183), with its drained read and its entry in progress, the BOARD_BEGIN whose FRAME_START is due or
held (R163), and the number of the next offer. -/
structure LogWriter where
  published : Word32
  widx : Nat
  drained : Word32
  notified : Word32
  room : RoomState
  reread : Bool
  results : List HeldResult
  notes : List HeldNote
  dropped : Nat
  base : Word64
  capacity : Nat
  notify : Nat
  started : Bool
  reading : Bool
  writing : Option Writing
  due : Option BoardBegin
  offers : Nat
deriving DecidableEq, Repr

/-! ## The Chain Fetcher (R176, R182) -/

/-- Segment kinds (R175). -/
inductive SegmentKind where
  | steps
  | boardBegin
  | boardEnd
deriving DecidableEq, Repr

/-- Phases of the Fetcher's position (R176). -/
inductive FetchPhase where
  | header
  | records (index : Nat)
  | link
  | hold
  | waitList
deriving DecidableEq, Repr

/-- The Fetcher's position (R176): segment address and sequence, with the kind and entry count its header gave. -/
structure FetchPos where
  addr : Word64
  seq : Word32
  kind : SegmentKind
  count : Nat
  phase : FetchPhase
deriving DecidableEq, Repr

/-- A fetch read in progress: of a header, a record or a link. -/
inductive ReadKind where
  | header
  | record
  | link
deriving DecidableEq, Repr

/-- A fetch read in progress: whether an ABORT has left it without effect (R176), and whether it reads a link again that
stands at 0 (R180). -/
structure FetchRead where
  kind : ReadKind
  voided : Bool
  again : Bool
deriving DecidableEq, Repr

/-- What a board segment holds the Fetcher for (R179). -/
inductive HoldFor where
  | frameStart
  | frameEnd
  | park
deriving DecidableEq, Repr

/-- A segment of the retire list (R182). -/
structure RetireEntry where
  seq : Word32
  kind : SegmentKind
  left : Bool
  owes : Nat
deriving DecidableEq, Repr

/-- Chain states as STATE shows them (R176, R189). -/
inductive ChainState where
  | stopped
  | fetching
  | chainWait
  | broken
deriving DecidableEq, Repr

/-- The Chain Fetcher (R176), with the poll interval in force, the read in progress, the hold and the retired sequence
(R182). `expected` is `none` for ANY. The chain state is computed from `broken`, `waiting` and the controller state. -/
structure Fetcher where
  pos : Option FetchPos
  expected : Option Word32
  next : Option Word64
  waiting : Bool
  broken : Bool
  refill : Bool
  pollMs : Nat
  pollOn : Bool
  reread : Bool
  retire : List RetireEntry
  retiredSeq : Word32
  reading : Option FetchRead
  hold : Option HoldFor
deriving DecidableEq, Repr

/-! ## The Run Controller (R191) -/

/-- Controller states (R191), in the order of their codes in STATE (R189). -/
inductive RunState where
  | powerupCal
  | idle
  | calibrating
  | starting
  | running
  | draining
  | stopped
  | aborting
  | halted
deriving DecidableEq, Repr

/-- Last command results (R191), in the order of their codes in STATE (R189). -/
inductive CommandResult where
  | none
  | accepted
  | ignored
  | refused
deriving DecidableEq, Repr

/-- Start origins, and the return states that go with them: FROM_IDLE with IDLE, FROM_STOPPED with STOPPED (R191). -/
inductive Origin where
  | fromIdle
  | fromStopped
deriving DecidableEq, Repr

/-- Return states (R191). -/
inductive ReturnState where
  | idle
  | stopped
deriving DecidableEq, Repr

/-- What STARTING waits for (R193 to R195). -/
inductive StartStage where
  | stationBlock
  | setupRecord
  | answers
  | homing
deriving DecidableEq, Repr

/-- The Station Block values held until STARTING ends (R193). -/
structure StationValues where
  head : Word64
  setupAddr : Word64
  base : Word64
  capacity : Nat
  notify : Nat
  pollMs : Nat
deriving DecidableEq, Repr

/-- The saved setup (R191): the setup values, the carriage records and the Claim Table held before the present START. -/
structure Saved where
  setup : Setup
  carriages : Six CarriageRec
  claims : Sides ClaimTable
deriving DecidableEq, Repr

/-- Progress of a park on one side (R38). -/
inductive ParkMark where
  | none
  | due
  | issued
deriving DecidableEq, Repr

/-- The controller record (R191), with chain_break (R181) and what the sequences wait on. -/
structure RunCtl where
  state : RunState
  ret : Option ReturnState
  pendingCal : Bool
  last : CommandResult
  setupInvalid : Bool
  orderFault : Bool
  chainBreak : Bool
  origin : Option Origin
  saved : Option Saved
  mirror : Bool
  stage : Option StartStage
  held : Option StationValues
  unset : List Carriage
  answers : Six (Option Pos)
  homeIssued : Sides Bool
  framePark : Sides ParkMark
  runPark : Sides ParkMark
deriving DecidableEq, Repr

/-! ## The whole state -/

/-- The state of the part, with the queue of waiting commands (oldest first), the clock in µs (AL 2), the counter of
free values (AL 7), the requests sent on the axis link (AL 5) and the bytes written to host memory (AL 6). -/
structure State where
  pending : List Instr
  clock : Nat
  free : Nat
  linkOut : List (Carriage × AxisRequest)
  hostMem : List Host.Cell
  regs : Regs
  run : RunCtl
  setup : Setup
  claims : Sides ClaimTable
  carriages : Six CarriageRec
  pins : Pins
  qual : Qualifier
  disp : Dispatcher
  mu : MeasUnit
  guard : Guard
  nets : NetTable
  frame : FrameRec
  log : LogWriter
  fetch : Fetcher
deriving DecidableEq, Repr

/-- Why the part stops. The EZT-46 has no exception and no stop: every condition it meets is an effect on State
(INVENTORY.md, Faults). The one constructor is raised by nothing; it stands so that the type is not empty. Safe. -/
inductive Fault where
  /-- Raised by no command. Safe: a model that never stops here can prove nothing from it. -/
  | unused
deriving DecidableEq, Repr

/-- Why a command has no meaning. -/
inductive Refusal where
  /-- Raised by an arm of `exec` whose command has no meaning yet, by its mnemonic. Safe: the model stops. -/
  | notModelled (mnemonic : String)
deriving DecidableEq, Repr

/-! ## Values after power-on reset -/

/-- One value on both sides. -/
def Sides.both {α : Type} (a : α) : Sides α := ⟨a, a⟩

/-- One value for all six carriages. -/
def Six.all {α : Type} (a : α) : Six α := ⟨a, a, a, a, a, a⟩

/-- A carriage block of zero bytes, corrected (R199, R200). -/
def CarriageSetup.powerOn : CarriageSetup := ⟨false, 0, 0, 0, 0, .force, 0, 0, 0⟩

/-- The setup in force after power-on reset: a record of 256 zero bytes, corrected (R199, R200). -/
def Setup.powerOn : Setup where
  laneFactor := 1
  moveMs := 1
  descendMs := 1
  liftMs := 1
  zLimit := 0
  reland := 0
  scrub := 0
  filter0 := 1
  filter1 := 1
  filter2 := 1
  filter3 := 1
  contactLimit := 100000
  dwell := 0
  residualLimit := 100
  residualMode := .latch
  overloadMode := .latch
  deglitch := 2
  retryDwell := 1000
  fields := .both ⟨0, 0⟩
  carriages := .all .powerOn

/-- A carriage record after either reset (R63, R64). -/
def CarriageRec.reset : CarriageRec where
  state := .off
  phase := none
  purpose := none
  service := none
  ended := false
  target := none
  position := none
  probeUp := false
  request := none
  timer := none
  timerCut := none
  scrubIndex := 0
  followOn := none
  tip := .isolated

/-- A side's table after either reset: every cell FREE, no entry pending (R26). -/
def ClaimTable.reset : ClaimTable := ⟨List.replicate Config.lanes none, []⟩

/-- No landing record, nothing owed (R65). -/
def Qualifier.reset : Qualifier := ⟨.all none, []⟩

/-- An empty window (R103). -/
def Dispatcher.reset : Dispatcher := ⟨[], [], [], false, false⟩

/-- Every bus none (R109). -/
def Buses.none : Buses := ⟨Option.none, Option.none, Option.none, Option.none⟩

/-- The unit record of R125: the values power-on reset sets, before the ordered calibration starts. -/
def MeasUnit.powerOn : MeasUnit where
  op := .idle
  phase := none
  step := none
  pair := none
  checkQueue := []
  measQueue := []
  cls := .opened
  buses := .none
  source := .off
  range := none
  gain := 0
  lastClass := none
  lastRange := none
  z := ⟨0, 0, 0, 0, 0⟩
  zAge := 65535
  calRange := false
  calOrder := true
  convGain := 0
  charge := 0
  dwellNext := .release
  newZ := []
  newClamped := []
  cut := none

/-- The guard record after either reset (R145). -/
def Guard.reset : Guard := ⟨false, false, false, none, none, false, false, none, none, 0⟩

/-- The net table after either reset (R158). -/
def NetTable.reset : NetTable := ⟨[], 0⟩

/-- The frame record after either reset (R160). -/
def FrameRec.reset : FrameRec where
  state := .none
  reason := none
  serial := 0
  planTag := 0
  offsets := .both ⟨0, 0⟩
  netCount := 0
  imageAddr := 0
  parkOnClose := false
  counts := ⟨0, 0, 0, 0, 0⟩
  imageWritten := false
  imageBusy := false
  abortDiscards := none

/-- The Log Writer after power-on reset (R183). The log base, capacity and notify threshold are those of a Station
Block of zero bytes (AL 10). -/
def LogWriter.powerOn : LogWriter where
  published := 0
  widx := 0
  drained := 0
  notified := 0
  room := .ready
  reread := false
  results := []
  notes := []
  dropped := 0
  base := 0
  capacity := 64
  notify := 1
  started := false
  reading := false
  writing := none
  due := none
  offers := 0

/-- The Fetcher after power-on reset (R176, R182). The poll interval is that of a Station Block of zero bytes
(AL 10). -/
def Fetcher.powerOn : Fetcher where
  pos := none
  expected := none
  next := none
  waiting := false
  broken := false
  refill := false
  pollMs := 0
  pollOn := false
  reread := false
  retire := []
  retiredSeq := 0
  reading := none
  hold := none

/-- The controller record after RESET (R191). -/
def RunCtl.afterReset : RunCtl where
  state := .idle
  ret := none
  pendingCal := false
  last := .none
  setupInvalid := false
  orderFault := false
  chainBreak := false
  origin := none
  saved := none
  mirror := false
  stage := none
  held := none
  unset := []
  answers := .all none
  homeIssued := .both false
  framePark := .both .none
  runPark := .both .none

/-- The part right after power-on reset (R199), with the power-on calibration started, since it starts at once
(R125, AL 8). Registers the manual gives no value take the values AL 9 and AL 10 name. -/
def State.reset : State where
  pending := []
  clock := 0
  free := 0
  linkOut := []
  hostMem := []
  regs := ⟨0, 0, 0⟩
  run := { RunCtl.afterReset with state := .powerupCal }
  setup := .powerOn
  claims := .both .reset
  carriages := .all .reset
  pins := ⟨.all false, false, false⟩
  qual := .reset
  disp := .reset
  mu := { MeasUnit.powerOn with op := .calibration, phase := some .dummy, calOrder := false }
  guard := .reset
  nets := .reset
  frame := .reset
  log := .powerOn
  fetch := .powerOn

end Sys2Proof.Machine
end

