-- ==== Sys2Proof/Machine/Ops.lean ====
section
/-! DEFINITION. The named operations over the state: carriages and sides, one update per block of State, window entries,
sorted keyed lists (host memory, net records), little-endian bytes, and the writes to host memory. -/

namespace Sys2Proof.Machine

/-! ## Carriages and sides -/

/-- The side a carriage stands on (R43). -/
def sideOf : Carriage → Side
  | .t1 | .t2 | .t3 | .t4 => .top
  | .b1 | .b2 => .bottom

/-- The carriages of a side in increasing index (00_scope.md, "Carriage numbering"). -/
def carriagesOf : Side → List Carriage
  | .top => [.t1, .t2, .t3, .t4]
  | .bottom => [.b1, .b2]

/-- All six carriages in the order of their drive numbers (R43). -/
def allCarriages : List Carriage := [.t1, .t2, .t3, .t4, .b1, .b2]

/-- The fixed drive number 1..6 of a carriage (R43). -/
def driveNumber : Carriage → Nat
  | .t1 => 1
  | .t2 => 2
  | .t3 => 3
  | .t4 => 4
  | .b1 => 5
  | .b2 => 6

/-- The code of a carriage, or of none, in the log (R170, R171). -/
def carriageCode : Option Carriage → Nat
  | none => 0
  | some c => driveNumber c

/-- The value of one carriage. -/
def Six.get {α : Type} (v : Six α) : Carriage → α
  | .t1 => v.t1
  | .t2 => v.t2
  | .t3 => v.t3
  | .t4 => v.t4
  | .b1 => v.b1
  | .b2 => v.b2

/-- Replace the value of one carriage. -/
def Six.set {α : Type} (v : Six α) (c : Carriage) (a : α) : Six α :=
  match c with
  | .t1 => { v with t1 := a }
  | .t2 => { v with t2 := a }
  | .t3 => { v with t3 := a }
  | .t4 => { v with t4 := a }
  | .b1 => { v with b1 := a }
  | .b2 => { v with b2 := a }

/-- The value of one side. -/
def Sides.get {α : Type} (v : Sides α) : Side → α
  | .top => v.top
  | .bottom => v.bottom

/-- Replace the value of one side. -/
def Sides.set {α : Type} (v : Sides α) (d : Side) (a : α) : Sides α :=
  match d with
  | .top => { v with top := a }
  | .bottom => { v with bottom := a }

/-! ## One update per block -/

/-- Change `free` and nothing else. -/
def State.updFree (f : Nat → Nat) (s : State) : State :=
  { s with free := f s.free }

/-- Change `linkOut` and nothing else. -/
def State.updLinkOut (f : List (Carriage × AxisRequest) → List (Carriage × AxisRequest)) (s : State) : State :=
  { s with linkOut := f s.linkOut }

/-- Change `hostMem` and nothing else. -/
def State.updHostMem (f : List Host.Cell → List Host.Cell) (s : State) : State :=
  { s with hostMem := f s.hostMem }

/-- Change `regs` and nothing else. -/
def State.updRegs (f : Regs → Regs) (s : State) : State :=
  { s with regs := f s.regs }

/-- Change `run` and nothing else. -/
def State.updRun (f : RunCtl → RunCtl) (s : State) : State :=
  { s with run := f s.run }

/-- Change `setup` and nothing else. -/
def State.updSetup (f : Setup → Setup) (s : State) : State :=
  { s with setup := f s.setup }

/-- Change `claims` and nothing else. -/
def State.updClaims (f : Sides ClaimTable → Sides ClaimTable) (s : State) : State :=
  { s with claims := f s.claims }

/-- Change `carriages` and nothing else. -/
def State.updCarriages (f : Six CarriageRec → Six CarriageRec) (s : State) : State :=
  { s with carriages := f s.carriages }

/-- Change `pins` and nothing else. -/
def State.updPins (f : Pins → Pins) (s : State) : State :=
  { s with pins := f s.pins }

/-- Change `qual` and nothing else. -/
def State.updQual (f : Qualifier → Qualifier) (s : State) : State :=
  { s with qual := f s.qual }

/-- Change `disp` and nothing else. -/
def State.updDisp (f : Dispatcher → Dispatcher) (s : State) : State :=
  { s with disp := f s.disp }

/-- Change `mu` and nothing else. -/
def State.updMu (f : MeasUnit → MeasUnit) (s : State) : State :=
  { s with mu := f s.mu }

/-- Change `guard` and nothing else. -/
def State.updGuard (f : Guard → Guard) (s : State) : State :=
  { s with guard := f s.guard }

/-- Change `nets` and nothing else. -/
def State.updNets (f : NetTable → NetTable) (s : State) : State :=
  { s with nets := f s.nets }

/-- Change `frame` and nothing else. -/
def State.updFrame (f : FrameRec → FrameRec) (s : State) : State :=
  { s with frame := f s.frame }

/-- Change `log` and nothing else. -/
def State.updLog (f : LogWriter → LogWriter) (s : State) : State :=
  { s with log := f s.log }

/-- Change `fetch` and nothing else. -/
def State.updFetch (f : Fetcher → Fetcher) (s : State) : State :=
  { s with fetch := f s.fetch }

/-! ## Reading and changing parts of a block -/

/-- The record of a carriage. -/
def State.carr (s : State) (c : Carriage) : CarriageRec := s.carriages.get c

/-- Change the record of one carriage. -/
def State.modCarr (c : Carriage) (f : CarriageRec → CarriageRec) (s : State) : State :=
  s.updCarriages fun v => v.set c (f (v.get c))

/-- The setup values of a carriage. -/
def State.cset (s : State) (c : Carriage) : CarriageSetup := s.setup.carriages.get c

/-- The claim table of a side. -/
def State.table (s : State) (d : Side) : ClaimTable := s.claims.get d

/-- Change the claim table of one side. -/
def State.modTable (d : Side) (f : ClaimTable → ClaimTable) (s : State) : State :=
  s.updClaims fun v => v.set d (f (v.get d))

/-- The landing record of a carriage. -/
def State.landing (s : State) (c : Carriage) : Option Landing := s.qual.landings.get c

/-- Set or close the landing record of a carriage. -/
def State.setLanding (c : Carriage) (l : Option Landing) (s : State) : State :=
  s.updQual fun q => { q with landings := q.landings.set c l }

/-- Change the landing record of a carriage, if it is open. -/
def State.modLanding (c : Carriage) (f : Landing → Landing) (s : State) : State :=
  s.setLanding c ((s.landing c).map f)

/-- The step entry in a window slot. -/
def State.entry (s : State) (slot : Nat) : Option Entry :=
  s.disp.window.find? fun e => e.slot == slot

/-- Change the step entry in a window slot. -/
def State.modEntry (slot : Nat) (f : Entry → Entry) (s : State) : State :=
  s.updDisp fun d => { d with window := d.window.map fun e => if e.slot == slot then f e else e }

/-- The entry whose assignment names a carriage, if any. -/
def State.servedBy (s : State) (c : Carriage) : Option Entry :=
  s.disp.window.find? fun e => e.assignment.contains (some c)

/-- A scan of the window is owed (R84). -/
def State.markScan (s : State) : State := s.updDisp fun d => { d with scan := true }

/-- The reachability test of the WAITING steps is owed (R82). -/
def State.markReach (s : State) : State := s.updDisp fun d => { d with reach := true }

/-- A withdrawal of a step is owed (R98). -/
def State.markWithdraw (slot : Nat) (s : State) : State :=
  s.updDisp fun d => { d with withdraw := d.withdraw ++ [slot] }

/-- In service: neither OFF nor FAULT (R81). -/
def CarriageRec.inService (r : CarriageRec) : Bool := r.state != .off && r.state != .fault

/-- In flight: dispatched and back neither in WAITING nor out of the window (R80). -/
def Entry.inFlight (e : Entry) : Bool := e.dispatchTime.isSome && e.state != .waiting

/-- Completed: HELD or DONE (R80). -/
def Entry.completed (e : Entry) : Bool := e.state == .held || e.state == .done

/-- The carriages in a step's service. -/
def Entry.serving (e : Entry) : List Carriage := e.assignment.filterMap id

/-- The carriage that serves the point of a role. -/
def Entry.carriageOf (e : Entry) (r : Role) : Option Carriage :=
  ((e.copy.points.zip e.assignment).find? fun q => q.1.role == r).bind (·.2)

/-- The nominal machine point of a role (R73). -/
def Entry.nominal (e : Entry) (r : Role) : Option Pos :=
  (e.copy.points.find? fun p => p.role == r).map (·.at_)

/-- The index of the point a carriage serves. -/
def Entry.pointOf (e : Entry) (c : Carriage) : Option Nat :=
  e.assignment.findIdx? fun a => a == some c

/-- The attempt number of the current attempt (R95). -/
def Entry.attemptNo (e : Entry) : Nat := e.attempts + 1

/-- Raise a saturating count by one (00_scope.md, "Saturating counts"). -/
def saturate (limit n : Nat) : Nat := min limit (n + 1)

/-! ## Sorted keyed lists

Keys strictly rising, at most one value per key: the one form both host memory and the net records take. -/

/-- The value at a key. -/
def lookupKey {β : Type} (k : Nat) : List (Nat × β) → Option β
  | [] => none
  | (k', v) :: rest => if k' = k then some v else lookupKey k rest

/-- Put a value at a key, keeping the keys strictly rising. -/
def insertKey {β : Type} (k : Nat) (v : β) : List (Nat × β) → List (Nat × β)
  | [] => [(k, v)]
  | (k', v') :: rest =>
    if k < k' then (k, v) :: (k', v') :: rest
    else if k = k' then (k, v) :: rest
    else (k', v') :: insertKey k v rest

/-- Keys strictly rising. -/
def keysRise {β : Type} : List (Nat × β) → Bool
  | [] => true
  | [_] => true
  | a :: b :: rest => decide (a.1 < b.1) && keysRise (b :: rest)

/-! ## Bytes -/

/-- The `n` little-endian bytes of a natural number (00_scope.md, "Encodings"). -/
def leBytes : Nat → Nat → List Byte
  | 0, _ => []
  | n + 1, v => BitVec.ofNat 8 v :: leBytes n (v / 256)

/-- The `n` little-endian two's complement bytes of an integer. -/
def leSigned (n : Nat) (v : Int) : List Byte := leBytes n (v % (256 ^ n : Nat)).toNat

/-- The byte at an offset of a structure that was read; a byte the read did not return is 0 (AL 4). -/
def byteAt (b : List Byte) (i : Nat) : Nat := (b.getD i 0).toNat

/-- The `n`-byte little-endian field at an offset. -/
def fieldAt (b : List Byte) (i : Nat) : Nat → Nat
  | 0 => 0
  | n + 1 => byteAt b i + 256 * fieldAt b (i + 1) n

/-- The `n`-byte little-endian two's complement field at an offset. -/
def signedAt (b : List Byte) (i n : Nat) : Int :=
  let v := fieldAt b i n
  if 2 * v < 256 ^ n then v else (v : Int) - (256 ^ n : Nat)

/-! ## Host memory the part has written (AL 6) -/

/-- The byte the part last wrote at an address, if it has written there. -/
def State.hostByte (s : State) (a : Nat) : Option Byte := lookupKey a s.hostMem

/-- Write consecutive bytes from an address on, addresses modulo 2^64 (AL 6). -/
def putBytes (a : Word64) : List Byte → List Host.Cell → List Host.Cell
  | [], m => m
  | b :: rest, m => putBytes (a + 1) rest (insertKey a.toNat b m)

/-- Write consecutive bytes of host memory. -/
def State.writeHost (a : Word64) (bytes : List Byte) (s : State) : State :=
  s.updHostMem (putBytes a bytes)

/-- The Station Block's address: STATION_BASE with its low six bits ignored (R173). -/
def State.station (s : State) : Word64 := s.regs.stationBase &&& ~~~(63 : Word64)

/-- A whole 4-byte write of a Station Block field (R174). -/
def State.writeStation (offset : Nat) (v : Nat) (s : State) : State :=
  s.writeHost (s.station + BitVec.ofNat 64 offset) (leBytes 4 v)

/-- The canonical form of host memory: addresses strictly rising. An unlisted address is one the part has not written,
so no byte equals what an unlisted address reads as. -/
def Memory.wf (m : List Host.Cell) : Bool := keysRise m

/-- How far a stopped write had got: a free value, at most `len` bytes (AL 7). -/
def State.progress (s : State) (len : Nat) : Nat := min (Config.freeProgress s.free) len

/-- A write that a reset or an ABORT stops: a free number of its bytes have landed (AL 7). -/
def State.writeHostPart (a : Word64) (bytes : List Byte) (s : State) : State :=
  (s.writeHost a (bytes.take (s.progress bytes.length))).updFree (· + 1)

/-! ## Notes (R171, R185) -/

/-- A note offered to the Log Writer joins the held-note list, or is dropped and counted when the list holds 8
(R185). -/
def State.offerNote (n : Note) (s : State) : State :=
  s.updLog fun l =>
    if l.notes.length < Config.heldNotes then
      { l with notes := l.notes ++ [⟨n, l.offers⟩], offers := l.offers + 1 }
    else
      { l with dropped := saturate Config.droppedMax l.dropped }

/-- The tag and segment sequence of the step a service names, or 0 and 0 (R171). R59 and R171 leave it open for a carriage
that still comes to rest for a step which ABORT has discarded, and for a withdrawn step whose slot has been freed or taken
again since: the slot is read as it stands (AL 47). -/
def State.serviceTag (s : State) (v : Option Service) : Word32 × Word32 :=
  match v.bind fun q => s.entry q.slot with
  | some e => (e.copy.tag, e.copy.seq)
  | none => (0, 0)

/-- Codes of the responses in a LATE_RESPONSE note (R171). -/
inductive ResponseKind where
  | arrived
  | touched
  | noTouch
  | lifted
  | halted
  | position
  | driveFault
deriving DecidableEq, Repr

/-- The code of a response (R171). -/
def responseCode : ResponseKind → Nat
  | .arrived => 1
  | .touched => 2
  | .noTouch => 3
  | .lifted => 4
  | .halted => 5
  | .position => 6
  | .driveFault => 7

/-- A response with no matching outstanding request: discarded, with NOTE LATE_RESPONSE in every state but OFF (R47). -/
def State.lateResponse (c : Carriage) (k : ResponseKind) (s : State) : State :=
  if (s.carr c).state = .off then s
  else
    let t := s.serviceTag (s.carr c).service
    s.offerNote ⟨.lateResponse, some c, responseCode k, t.1, t.2, 0⟩

end Sys2Proof.Machine
end

