-- ==== Sys2Proof/Machine/Flags.lean ====
section
/-! DEFINITION. The six host registers: STATE, INT_STATUS with its causes, the interrupt line, register reads, and the
change of controller state with its mirror (R174, R189, R190, R192). -/

namespace Sys2Proof.Machine

/-! ## STATE (R189) -/

/-- The chain state (R176): BROKEN from a break until the header is read again, CHAIN_WAIT while a link read of 0 stands,
FETCHING in RUNNING otherwise, STOPPED in any other case. -/
def State.chainState (s : State) : ChainState :=
  if s.fetch.broken then .broken
  else if s.fetch.waiting then .chainWait
  else if s.run.state = .running then .fetching
  else .stopped

/-- The code of a controller state (R189). -/
def runCode : RunState → Nat
  | .powerupCal => 0
  | .idle => 1
  | .calibrating => 2
  | .starting => 3
  | .running => 4
  | .draining => 5
  | .stopped => 6
  | .aborting => 7
  | .halted => 8

/-- The code of a chain state (R189). -/
def chainCode : ChainState → Nat
  | .stopped => 0
  | .fetching => 1
  | .chainWait => 2
  | .broken => 3

/-- The code of a last command result (R189). -/
def resultCode : CommandResult → Nat
  | .none => 0
  | .accepted => 1
  | .ignored => 2
  | .refused => 3

/-- One bit of a register as a number. -/
def bitAt (b : Bool) (i : Nat) : Nat := if b then 2 ^ i else 0

/-- The STATE register (R189). -/
def State.stateReg (s : State) : Word32 :=
  BitVec.ofNat 32 (runCode s.run.state + 16 * chainCode s.chainState + bitAt s.guard.residual 8 +
    bitAt s.guard.senseOver 9 + bitAt s.guard.sourceOver 10 + bitAt s.mu.calRange 11 + bitAt s.run.chainBreak 12 +
    bitAt s.run.setupInvalid 13 + bitAt s.run.orderFault 14 + 65536 * resultCode s.run.last)

/-! ## Interrupt causes (R190) -/

/-- The six interrupt causes, in the order of their bits (R189). -/
inductive IntCause where
  | results
  | frame
  | chainWait
  | fault
  | stopped
  | cal
deriving DecidableEq, Repr

/-- The bit of a cause in INT_STATUS and INT_ENABLE (R189). -/
def causeBit : IntCause → BitVec 6
  | .results => 1
  | .frame => 2
  | .chainWait => 4
  | .fault => 8
  | .stopped => 16
  | .cal => 32

/-- Raise an interrupt cause: its INT_STATUS bit is set (R190). -/
def State.raise (k : IntCause) (s : State) : State :=
  s.updRegs fun r => { r with intStatus := r.intStatus ||| causeBit k }

/-- The interrupt line: asserted while a status bit is set with its enable bit set (R190). -/
def State.interruptLine (s : State) : Bool := s.regs.intStatus &&& s.regs.intEnable != 0

/-! ## Register reads (R189) -/

/-- The four-byte registers of the window, STATION_BASE as its two halves (R189). -/
inductive RegName where
  | stationBaseLow
  | stationBaseHigh
  | command
  | wake
  | state
  | intStatus
  | intEnable
deriving DecidableEq, Repr

/-- What a four-byte read of a register returns; COMMAND and WAKE read 0 (R189). The bits of INT_STATUS and INT_ENABLE that
the table does not give read 0, and STATION_BASE reads back its low six bits as written (AL 11). -/
def State.readRegister (s : State) : RegName → Word32
  | .stationBaseLow => BitVec.ofNat 32 s.regs.stationBase.toNat
  | .stationBaseHigh => BitVec.ofNat 32 (s.regs.stationBase.toNat / 4294967296)
  | .command => 0
  | .wake => 0
  | .state => s.stateReg
  | .intStatus => s.regs.intStatus.setWidth 32
  | .intEnable => s.regs.intEnable.setWidth 32

/-- The register at an offset of the window, the half of STATION_BASE at 0x00 and 0x04 (R189). An offset that the table does
not name has none (AL 11). -/
def registerAt : Nat → Option RegName
  | 0x00 => some .stationBaseLow
  | 0x04 => some .stationBaseHigh
  | 0x08 => some .command
  | 0x0C => some .wake
  | 0x10 => some .state
  | 0x14 => some .intStatus
  | 0x18 => some .intEnable
  | _ => none

/-- A four-byte read at an offset of the window (R189). -/
def State.readOffset (s : State) (offset : Nat) : Option Word32 := (registerAt offset).map s.readRegister

/-! ## Changes of controller state (R174, R191) -/

/-- Enter a controller state. Leaving RUNNING ends a wait on the chain, and entering it has the link read again, so no
wait outlasts a change (R180, AL 25). While the mirror mark is set the mirror
is written with STATE as it stands just after the change (R174). -/
def State.setRun (q : RunState) (s : State) : State :=
  let s := s.updRun fun r => { r with state := q }
  let s := s.updFetch fun f => { f with waiting := false }
  if s.run.mirror then s.writeStation 0x30 s.stateReg.toNat else s

/-- The last command result (R192). -/
def State.setLast (q : CommandResult) (s : State) : State := s.updRun fun r => { r with last := q }

end Sys2Proof.Machine
end

