-- ==== Sys2Proof/Machine/Operands.lean ====
section
/-! DEFINITION. The operand forms: the host memory structures the part reads, taken from their bytes by the layout
tables, each with the corrections its rule gives (R1, R161, R173, R175, R200). -/

namespace Sys2Proof.Machine

/-- Clamp to lo..hi. -/
def clampNat (lo hi n : Nat) : Nat := max lo (min hi n)

/-- Clamp a signed value to lo..hi. -/
def clampInt (lo hi n : Int) : Int := max lo (min hi n)

/-- An 8-byte field as an address with its low bits ignored, `mask` being those bits. -/
def addressAt (b : List Byte) (i : Nat) (mask : Word64) : Word64 := BitVec.ofNat 64 (fieldAt b i 8) &&& ~~~mask

/-- The Station Block values the part takes at START, corrected (R173, R193). -/
def parseStation (b : List Byte) : StationValues where
  head := addressAt b 0x00 7
  setupAddr := addressAt b 0x08 7
  base := addressAt b 0x10 31
  capacity := clampNat 64 1048576 (fieldAt b 0x18 4)
  notify := clampNat 1 256 (fieldAt b 0x20 2)
  pollMs := byteAt b 0x22

/-- A response mode code; an unlisted one is LATCH (R200). -/
def guardModeOf : Nat → GuardMode
  | 1 => .retry
  | 2 => .report
  | 3 => .ignore
  | _ => .latch

/-- A contact method code; an unlisted one is FORCE (R200). -/
def methodOf : Nat → Method
  | 1 => .electrical
  | 2 => .forceAndElectrical
  | 3 => .forceOrElectrical
  | _ => .force

/-- A deglitch code as its time in µs (R200). -/
def deglitchOf : Nat → Nat
  | 0 => 2
  | 1 => 5
  | 2 => 10
  | _ => 50

/-- A retry dwell code as its time in µs (R200). -/
def retryDwellOf : Nat → Nat
  | 0 => 1000
  | _ => 20000

/-- The carriage block of a setup record at offset `o`, with the carriage's enable bit (R200). -/
def parseCarriage (b : List Byte) (o bit : Nat) : CarriageSetup where
  enabled := Nat.testBit (byteAt b 0x01) bit
  tipOffset := clampInt (-20000) 20000 (signedAt b o 4)
  parkX := fieldAt b (o + 0x04) 4
  parkY := (clampInt 0 500000 (signedAt b (o + 0x08) 4)).toNat
  guard := min 7 (byteAt b (o + 0x0C))
  method := methodOf (byteAt b (o + 0x0D))
  filter := byteAt b (o + 0x0E) % 4
  lead := min 10000000 (fieldAt b (o + 0x10) 4)
  stray := min 100000 (fieldAt b (o + 0x14) 4)

/-- The setup record, corrected (R200). -/
def parseSetup (b : List Byte) : Setup where
  laneFactor := clampNat 1 20 (byteAt b 0x00)
  moveMs := clampNat 1 4000 (fieldAt b 0x02 2)
  descendMs := clampNat 1 1000 (fieldAt b 0x04 2)
  liftMs := clampNat 1 1000 (fieldAt b 0x06 2)
  zLimit := min 3000 (fieldAt b 0x08 2)
  reland := min 3 (byteAt b 0x0A)
  scrub := min 200 (byteAt b 0x0B)
  filter0 := max 1 (byteAt b 0x0C)
  filter1 := max 1 (byteAt b 0x0D)
  filter2 := max 1 (byteAt b 0x0E)
  filter3 := max 1 (byteAt b 0x0F)
  contactLimit := clampNat 100000 100000000 (fieldAt b 0x10 4)
  dwell := min 1000 (fieldAt b 0x14 2)
  residualLimit := clampNat 100 10000 (fieldAt b 0x16 2)
  residualMode := guardModeOf (byteAt b 0x18)
  overloadMode := guardModeOf (byteAt b 0x19)
  deglitch := deglitchOf (byteAt b 0x1A)
  retryDwell := retryDwellOf (byteAt b 0x1B)
  fields := ⟨⟨fieldAt b 0x20 4, fieldAt b 0x24 4⟩, ⟨fieldAt b 0x28 4, fieldAt b 0x2C 4⟩⟩
  carriages := ⟨parseCarriage b 0x40 0, parseCarriage b 0x60 1, parseCarriage b 0x80 2, parseCarriage b 0xA0 3,
    parseCarriage b 0xC0 4, parseCarriage b 0xE0 5⟩

/-- The filter time a carriage selects, in µs (R65). -/
def Setup.filterTime (t : Setup) (c : Carriage) : Nat :=
  match (t.carriages.get c).filter with
  | 0 => t.filter0
  | 1 => t.filter1
  | 2 => t.filter2
  | _ => t.filter3

/-! ## Segments (R175) -/

/-- A segment kind code, if it is listed (R175). -/
def segmentKindOf : Nat → Option SegmentKind
  | 1 => some .steps
  | 2 => some .boardBegin
  | 3 => some .boardEnd
  | _ => none

/-- The sequence field of a header. -/
def headerSeq (b : List Byte) : Word32 := BitVec.ofNat 32 (fieldAt b 0x00 4)

/-- The entry count of a header. -/
def headerCount (b : List Byte) : Nat := byteAt b 0x05

/-- The PARK flag of a BOARD_END body. -/
def headerPark (b : List Byte) : Bool := Nat.testBit (byteAt b 0x10) 0

/-- The mark of one placement offset if the ±5,000 µm clamp changes it (R161). -/
def clampMark (v : Int) (mark : Nat) : Nat := if clampInt (-5000) 5000 v = v then 0 else mark

/-- A BOARD_BEGIN segment's body, corrected (R161). -/
def parseBoardBegin (b : List Byte) : BoardBegin :=
  let tx := signedAt b 0x20 4
  let ty := signedAt b 0x24 4
  let bx := signedAt b 0x28 4
  let by_ := signedAt b 0x2C 4
  { serial := BitVec.ofNat 64 (fieldAt b 0x10 8)
    planTag := BitVec.ofNat 32 (fieldAt b 0x18 4)
    offsets := ⟨⟨clampInt (-5000) 5000 tx, clampInt (-5000) 5000 ty⟩,
      ⟨clampInt (-5000) 5000 bx, clampInt (-5000) 5000 by_⟩⟩
    netCount := clampNat 1 Config.nets (fieldAt b 0x1C 2)
    imageAddr := BitVec.ofNat 64 (fieldAt b 0x30 8)
    seq := headerSeq b
    clampMarks := clampMark tx 1 + clampMark ty 2 + clampMark bx 4 + clampMark by_ 8 }

/-! ## Step records (R1) -/

/-- A kind code, if it is listed (R3). -/
def kindOf : Nat → Option Kind
  | 1 => some .res2
  | 2 => some .cont
  | 3 => some .res4
  | 4 => some .iso
  | 5 => some .cap
  | 6 => some .diode
  | 7 => some .volt
  | _ => none

/-- A role code, if it is listed. -/
def roleOf : Nat → Option Role
  | 1 => some .hi
  | 2 => some .lo
  | 3 => some .forceHi
  | 4 => some .forceLo
  | 5 => some .senseHi
  | 6 => some .senseLo
  | _ => none

/-- A side code, if it is listed. -/
def sideCode : Nat → Option Side
  | 0 => some .top
  | 1 => some .bottom
  | _ => none

/-- A point slot as read: its side and role codes, its net and its board point. -/
structure RawPoint where
  side : Nat
  role : Nat
  net : Nat
  x : Int
  y : Int
deriving DecidableEq, Repr

/-- A step record as read: the fields of the step record table. -/
structure RawStep where
  tag : Word32
  kind : Byte
  probes : Nat
  flags : Nat
  retest : Nat
  range : Nat
  gainInit : Nat
  gainMin : Nat
  gainMax : Nat
  window : Nat
  skip : Nat
  extension : Nat
  settle : Nat
  threshold : Nat
  lo : Int
  hi : Int
  points : List RawPoint
deriving DecidableEq, Repr

/-- The point slot at offset `o`. -/
def parsePoint (b : List Byte) (o : Nat) : RawPoint where
  side := byteAt b o
  role := byteAt b (o + 1)
  net := fieldAt b (o + 2) 2
  x := signedAt b (o + 4) 4
  y := signedAt b (o + 8) 4

/-- The fields of an 80-byte step record (R1); `points` holds all four slots. -/
def parseStep (b : List Byte) : RawStep where
  tag := BitVec.ofNat 32 (fieldAt b 0x00 4)
  kind := b.getD 0x04 0
  probes := byteAt b 0x05
  flags := byteAt b 0x06
  retest := byteAt b 0x07
  range := byteAt b 0x08
  gainInit := byteAt b 0x09
  gainMin := byteAt b 0x0A
  gainMax := byteAt b 0x0B
  window := fieldAt b 0x0C 2
  skip := fieldAt b 0x0E 2 % 4096
  extension := fieldAt b 0x0E 2 / 4096
  settle := fieldAt b 0x10 2
  threshold := fieldAt b 0x12 2
  lo := signedAt b 0x14 6
  hi := signedAt b 0x1A 6
  points := [parsePoint b 0x20, parsePoint b 0x2C, parsePoint b 0x38, parsePoint b 0x44]

end Sys2Proof.Machine
end

