-- ==== Sys2Proof/Machine/Arith.lean ====
section
/-! DEFINITION. The arithmetic of conversions: rounding, the range and gain tables, sums of corrected codes, values,
clip values, auto-range and verdicts (R110, R111, R129 to R140). -/

namespace Sys2Proof.Machine

/-- The quotient of `num` by a positive `den`, rounded once to the nearest integer, halves away from zero (R131). -/
def divRound (num : Int) (den : Nat) : Int :=
  let q : Int := ((2 * num.natAbs + den) / (2 * den) : Nat)
  if num < 0 then -q else q

/-! ## Range and gain tables (R110, R111) -/

/-- The current of a range code in nA: 1 µA to 100 mA for codes 0..5 (R110). -/
def rangeCurrent (range : Nat) : Nat := 1000 * 10 ^ range

/-- The compliance of a range code in µV: 40 V on codes 0 and 1, 10 V on codes 2..5 (R110). -/
def compliance (range : Nat) : Nat := if range ≤ 1 then 40000000 else 10000000

/-- The input-referred size of one code at a gain code, in fV (R111). -/
def gainLsb : Nat → Nat
  | 0 => 2000000000000
  | 1 => 62500000000
  | 2 => 15625000000
  | 3 => 3906250000
  | _ => 976562500

/-- The span of a gain code in µV (R111, R135). -/
def gainSpan : Nat → Nat
  | 0 => 65536000
  | 1 => 2048000
  | 2 => 512000
  | 3 => 128000
  | _ => 32000

/-! ## Sums and clipping (R9, R129, R130) -/

/-- The counted samples n of a step's conversion (R9). -/
def StepCopy.counted (c : StepCopy) : Nat := c.window * (c.extension + 1) - c.skip

/-- The first n counted samples; a sample the command does not list counts as code 0 without compliance (AL 3). -/
def takeSamples (n : Nat) (samples : List Sample) : List Sample :=
  (samples ++ List.replicate (n - samples.length) (⟨0, false⟩ : Sample)).take n

/-- The first n codes; a code the command does not list counts as 0 (AL 3). -/
def takeCodes (n : Nat) (codes : List Code) : List Code :=
  (codes ++ List.replicate (n - codes.length) 0).take n

/-- The sum A of the corrected codes c − Z (R129). -/
def correctedSum (z : Int) : List Code → Int
  | [] => 0
  | c :: rest => (c.toInt - z) + correctedSum z rest

/-- A raw code at an end of the converter's range (R130). -/
def endCode (c : Code) : Bool := c == BitVec.ofInt 16 (-32768) || c == BitVec.ofInt 16 32767

/-- Clipped: an end code, or the compliance level, at any counted sample (R130). -/
def clippedSamples (samples : List Sample) : Bool := samples.any fun q => endCode q.code || q.compliance

/-- The kinds whose value is a voltage (R132). -/
def Kind.isVoltage : Kind → Bool
  | .volt | .diode => true
  | .res2 | .cont | .res4 | .iso | .cap => false

/-- The kinds whose probes' lead resistance is subtracted (R133). -/
def Kind.subtractsLeads : Kind → Bool
  | .res2 | .cont => true
  | .res4 | .iso | .cap | .diode | .volt => false

/-- The clip end of a clipped conversion with sum A (R130). -/
def clipEndOf (k : Kind) (a : Int) : ClipEnd :=
  if k.isVoltage && decide (a < 0) then .negative else .positive

/-! ## Values and clip values (R132 to R135) -/

/-- A voltage in µV from a sum of n corrected codes at a gain (R132). -/
def voltageValue (a : Int) (n gain : Nat) : Int := divRound (a * gainLsb gain) (n * 1000000000)

/-- The resistance R in µΩ before leads and limit: 0 for a negative sum (R133). -/
def resistanceRaw (a : Int) (n range gain : Nat) : Int :=
  if a < 0 then 0 else divRound (a * gainLsb gain) (n * rangeCurrent range)

/-- The clip value of a resistance kind in µΩ (R135). -/
def resistanceClip (range gain : Nat) : Int :=
  divRound ((min (gainSpan gain) (compliance range) * 1000000000 : Nat)) (rangeCurrent range)

/-- A resistance in µΩ: the leads subtracted and kept at or above 0, then limited to the clip value (R133). -/
def resistanceValue (a : Int) (n range gain leads : Nat) : Int :=
  min (max 0 (resistanceRaw a n range gain - leads)) (resistanceClip range gain)

/-- The capacitance C in fF before stray (R134). -/
def capacitanceRaw (ticks range threshold : Nat) : Int :=
  divRound ((5 * rangeCurrent range * ticks : Nat)) threshold

/-- A capacitance in fF: the strays subtracted, kept at or above 0 (R134). -/
def capacitanceValue (ticks range threshold strays : Nat) : Int :=
  max 0 (capacitanceRaw ticks range threshold - strays)

/-- The clip value of a CAP conversion in fF (R135). -/
def capacitanceClip (range threshold : Nat) : Int := capacitanceRaw Config.timerLimit range threshold

/-- The clip value of a kind, range and gain at a clip end (R135). -/
def clipValue (k : Kind) (range gain threshold : Nat) (e : ClipEnd) : Int :=
  match k with
  | .res2 | .cont | .res4 | .iso => resistanceClip range gain
  | .volt | .diode =>
    match e with
    | .positive => gainSpan gain
    | .negative => -(gainSpan gain : Int)
  | .cap => capacitanceClip range threshold

/-- The value of an unclipped conversion of a kind other than CAP (R132, R133). -/
def sampledValue (k : Kind) (a : Int) (n range gain leads : Nat) : Int :=
  if k.isVoltage then voltageValue a n gain
  else resistanceValue a n range gain (if k.subtractsLeads then leads else 0)

/-! ## Auto-range (R136, R137) -/

/-- The gain a REPEAT asks for, if one is given: down from a clipped conversion, up from one whose mean is below a
sixteenth of full scale (R136). -/
def nextGain (clipped : Bool) (a : Int) (n gain gainMin gainMax : Nat) (clippedGains : List Nat) : Option Nat :=
  if clipped then
    if gainMin < gain ∧ ¬ clippedGains.contains (gain - 1) then some (gain - 1) else none
  else if a.natAbs * 16 < n * 32768 ∧ gain < gainMax ∧ ¬ clippedGains.contains (gain + 1) then some (gain + 1)
  else none

/-- Stop kinds of a CAP charge (R114). -/
inductive StopKind where
  | threshold
  | timerLimit
  | compliance
deriving DecidableEq, Repr

/-- The range a CAP REPEAT asks for, if one is given (R137). -/
def nextRange (stop : StopKind) (ticks range : Nat) (clippedRanges : List Nat) : Option Nat :=
  match stop with
  | .timerLimit => if range < 3 ∧ ¬ clippedRanges.contains (range + 1) then some (range + 1) else none
  | .threshold =>
    if ticks < 1024 ∧ 0 < range ∧ ¬ clippedRanges.contains (range - 1) then some (range - 1) else none
  | .compliance => none

/-! ## Verdicts (R139, R140) -/

/-- The verdict of an attempt from its standing conversion's value and clip end (R139, R140). For a clipped conversion
the value is the clip value. -/
def verdictOf (loPresent hiPresent : Bool) (lo hi : Int) (clip : Option ClipEnd) (v : Int) : Verdict :=
  match clip with
  | none => if loPresent ∧ v < lo then .low else if hiPresent ∧ hi < v then .high else .pass
  | some .positive => if hiPresent then .high else if loPresent ∧ v < lo then .unresolved else .pass
  | some .negative => if loPresent then .low else if hiPresent ∧ hi < v then .unresolved else .pass

end Sys2Proof.Machine
end

