-- ==== Sys2Proof/Machine/Lanes.lean ====
section
/-! DEFINITION. Lanes, spans and sweeps, field tests, and the cells of the Lane Claim Table
(02_probing_field_lanes_and_claims.md). -/

namespace Sys2Proof.Machine

/-! ## Intervals of lanes -/

/-- Two intervals have a lane in common. -/
def Interval.meets (a b : Interval) : Bool := a.lo ≤ b.hi && b.lo ≤ a.hi

/-- The interval holds a lane and lies wholly within another. -/
def Interval.within (a b : Interval) : Bool := a.lo ≤ a.hi && b.lo ≤ a.lo && a.hi ≤ b.hi

/-- The smallest interval that contains both (R25). -/
def Interval.hull (a b : Interval) : Interval := ⟨min a.lo b.lo, max a.hi b.hi⟩

/-- The interval lies wholly below another. -/
def Interval.below (a b : Interval) : Bool := a.hi < b.lo

/-- The last lane of a side. -/
def lastLane : Nat := Config.lanes - 1

/-- The span at a lane for a guard, cut to 0..127 (R23). -/
def spanAt (guard lane : Nat) : Interval := ⟨lane - guard, min lastLane (lane + guard)⟩

/-- The sweep of a move between two lanes for a guard, cut to 0..127 (R23). -/
def sweepAt (guard lane0 lane1 : Nat) : Interval :=
  ⟨min lane0 lane1 - guard, min lastLane (max lane0 lane1 + guard)⟩

/-! ## Lanes of the setup in force (R19, R20, R22) -/

/-- The lane width w in µm (R20). -/
def Setup.laneWidth (t : Setup) : Nat := 250 * t.laneFactor

/-- The number L of field lanes of a side, rounded up (R20). -/
def Setup.fieldLanes (t : Setup) (d : Side) : Nat :=
  let f := t.fields.get d
  (f.stop - f.start + t.laneWidth - 1) / t.laneWidth

/-- The lane of a gantry position; a position off the field is taken at the edge lane (R22). -/
def Setup.laneOf (t : Setup) (d : Side) (x : Int) : Nat :=
  let f := t.fields.get d
  if x < f.start then 0
  else if (f.stop : Int) ≤ x then t.fieldLanes d - 1
  else (x.toNat - f.start) / t.laneWidth

/-- The lane position of a lane: the middle of its width inside the field (R22). -/
def Setup.lanePos (t : Setup) (d : Side) (lane : Nat) : Int :=
  let f := t.fields.get d
  let low := f.start + lane * t.laneWidth
  let m := min t.laneWidth (f.stop - low)
  low + m / 2

/-- The gantry target that puts a carriage's tip on a machine point (R19). -/
def Setup.target (t : Setup) (c : Carriage) (p : Pos) : Pos := ⟨p.x - (t.carriages.get c).tipOffset, p.y⟩

/-- A gantry or tip x lies in a side's field (R20). -/
def Setup.xInField (t : Setup) (d : Side) (x : Int) : Bool :=
  (t.fields.get d).start ≤ x && x < (t.fields.get d).stop

/-- A machine point is in field for a carriage: tip x, gantry x and y (R15, R19). -/
def Setup.inField (t : Setup) (c : Carriage) (p : Pos) : Bool :=
  t.xInField (sideOf c) p.x && t.xInField (sideOf c) (t.target c p).x && 0 ≤ p.y && p.y ≤ Config.maxY

/-- The lane of a gantry x for a carriage. -/
def Setup.laneFor (t : Setup) (c : Carriage) (x : Int) : Nat := t.laneOf (sideOf c) x

/-- The span of a carriage at a lane (R23). -/
def Setup.span (t : Setup) (c : Carriage) (lane : Nat) : Interval := spanAt (t.carriages.get c).guard lane

/-- The sweep of a move of a carriage between two lanes (R23). -/
def Setup.sweep (t : Setup) (c : Carriage) (lane0 lane1 : Nat) : Interval :=
  sweepAt (t.carriages.get c).guard lane0 lane1

/-- The last reported position of a carriage; an absent one reads as the origin, which no rule asks for. -/
def CarriageRec.pos (r : CarriageRec) : Pos := r.position.getD ⟨0, 0⟩

/-- The lane a carriage stands in: that of its last reported position. -/
def State.laneNow (s : State) (c : Carriage) : Nat := s.setup.laneFor c (s.carr c).pos.x

/-- The span of a carriage where it stands. -/
def State.spanNow (s : State) (c : Carriage) : Interval := s.setup.span c (s.laneNow c)

/-! ## Cells (R24) -/

/-- Give the lanes of an interval to an owner, or free them; `k` is the lane of the list's head. -/
def paintFrom (i : Interval) (v : Option Carriage) : Nat → List (Option Carriage) → List (Option Carriage)
  | _, [] => []
  | k, x :: rest => (if i.lo ≤ k ∧ k ≤ i.hi then v else x) :: paintFrom i v (k + 1) rest

/-- Set the cells of an interval (R28). -/
def paint (i : Interval) (v : Option Carriage) (cells : List (Option Carriage)) : List (Option Carriage) :=
  paintFrom i v 0 cells

/-- Free every cell of a carriage. -/
def freeCells (c : Carriage) (cells : List (Option Carriage)) : List (Option Carriage) :=
  cells.map fun o => if o = some c then none else o

/-- The claim of a carriage, as the interval from its first to its last cell; `k` is the lane of the list's head. -/
def claimFrom (c : Carriage) : Nat → List (Option Carriage) → Option Interval
  | _, [] => none
  | k, x :: rest =>
    match claimFrom c (k + 1) rest with
    | none => if x = some c then some ⟨k, k⟩ else none
    | some i => if x = some c then some ⟨k, i.hi⟩ else some i

/-- The claim of a carriage on its side, if it owns a lane (R24). -/
def State.claimOf (s : State) (c : Carriage) : Option Interval := claimFrom c 0 (s.table (sideOf c)).cells

/-- The cells of an interval. -/
def cellsIn (i : Interval) (cells : List (Option Carriage)) : List (Option Carriage) :=
  (cells.drop i.lo).take (i.hi + 1 - i.lo)

/-- Every lane of an interval is FREE or owned by the carriage (R27). -/
def lanesFreeFor (c : Carriage) (i : Interval) (cells : List (Option Carriage)) : Bool :=
  (cellsIn i cells).all fun o => o == none || o == some c

/-- Some lane of an interval is owned by a carriage in FAULT (R27). -/
def State.meetsFault (s : State) (d : Side) (i : Interval) : Bool :=
  (cellsIn i (s.table d).cells).any fun o =>
    match o with
    | none => false
    | some c => (s.carr c).state == .fault

/-- The pending entry of a carriage, if any (R25). -/
def State.pendingOf (s : State) (c : Carriage) : Option ClaimEntry :=
  (s.table (sideOf c)).pend.find? fun e => e.carriage == c

/-- The interval meets the pending interval of no entry of a list. -/
def clearOf (i : Interval) (pend : List ClaimEntry) : Bool := pend.all fun e => !e.span.meets i

/-- The committed interval of a carriage: its pending interval while an entry waits, else its claim (R89). -/
def State.committed (s : State) (c : Carriage) : Option Interval :=
  match s.pendingOf c with
  | some e => some e.span
  | none => s.claimOf c

/-- Set the cells of an interval to a carriage: the claim becomes that interval (R28). -/
def State.takeLanes (c : Carriage) (i : Interval) (s : State) : State :=
  s.modTable (sideOf c) fun t => { t with cells := paint i (some c) t.cells }

/-- Shrink a carriage's claim to an interval: every other cell of the old claim becomes FREE (R32). -/
def State.shrinkLanes (c : Carriage) (i : Interval) (s : State) : State :=
  s.modTable (sideOf c) fun t => { t with cells := paint i (some c) (freeCells c t.cells) }

end Sys2Proof.Machine
end

