-- ==== Sys2Proof/Machine/Admission.lean ====
section
/-! DEFINITION. Admission: checks 1 to 10, the clamps, placement and the admitted copy (R3 to R10, R12, R14 to R17), and
check 11, the reachability test (R81). -/

namespace Sys2Proof.Machine

/-! ## The measurement kinds table (R3, R4, R7) -/

/-- The role set of a kind (R4). -/
def Kind.roles : Kind → List Role
  | .res4 => [.forceHi, .forceLo, .senseHi, .senseLo]
  | .res2 | .cont | .iso | .cap | .diode | .volt => [.hi, .lo]

/-- The lowest and highest current range code of a kind; VOLT's field is not examined (R7). -/
def Kind.ranges : Kind → Option (Nat × Nat)
  | .res2 | .cont => some (2, 5)
  | .res4 => some (3, 5)
  | .iso => some (0, 1)
  | .cap => some (0, 3)
  | .diode => some (2, 4)
  | .volt => none

/-- The current range code is allowed for the kind (R7, check 4). -/
def Kind.allowsRange (k : Kind) (r : Nat) : Bool :=
  match k.ranges with
  | some (lo, hi) => lo ≤ r && r ≤ hi
  | none => true

/-! ## Checks 1 to 9 (R12) -/

/-- Flag bits of a step record (R1). -/
def RawStep.flag (r : RawStep) (i : Nat) : Bool := Nat.testBit r.flags i

/-- The slots a step uses. -/
def RawStep.used (r : RawStep) : List RawPoint := r.points.take r.probes

/-- The first slot of a list of points, numbered from `i`, that a test refuses. -/
def firstBad {α : Type} (bad : α → Bool) : Nat → List α → Option Nat
  | _, [] => none
  | i, p :: rest => if bad p then some i else firstBad bad (i + 1) rest

/-- Check 3: the first slot whose side or role is unlisted, whose role is not in the kind's set, or whose role a lower
slot holds (R4, R5, AL 42). `seen` are the roles of the lower slots. -/
def badRole (k : Kind) : Nat → List Role → List RawPoint → Option Nat
  | _, _, [] => none
  | i, seen, p :: rest =>
    match sideCode p.side, roleOf p.role with
    | some _, some r => if k.roles.contains r ∧ ¬ seen.contains r then badRole k (i + 1) (r :: seen) rest else some i
    | _, _ => some i

/-- The first of checks 1 to 9 that fails, with the failing slot or 0 (R12, R17). -/
def RawStep.failing (r : RawStep) (netCount : Nat) : Option (Nat × Nat) :=
  match kindOf r.kind.toNat with
  | none => some (1, 0)
  | some k =>
    if r.probes ≠ k.roles.length then some (2, 0)
    else
      match badRole k 0 [] r.used with
      | some i => some (3, i)
      | none =>
        if ¬ k.allowsRange r.range then some (4, 0)
        else if k ≠ .cap ∧ (4 < r.gainMin ∨ 4 < r.gainMax ∨ r.gainMax < r.gainMin) then some (5, 0)
        else if r.window = 0 ∨ 4096 < r.window ∨ 3 < r.retest then some (6, 0)
        else if r.flag 3 ∧ r.flag 4 ∧ r.hi < r.lo then some (7, 0)
        else
          match firstBad (fun p => decide (netCount ≤ p.net)) 0 r.used with
          | some i => some (8, i)
          | none =>
            if k = .cap ∧ (5000 < r.threshold ∨ compliance r.range ≤ 1000 * r.threshold) then some (9, 0) else none

/-! ## Placement and clamps (R14, R16) -/

/-- The machine points of the used slots, if every side and role is listed (R14). -/
def placePoints (offsets : Sides Pos) : List RawPoint → Option (List Point)
  | [] => some []
  | p :: rest =>
    match sideCode p.side, roleOf p.role, placePoints offsets rest with
    | some d, some r, some l => some (⟨d, r, p.net, ⟨p.x + (offsets.get d).x, p.y + (offsets.get d).y⟩⟩ :: l)
    | _, _, _ => none

/-- The copy of a record as read, with the frame's offsets and net count (R12). `clamps` says whether checks 1 to 9
passed, so that the clamps of R16 act. -/
def RawStep.copy (r : RawStep) (clamps : Bool) (seq : Word32) (offsets : Sides Pos) (netCount : Nat) : StepCopy :=
  let k := (kindOf r.kind.toNat).getD .res2
  let cap := k = .cap
  let skip := if clamps ∧ ¬ cap ∧ r.window ≤ r.skip then r.window - 1 else r.skip
  let gain := if clamps ∧ ¬ cap then clampNat r.gainMin r.gainMax r.gainInit else r.gainInit
  let settle := if clamps ∧ ¬ cap then min 1023 r.settle else r.settle
  let threshold := if clamps ∧ cap then max 100 r.threshold else r.threshold
  { tag := r.tag
    kindCode := r.kind
    kind := k
    autorange := r.flag 0
    barrier := r.flag 1
    skipIfNetFailed := r.flag 2
    loPresent := r.flag 3
    hiPresent := r.flag 4
    retest := r.retest
    range := r.range
    gainRead := r.gainInit
    gainInit := gain
    gainMin := r.gainMin
    gainMax := r.gainMax
    window := r.window
    extension := r.extension
    skip := skip
    settle := settle
    threshold := threshold
    lo := r.lo
    hi := r.hi
    points := (placePoints offsets r.used).getD []
    seq := seq
    offsets := offsets
    netCount := netCount
    clamped := skip != r.skip || gain != r.gainInit || settle != r.settle || threshold != r.threshold }

/-- Check 10 refuses a point that is in field for no carriage of its side, enabled or not (R15). -/
def Setup.outOfField (t : Setup) (p : Point) : Bool := (carriagesOf p.side).all fun c => !t.inField c p.at_

/-! ## Reachability (R81) -/

/-- The carriages of a side in service (R81). -/
def State.inService (s : State) (d : Side) : List Carriage :=
  (carriagesOf d).filter fun c => (s.carr c).inService

/-- The points of a step on a side, in slot order. -/
def StepCopy.pointsOn (c : StepCopy) (d : Side) : List Point := c.points.filter fun p => p.side == d

/-- Every injective assignment of points to carriages, as lists of carriages in point order, in lexicographic order of
their indices (R88, R91). -/
def injections : List Point → List Carriage → List (List Carriage)
  | [], _ => [[]]
  | _ :: rest, l => l.flatMap fun c => (injections rest (l.filter fun d => d != c)).map fun r => c :: r

/-- The target lanes of an assignment, or none when a target is out of field (R81, R88). -/
def Setup.targetLanes (t : Setup) : List Point → List Carriage → Option (List (Carriage × Nat))
  | [], _ => some []
  | _ :: _, [] => none
  | p :: ps, c :: cs =>
    if t.inField c p.at_ then
      (t.targetLanes ps cs).map fun l => (c, t.laneFor c (t.target c p.at_).x) :: l
    else none

/-- The lane an assignment gives a carriage. -/
def laneIn (l : List (Carriage × Nat)) (c : Carriage) : Option Nat := (l.find? fun q => q.1 == c).map (·.2)

/-- The lowest lane of a carriage of guard `g` whose span lies at or above lane `b` (R23). -/
def lowestLane (g b : Nat) : Nat := if b = 0 then 0 else b + g

/-- Whether lanes for the carriages of a list, in index order, meet the conditions of R81: each unassigned carriage
takes the lowest lane its lower neighbours leave. `placed` is one above the highest lane of the spans so far, and `low`
one above the highest frozen claim passed. -/
def State.packs (s : State) (d : Side) (l : List (Carriage × Nat)) : List Carriage → Nat → Nat → Bool
  | [], _, _ => true
  | c :: rest, placed, low =>
    let next (i : Interval) : Bool := max placed low ≤ i.lo && s.packs d l rest (i.hi + 1) low
    match (s.carr c).state with
    | .off => s.packs d l rest placed low
    | .fault =>
      match s.claimOf c with
      | none => s.packs d l rest placed low
      | some k => placed ≤ k.lo && s.packs d l rest placed (max low (k.hi + 1))
    | .homing | .idle | .travel | .descend | .check | .ready | .engaged | .lift =>
      match laneIn l c with
      | some lane => next (s.setup.span c lane)
      | none =>
        let lane := lowestLane (s.cset c).guard (max placed low)
        lane < s.setup.fieldLanes d && next (s.setup.span c lane)

/-- A side serves a list of points: some injective assignment to carriages in service has targets in field and lanes
for every carriage (R81). -/
def State.sideReaches (s : State) (d : Side) (points : List Point) : Bool :=
  points.isEmpty || (injections points (s.inService d)).any fun a =>
    match s.setup.targetLanes points a with
    | some l => s.packs d l (carriagesOf d) 0 0
    | none => false

/-- A side has fewer carriages in service than points (R81). -/
def State.sideShort (s : State) (d : Side) (c : StepCopy) : Bool :=
  (s.inService d).length < (c.pointsOn d).length

/-- The reachability test: none when the step passes, else its cause (R81). -/
def State.unreachable (s : State) (c : StepCopy) : Option Cause :=
  if s.sideShort .top c || s.sideShort .bottom c then some .noCarriages
  else if s.sideReaches .top (c.pointsOn .top) && s.sideReaches .bottom (c.pointsOn .bottom) then none
  else some .unreachable

/-! ## The eleven checks (R12, R17) -/

/-- How admission judges a record: the admitted copy, and for a failed check its cause and value field (R12, R17). -/
def State.judge (s : State) (r : RawStep) (seq : Word32) : StepCopy × Option (Cause × Int) :=
  match r.failing s.frame.netCount with
  | some (n, i) => (r.copy false seq s.frame.offsets s.frame.netCount, some (.badStep, (256 * n + i : Nat)))
  | none =>
    let c := r.copy true seq s.frame.offsets s.frame.netCount
    match firstBad s.setup.outOfField 0 c.points with
    | some i => (c, some (.outOfField, (256 * 10 + i : Nat)))
    | none =>
      match s.unreachable c with
      | some k => (c, some (k, (256 * 11 : Nat)))
      | none => (c, none)

end Sys2Proof.Machine
end

