-- ==== Sys2Proof/Machine/Assign.lean ====
section
/-! DEFINITION. The choice of carriages for a step: corridors, feasibility, packing of idle carriages, and the least
travel (R88 to R91). -/

namespace Sys2Proof.Machine

/-- Busy: in service and not IDLE, or in FAULT (R89). -/
def CarriageRec.busy (r : CarriageRec) : Bool := r.state != .off && r.state != .idle

/-- The carriages of a side with lower index, from the nearest down. -/
def lowerThan (c : Carriage) : List Carriage :=
  ((carriagesOf (sideOf c)).filter fun d => driveNumber d < driveNumber c).reverse

/-- The carriages of a side with higher index, from the nearest up. -/
def higherThan (c : Carriage) : List Carriage :=
  (carriagesOf (sideOf c)).filter fun d => driveNumber c < driveNumber d

/-- The committed interval of the first busy carriage of a list (R89). -/
def State.firstCommitted (s : State) (l : List Carriage) : Option Interval :=
  (l.find? fun c => (s.carr c).busy).bind s.committed

/-- The interval lies inside the carriage's corridor (R89). -/
def State.inCorridor (s : State) (c : Carriage) (i : Interval) : Bool :=
  (match s.firstCommitted (lowerThan c) with
    | some k => k.hi < i.lo
    | none => true) &&
  (match s.firstCommitted (higherThan c) with
    | some k => i.hi < k.lo
    | none => i.hi ≤ lastLane)

/-- Spans of a list in index order are disjoint and increase (R89). -/
def spansRise : List Interval → Bool
  | [] => true
  | [_] => true
  | a :: b :: rest => a.below b && spansRise (b :: rest)

/-- A yield chosen by the packing: the carriage and its yield lane. -/
abbrev YieldPlan := List (Carriage × Nat)

/-- The lower walk of the packing, from the nearest carriage down; `b` is the lowest lane of U and of the yield sweeps
formed so far (R90). -/
def State.packLower (s : State) : List Carriage → Nat → Option YieldPlan
  | [], _ => some []
  | c :: rest, b =>
    match (s.carr c).state with
    | .off => s.packLower rest b
    | .idle =>
      let g := (s.cset c).guard
      if (s.spanNow c).hi < b then some []
      else if b < g + 1 then none
      else
        let lane := b - 1 - g
        if s.inCorridor c (s.setup.span c lane) then
          (s.packLower rest (min b (s.setup.sweep c (s.laneNow c) lane).lo)).map fun l => (c, lane) :: l
        else none
    | .homing | .travel | .descend | .check | .ready | .engaged | .lift | .fault => some []

/-- The upper walk of the packing, from the nearest carriage up; `t` is the highest lane of U and of the yield sweeps
formed so far (R90). -/
def State.packUpper (s : State) (d : Side) : List Carriage → Nat → Option YieldPlan
  | [], _ => some []
  | c :: rest, t =>
    match (s.carr c).state with
    | .off => s.packUpper d rest t
    | .idle =>
      let lane := t + 1 + (s.cset c).guard
      if t < (s.spanNow c).lo then some []
      else if s.setup.fieldLanes d ≤ lane then none
      else if s.inCorridor c (s.setup.span c lane) then
        (s.packUpper d rest (max t (s.setup.sweep c (s.laneNow c) lane).hi)).map fun l => (c, lane) :: l
      else none
    | .homing | .travel | .descend | .check | .ready | .engaged | .lift | .fault => some []

/-- The distance in lanes of a carriage from its present lane. -/
def State.travel (s : State) (q : Carriage × Nat) : Nat := (s.laneNow q.1 - q.2) + (q.2 - s.laneNow q.1)

/-- The highest lane of a list of intervals. -/
def highest (l : List Interval) : Nat := l.foldl (fun m i => max m i.hi) 0

/-- The lowest lane of a list of intervals. -/
def lowest (l : List Interval) : Nat := l.foldl (fun m i => min m i.lo) lastLane

/-- The conditions on an IDLE unassigned carriage between assigned ones: its span meets no sweep and lies between the
target spans of its neighbours (R89). `l` are the assigned carriages and target lanes in index order. -/
def State.betweenFits (s : State) (l : List (Carriage × Nat)) (c : Carriage) : Bool :=
  let i := s.spanNow c
  let lower := (l.filter fun q => driveNumber q.1 < driveNumber c).getLast?
  let upper := (l.filter fun q => driveNumber c < driveNumber q.1).head?
  (l.all fun q => !(s.setup.sweep q.1 (s.laneNow q.1) q.2).meets i) &&
  (match lower with
    | some q => (s.setup.span q.1 q.2).below i
    | none => true) &&
  (match upper with
    | some q => i.below (s.setup.span q.1 q.2)
    | none => true)

/-- A feasible assignment of a side with its yields and total travel, or none (R89, R90, R91). `l` are the assigned
carriages with their target lanes, in point order. -/
def State.feasible (s : State) (d : Side) (l : List (Carriage × Nat)) : Option (YieldPlan × Nat) :=
  let o := (carriagesOf d).filterMap fun c => (laneIn l c).map fun k => (c, k)
  match o.head?, o.getLast? with
  | some first, some last =>
    let spans := o.map fun q => s.setup.span q.1 q.2
    let sweeps := o.map fun q => s.setup.sweep q.1 (s.laneNow q.1) q.2
    let between := (carriagesOf d).filter fun c =>
      driveNumber first.1 < driveNumber c && driveNumber c < driveNumber last.1 && (laneIn l c).isNone &&
        (s.carr c).state == .idle
    if (o.all fun q => (s.carr q.1).state == .idle && s.inCorridor q.1 (s.setup.span q.1 q.2) &&
          s.inCorridor q.1 (s.setup.sweep q.1 (s.laneNow q.1) q.2)) &&
        spansRise spans && between.all (s.betweenFits o) then
      match s.packLower (lowerThan first.1) (lowest sweeps), s.packUpper d (higherThan last.1) (highest sweeps) with
      | some a, some b => some (a ++ b, ((o ++ a ++ b).map s.travel).sum)
      | _, _ => none
    else none
  | _, _ => some ([], 0)

/-- A side's choice: the assigned carriages in point order with their target lanes, the yields, and the cost. -/
structure Choice where
  lanes : List (Carriage × Nat)
  yields : YieldPlan
  cost : Nat
deriving DecidableEq, Repr

/-- The better of two choices: the least total travel, the earlier one at a tie (R91). -/
def betterOf : Option Choice → Option Choice → Option Choice
  | none, b => b
  | some a, none => some a
  | some a, some b => if b.cost < a.cost then some b else some a

/-- The choice an injective assignment gives, if it is feasible. -/
def State.choiceOf (s : State) (d : Side) (points : List Point) (a : List Carriage) : Option Choice :=
  (s.setup.targetLanes points a).bind fun l => (s.feasible d l).map fun y => ⟨l, y.1, y.2⟩

/-- The winning assignment of a side: the feasible one of least travel, the first in lexicographic order of indices at
a tie (R91). -/
def State.choose (s : State) (d : Side) (points : List Point) : Option Choice :=
  (injections points (s.inService d)).foldl (fun b a => betterOf b (s.choiceOf d points a)) none

/-- The carriages of the points of both sides, in slot order. -/
def mergeSides : List Point → List Carriage → List Carriage → List (Option Carriage)
  | [], _, _ => []
  | p :: rest, a, b =>
    match p.side, a, b with
    | .top, c :: cs, b => some c :: mergeSides rest cs b
    | .bottom, a, c :: cs => some c :: mergeSides rest a cs
    | _, a, b => none :: mergeSides rest a b

end Sys2Proof.Machine
end

