-- ==== Sys2Proof/Machine/Travel.lean ====
section
/-! DEFINITION. The Carriage Controllers' shared operations: tips, requests, entering a state, travel, and the claim
requests, reviews, releases and cancels that carry it (R27 to R34, R41, R42, R46, R49 to R56). -/

namespace Sys2Proof.Machine

/-! ## Tips and states (R41, R42) -/

/-- The tip connection the table of R41 gives for a state; ENGAGED begins on the matrix (R115). -/
def tipFor : CarriageState → Tip
  | .homing | .idle | .travel | .descend => .bleed
  | .engaged => .matrix
  | .off | .check | .ready | .lift | .fault => .isolated

/-- Set a carriage's tip; in HALTED it is ISOLATED whatever is asked (R42). -/
def State.setTip (c : Carriage) (t : Tip) (s : State) : State :=
  s.modCarr c fun r => { r with tip := if s.run.state = .halted then .isolated else t }

/-- Change a carriage's state; its tip takes the connection of the new state (R42). -/
def State.setCarr (c : Carriage) (q : CarriageState) (s : State) : State :=
  (s.modCarr c fun r => { r with state := q }).setTip c (tipFor q)

/-- Give every tip the connection of its carriage's state, as on the controller's entry into HALTED and its leaving
(R42). -/
def State.retip (s : State) : State :=
  allCarriages.foldl (fun s c => s.setTip c (tipFor (s.carr c).state)) s

/-! ## Requests (R43, R46) -/

/-- The kind of a request. -/
def AxisRequest.kind : AxisRequest → RequestKind
  | .move _ => .move
  | .descend _ => .descend
  | .lift => .lift
  | .halt => .halt
  | .query => .query

/-- The timeout of a request, in ms, from the setup in force (R46). -/
def Setup.timeout (t : Setup) : RequestKind → Nat
  | .move | .halt => t.moveMs
  | .descend => t.descendMs
  | .lift | .query => t.liftMs

/-- The request timer stops. One that ran leaves the time as its cut mark, by which its expiry, taken together with what
stopped it and after it, is known to be stale though a fresh timer runs (R46, AL 58). -/
def CarriageRec.stopTimer (clock : Nat) (r : CarriageRec) : CarriageRec :=
  { r with timer := none, timerCut := if r.timer.isSome then some clock else r.timerCut }

/-- Send a request: it is outstanding and its timer starts (R43, R46). -/
def State.send (c : Carriage) (q : AxisRequest) (s : State) : State :=
  (s.updLinkOut (· ++ [(c, q)])).modCarr c fun r =>
    { r.stopTimer s.clock with request := some ⟨q.kind, false⟩, timer := some (s.setup.timeout q.kind) }

/-- Send HALT over the outstanding MOVE (R44). -/
def State.sendHalt (c : Carriage) (s : State) : State :=
  (s.send c .halt).modCarr c fun r => { r with request := some ⟨.halt, true⟩, phase := some .halting }

/-- The matching response stops the timer and settles the request (R46). -/
def State.settle (c : Carriage) (s : State) : State :=
  s.modCarr c fun r => { r.stopTimer s.clock with request := none }

/-- A carriage awaits the answer of a kind of request (R43). -/
def CarriageRec.awaits (r : CarriageRec) (k : RequestKind) : Bool :=
  match r.request with
  | some q => q.kind == k
  | none => false

/-! ## IDLE, DESCEND and LIFT -/

/-- Take a carriage's place out of every assignment (R96). -/
def State.leaveAssignments (c : Carriage) (s : State) : State :=
  s.updDisp fun d => { d with window := d.window.map fun e =>
    { e with assignment := e.assignment.map fun a => if a = some c then none else a } }

/-- A carriage becomes IDLE where it stands: the service is cleared and the Dispatcher is told, so a scan is owed
(R51, R55, R84, R96). -/
def State.toIdle (c : Carriage) (s : State) : State :=
  let s := s.setCarr c .idle
  let s := s.modCarr c fun r =>
    { r with phase := none, purpose := none, service := none, ended := false, target := none, followOn := none }
  (s.leaveAssignments c).markScan

/-- Put a mark at an index. -/
def markAt (i : Nat) (l : List Bool) : List Bool := l.set i true

/-- The point a carriage serves in a MOVING step is marked arrived; with every point arrived the step enters LANDING
and its yield list is cleared (R93). -/
def State.markArrived (c : Carriage) (s : State) : State :=
  match s.servedBy c with
  | none => s
  | some e =>
    match e.pointOf c with
    | none => s
    | some i =>
      if e.state = .moving then
        let a := markAt i e.arrived
        if a.all id then s.modEntry e.slot fun e => { e with arrived := a, state := .landing, yields := [] }
        else s.modEntry e.slot fun e => { e with arrived := a }
      else s

/-- Enter DESCEND: the request goes with the z limit in force (R51). -/
def State.enterDescend (c : Carriage) (s : State) : State :=
  let s := s.setCarr c .descend
  let s := s.modCarr c fun r => { r with phase := none, purpose := none }
  (s.send c (.descend s.setup.zLimit)).markArrived c

/-- Enter LIFT with a follow-on (R53, R54). -/
def State.enterLift (c : Carriage) (f : FollowOn) (s : State) : State :=
  let s := s.setCarr c .lift
  let s := s.modCarr c fun r => { r with phase := none, purpose := none, followOn := some f, probeUp := false }
  s.send c .lift

/-! ## Withdrawals owed (R93, R98) -/

/-- A reason to withdraw the step a carriage serves reaches the Dispatcher (R98). -/
def State.withdrawServed (c : Carriage) (s : State) : State :=
  match s.servedBy c with
  | some e => if e.outcome.isNone then s.markWithdraw e.slot else s
  | none => s

/-- Yields have failed: each step that still moves and waits for one of them is withdrawn; a step that has left MOVING is
not (R93). -/
def State.yieldsFailed (bad : Yield → Bool) (s : State) : State :=
  s.disp.window.foldl (fun s e =>
    if e.state = .moving ∧ e.outcome.isNone ∧ e.yields.any bad then s.markWithdraw e.slot else s) s

/-- A yield of a carriage has failed (R93). -/
def State.yieldFailed (c : Carriage) (s : State) : State := s.yieldsFailed fun y => y.carriage == c && !y.done

/-- A yield of a carriage has arrived in its yield lane; one that asked for another lane has failed (R93). -/
def State.yieldArrived (c : Carriage) (lane : Nat) (s : State) : State :=
  let good (y : Yield) : Bool := y.carriage == c && !y.done && y.lane == lane
  let s := s.yieldsFailed fun y => y.carriage == c && !y.done && y.lane != lane
  s.updDisp fun d => { d with window := d.window.map fun e =>
    { e with yields := e.yields.map fun y => if good y then { y with done := true } else y } }

/-- A claim answered BLOCKED or DENIED: the carriage becomes IDLE where it stands and the issuer is told (R50). -/
def State.blocked (c : Carriage) (s : State) : State :=
  let s := match (s.carr c).purpose with
    | some .step | some .scrub => s.withdrawServed c
    | some .yield => s.yieldFailed c
    | some .home | some .park | none => s
  s.toIdle c

/-! ## Claims (R27 to R34) -/

/-- A granted carriage starts its travel: phase MOVING, MOVE sent (R28, R50). -/
def State.deliverGrant (c : Carriage) (s : State) : State :=
  match (s.carr c).target with
  | none => s
  | some p => (s.modCarr c fun r => { r with phase := some .moving }).send c (.move p)

/-- One walk of a review from the oldest entry on; `kept` are the older entries that stay (R29). -/
def reviewWalk (d : Side) : List ClaimEntry → List ClaimEntry → State → State
  | [], kept, s => s.modTable d fun t => { t with pend := kept }
  | e :: rest, kept, s =>
    if lanesFreeFor e.carriage e.span (s.table (sideOf e.carriage)).cells && clearOf e.span kept then
      reviewWalk d rest kept ((s.takeLanes e.carriage e.span).deliverGrant e.carriage)
    else reviewWalk d rest (kept ++ [e]) s

/-- A review of a side's pending list (R29). -/
def State.review (d : Side) (s : State) : State := reviewWalk d (s.table d).pend [] s

/-- Answers to a claim request (R27). -/
inductive ClaimAnswer where
  | granted
  | pending
  | blocked
  | denied
deriving DecidableEq, Repr

/-- The pending interval J of a request (R25). -/
def State.pendingInterval (s : State) (c : Carriage) (i : Interval) : Interval :=
  match s.claimOf c with
  | some k => k.hull i
  | none => i

/-- The answer to a claim request, by the first case that applies (R27). -/
def State.claimAnswer (s : State) (c : Carriage) (i : Interval) : ClaimAnswer :=
  let d := sideOf c
  let j := s.pendingInterval c i
  if (s.claimOf c).isNone || (s.carr c).state == .fault then .denied
  else if (s.pendingOf c).isSome then .denied
  else if s.meetsFault d j then .blocked
  else if lanesFreeFor c j (s.table d).cells && clearOf j (s.table d).pend then .granted
  else .pending

/-- A claim request and what its answer does (R27, R28, R50). -/
def State.requestClaim (c : Carriage) (purpose : Purpose) (i : Interval) (s : State) : State :=
  match s.claimAnswer c i with
  | .granted => (s.takeLanes c (s.pendingInterval c i)).deliverGrant c
  | .pending =>
    s.modTable (sideOf c) fun t => { t with pend := t.pend ++ [⟨c, purpose, s.pendingInterval c i⟩] }
  | .blocked | .denied => s.blocked c

/-- A scrub claim is GRANTED (R31). -/
def State.scrubGranted (s : State) (c : Carriage) (i : Interval) : Bool :=
  s.claimAnswer c i == .granted

/-- Drop a carriage's pending entry. -/
def State.dropEntry (c : Carriage) (s : State) : State :=
  s.modTable (sideOf c) fun t => { t with pend := t.pend.filter fun e => e.carriage != c }

/-- A cancel: with an entry pending, the entry goes, the carriage becomes IDLE and a review runs; without one,
NOT_PENDING, and the table is unchanged (R34, R50). -/
def State.cancel (c : Carriage) (s : State) : State :=
  match s.pendingOf c with
  | none => s
  | some _ =>
    let s := s.dropEntry c
    let s := if (s.carr c).purpose = some .yield then s.yieldFailed c else s
    (s.toIdle c).review (sideOf c)

/-- A release: a reported position whose span lies within the claim shrinks the claim to it and becomes the last
reported position, with a review when a lane was freed; otherwise the position is not accepted (R32, R33). -/
def State.release (c : Carriage) (p : Pos) (s : State) : Option State :=
  let i := s.setup.span c (s.setup.laneFor c p.x)
  match s.claimOf c with
  | none => none
  | some k =>
    if i.within k then
      let s := (s.shrinkLanes c i).modCarr c fun r => { r with position := some p }
      some (if i = k then s else (s.review (sideOf c)).markScan)
    else none

/-! ## Travel (R49, R51) -/

/-- A travel of a carriage completes at its last reported position: by purpose and ended mark it enters DESCEND or
becomes IDLE, and a yield reports its lane (R51). -/
def State.travelDone (c : Carriage) (s : State) : State :=
  let r := s.carr c
  match r.purpose with
  | some .step | some .scrub => if r.ended then s.toIdle c else s.enterDescend c
  | some .yield => (s.yieldArrived c (s.laneNow c)).toIdle c
  | some .home | some .park | none => s.toIdle c

/-- Set the record for a travel that begins in IDLE or LIFT (R49, R55). -/
def State.beginTravel (c : Carriage) (purpose : Purpose) (target : Pos) (s : State) : State :=
  (s.setCarr c .travel).modCarr c fun r =>
    { r with phase := some .claimWait, purpose := some purpose, target := some target, followOn := none }

/-- The comparison of target and last reported position: equal, the travel completes at once; in the same lane, MOVE
goes with no claim; in another lane the carriage stays in CLAIM_WAIT (R49). -/
def State.compareTravel (c : Carriage) (target : Pos) (s : State) : State :=
  if (s.carr c).position = some target then s.travelDone c
  else if s.setup.laneFor c target.x = s.laneNow c then s.deliverGrant c
  else s

/-- The request an order needs, for a carriage left in CLAIM_WAIT: the sweep of its move (R49). -/
def State.claimTravel (c : Carriage) (s : State) : State :=
  let r := s.carr c
  match r.state, r.phase, r.purpose, r.target with
  | .travel, some .claimWait, some p, some t =>
    s.requestClaim c p (s.setup.sweep c (s.laneNow c) (s.setup.laneFor c t.x))
  | _, _, _, _ => s

/-- A travel order to an IDLE carriage with the claim request it needs; in any other state it is refused, NOT_IDLE
(R49). -/
def State.orderTravel (c : Carriage) (purpose : Purpose) (service : Option Service) (target : Pos) (s : State) :
    State :=
  if (s.carr c).state = .idle then
    let s := s.beginTravel c purpose target
    let s := s.modCarr c fun r =>
      { r with ended := false, service := service, scrubIndex := if service.isSome then 0 else r.scrubIndex }
    (s.compareTravel c target).claimTravel c
  else s

/-- Right-movers from the highest index down, then left-movers from the lowest index up, of carriages listed in
increasing index with their target lanes. Carriages in their target lane come last, as R92 says of a dispatch; that they do
so in a HOME or PARK batch too, and that several go lowest index first, is the model's choice (AL 55). -/
def State.batchOrder (s : State) (l : List (Carriage × Nat)) : List Carriage :=
  ((l.filter fun q => s.laneNow q.1 < q.2).reverse ++ (l.filter fun q => q.2 < s.laneNow q.1) ++
    (l.filter fun q => q.2 == s.laneNow q.1)).map (·.1)

end Sys2Proof.Machine
end

