-- ==== Sys2Proof/Machine/Measure.lean ====
section
/-! DEFINITION. The Measurement Unit's shared operations: the comparator watch at a change of phase, the matrix, the
start of a conversion, dwells, releases and abandonments, and the arbiter (R105 to R124, R147). -/

namespace Sys2Proof.Machine

/-! ## Changes of phase and the comparator watch (R147, R148) -/

/-- The phases in which the sense comparator alone is watched (R153). -/
def Phase.isDwell : Phase → Bool
  | .dwell | .guardDwell => true
  | .precheck | .dummy | .settle | .skip | .count | .charge | .evaluate => false

/-- The sense comparator is watched: the source is in BOARD, or a dwell runs (R147, R153). -/
def MeasUnit.watchesSense (u : MeasUnit) : Bool :=
  u.source == .board || (match u.phase with | some p => p.isDwell | none => false)

/-- The source comparator is watched: the source is in BOARD (R147). -/
def MeasUnit.watchesSource (u : MeasUnit) : Bool := u.source == .board

/-- Both timers stop and both raised marks are cleared (R147). -/
def Guard.unwatch (g : Guard) : Guard :=
  { g with senseTimer := none, sourceTimer := none, senseRaised := false, sourceRaised := false }

/-- Timers that run are about to stop: each leaves its cut mark (R148, AL 46). -/
def Guard.cut (clock : Nat) (g : Guard) : Guard :=
  { g with
    senseCut := if g.senseTimer.isSome then some clock else g.senseCut
    sourceCut := if g.sourceTimer.isSome then some clock else g.sourceCut }

/-- A phase in which no comparator is watched and which an event of its own ends (R147): a completion taken in it has found
no timer, so no cut mark outlasts it. -/
def Phase.unwatched : Phase → Bool
  | .precheck | .dummy => true
  | .settle | .skip | .count | .charge | .evaluate | .dwell | .guardDwell => false

/-- No cut mark. -/
def Guard.uncut (g : Guard) : Guard := { g with senseCut := none, sourceCut := none }

/-- Watching of a phase begins: a comparator asserted already starts its timer afresh (R147). -/
def State.beginWatch (s : State) : State :=
  s.updGuard fun g =>
    let g := (g.cut s.clock).unwatch
    { g with
      senseTimer := if s.mu.watchesSense && s.pins.sense then some s.clock else none
      sourceTimer := if s.mu.watchesSource && s.pins.source then some s.clock else none }

/-- A change of the unit. From BOARD to BOARD the watch runs on; at any other change it ends and begins afresh where
the new phase is watched (R147, R148). -/
def State.muStep (f : MeasUnit → MeasUnit) (s : State) : State :=
  let s' := s.updMu f
  if s.mu.source = .board ∧ s'.mu.source = .board then s'
  else if s.mu.phase.any Phase.unwatched then (s'.updGuard Guard.uncut).beginWatch
  else s'.beginWatch

/-! ## Phases that are stopped (R119, R121, R153) -/

/-- The cut mark of the unit when the phase in hand, if any, is stopped by something other than its own end. A mark of the
same time stands, since a phase that began at this time cannot end at it (AL 54). -/
def MeasUnit.cutMark (u : MeasUnit) (clock : Nat) : Option (Phase × Nat) :=
  match u.phase with
  | some p => if u.cut.any (fun q => q.2 == clock) then u.cut else some (p, clock)
  | none => u.cut

/-- The phase in hand leaves its cut mark (AL 54). -/
def State.cutPhase (s : State) : State := s.updMu fun u => { u with cut := u.cutMark s.clock }

/-- A phase end is stale: it reaches the unit together with, and after, what stopped that phase, so that it finds its phase
gone though one of the same name may have begun (R119, R121, R153, AL 54). -/
def MeasUnit.stale (u : MeasUnit) (p : Phase) (clock : Nat) : Bool := u.cut == some (p, clock)

/-- The cut mark goes: its phase end has been taken, or a phase that began after it has ended (AL 54). -/
def State.dropCut (s : State) : State := s.updMu fun u => { u with cut := none }

/-! ## Matrix classes and buses (R109) -/

/-- The matrix class of a kind (R109). -/
def classOf : Kind → MatrixClass
  | .res2 | .cont => .twoWire
  | .res4 => .fourWire
  | .iso => .isolation
  | .cap => .charge
  | .diode => .junction
  | .volt => .senseOnly

/-- The bus connections of a step (R109). -/
def Entry.buses (e : Entry) : Buses :=
  match e.copy.kind with
  | .res4 => ⟨e.carriageOf .forceHi, e.carriageOf .forceLo, e.carriageOf .senseHi, e.carriageOf .senseLo⟩
  | .volt => ⟨none, none, e.carriageOf .hi, e.carriageOf .lo⟩
  | .res2 | .cont | .iso | .cap | .diode =>
    ⟨e.carriageOf .hi, e.carriageOf .lo, e.carriageOf .hi, e.carriageOf .lo⟩

/-- The kinds whose attempt ends with a discharge dwell (R117). -/
def Kind.discharges : Kind → Bool
  | .iso | .cap | .diode => true
  | .res2 | .cont | .res4 | .volt => false

/-- The range of a step's first conversion, NONE for VOLT (R110, R115). -/
def StepCopy.firstRange (c : StepCopy) : Option Nat := if c.kind = .volt then none else some c.range

/-- The gain of a step's first conversion; a CAP step's gain fields are not read (R8, R114). -/
def StepCopy.firstGain (c : StepCopy) : Nat := if c.kind = .cap then 0 else c.gainInit

/-- The unit with the matrix OPEN, every bus none, the source OFF and no operation (R117). The current range is NONE too:
6.9 shows it so at a step's release, and after an abandonment, at the end of a pair check and at a calibration's start,
where the rules are silent, it is the model's choice (AL 51). -/
def MeasUnit.released (u : MeasUnit) : MeasUnit :=
  { u with op := .idle, phase := none, step := none, pair := none, cls := .opened, buses := .none, source := .off
           range := none, dwellNext := .release }

/-- Last class and last range NONE (R119, R121, R122). -/
def MeasUnit.forget (u : MeasUnit) : MeasUnit := { u with lastClass := none, lastRange := none }

/-- Set the tips of the carriages of a list that stand in a state (R42). -/
def State.setTips (l : List Carriage) (q : CarriageState) (t : Tip) (s : State) : State :=
  l.foldl (fun s c => if (s.carr c).state = q then s.setTip c t else s) s

/-- The entry of the step in hand. -/
def State.inHand (s : State) : Option Entry := s.mu.step.bind s.entry

/-! ## Conversions (R112 to R114) -/

/-- A front-end transition is owed before a conversion (R112). -/
def MeasUnit.transitionOwed (u : MeasUnit) : Bool := u.lastClass != some u.cls || u.lastRange != u.range

/-- The transition, a conversion, a charge or a check has completed: last class and last range are its own (R112). -/
def MeasUnit.remember (u : MeasUnit) : MeasUnit := { u with lastClass := some u.cls, lastRange := u.range }

/-- SETTLE has ended: SKIP runs, or COUNT at once when no sample is skipped (R113, AL 13). -/
def State.afterSettle (skip : Nat) (s : State) : State :=
  s.muStep fun u => { u with phase := some (if skip = 0 then .count else .skip) }

/-- The settle delay begins, or is over at once when it is 0 (R113, AL 13). -/
def State.beginSettle (settle skip : Nat) (source : Source) (s : State) : State :=
  let s := s.muStep fun u => { u with phase := some .settle, source := source }
  if settle = 0 then s.afterSettle skip else s

/-- The stimulus of a step is applied (R113, R114). -/
def State.applyStimulus (c : StepCopy) (s : State) : State :=
  match c.kind with
  | .cap => s.muStep fun u => { u with phase := some .charge, source := .board, charge := 0 }
  | .volt => s.beginSettle c.settle c.skip .off
  | .res2 | .cont | .res4 | .iso | .diode => s.beginSettle c.settle c.skip .board

/-- The pair check's stimulus is applied: 50 µs of settle, no skip (R120). -/
def State.applyCheck (s : State) : State := s.beginSettle 50 0 .board

/-- The dummy conversion begins, the source in LOAD, or OFF where the range is NONE (R112). -/
def State.beginDummy (s : State) : State :=
  s.muStep fun u => { u with phase := some .dummy, source := if u.range.isNone then .off else .load }

/-- A step's conversion begins at its gain: the dummy if a transition is owed, else the stimulus (R112, R115). -/
def State.beginConversion (c : StepCopy) (s : State) : State :=
  let s := s.updMu fun u => { u with gain := u.convGain }
  if s.mu.transitionOwed then s.beginDummy else s.applyStimulus c

/-- The measurement begins, or begins again, at PRECHECK; VOLT has none (R115, R118). -/
def State.beginMeasurement (c : StepCopy) (s : State) : State :=
  if c.kind = .volt then s.beginConversion c
  else s.muStep fun u => { u with phase := some .precheck, source := .off, gain := 0 }

/-! ## Dwells, releases and abandonments (R116 to R121) -/

/-- A dwell begins: the source OFF, the step's tips on DISCHARGE, the step DISCHARGING (R117, R118). -/
def State.beginDwell (p : Phase) (next : DwellNext) (e : Entry) (s : State) : State :=
  let s := s.setTips e.serving .engaged .discharge
  let s := s.modEntry e.slot fun e => { e with state := .discharging }
  s.muStep fun u => { u with phase := some p, source := .off, dwellNext := next }

/-- A dwell is over and the measurement goes on: tips back to MATRIX, the step MEASURING (R116, R118). -/
def State.endDwell (e : Entry) (s : State) : State :=
  (s.setTips e.serving .engaged .matrix).modEntry e.slot fun e => { e with state := .measuring }

/-- The carriages of a step in ENGAGED lift with the follow-on each needs (R54, R117), in the order of the step's points,
which R94 leaves open (AL 55). -/
def State.liftEngaged (l : List Carriage) (f : Carriage → FollowOn) (s : State) : State :=
  l.foldl (fun s c => if (s.carr c).state = .engaged then s.enterLift c (f c) else s) s

/-- The follow-on of a retest: LAND_AT the nominal point, purpose STEP (R54, R76). -/
def Entry.retestFollowOn (e : Entry) (c : Carriage) : FollowOn :=
  match (e.pointOf c).bind fun i => e.copy.points[i]? with
  | some p => .landAt p.at_ .step
  | none => .free

/-- No marks for the points of a copy. -/
def StepCopy.noMarks (c : StepCopy) : List Bool := List.replicate c.points.length false

/-- The unit releases the step: a held RETEST begins the next attempt, a decided outcome puts the step in LIFTING
(R94, R96, R117). -/
def State.releaseStep (e : Entry) (s : State) : State :=
  let s := s.muStep MeasUnit.released
  if e.outcome.isNone ∧ e.retestHeld then
    let s := s.modEntry e.slot fun e =>
      { e with attempts := e.attempts + 1, arrived := e.copy.noMarks, ready := e.copy.noMarks, state := .moving
               retestHeld := false }
    s.liftEngaged e.serving e.retestFollowOn
  else
    (s.modEntry e.slot fun e => { e with state := .lifting }).liftEngaged e.serving fun _ => .free

/-- The attempt ends in the unit: the discharge dwell where one is owed, then the release (R117). -/
def State.endAttempt (dwellOwed : Bool) (e : Entry) (s : State) : State :=
  if dwellOwed ∧ s.setup.dwell ≠ 0 then s.beginDwell .dwell .release e else s.releaseStep e

/-- A measurement in hand is abandoned: matrix OPEN, last class and range NONE, the remaining carriages lift (R119). -/
def State.abandonMeasure (s : State) : State :=
  match s.mu.op with
  | .measurement =>
    let s' := s.cutPhase.muStep fun u => u.released.forget
    match s.inHand with
    | none => s'
    | some e =>
      (s'.modEntry e.slot fun e => { e with state := if e.outcome.isSome then .lifting else e.state }).liftEngaged
        e.serving fun _ => .free
  | .idle | .pairCheck | .calibration => s

/-- A pair check in hand is abandoned: each partner's tip takes the connection of its state (R121). -/
def State.abandonCheck (s : State) : State :=
  match s.mu.op, s.mu.pair with
  | .pairCheck, some p =>
    let s := s.cutPhase.muStep fun u => u.released.forget
    [p.force, p.sense].foldl (fun s c => s.setTip c (tipFor (s.carr c).state)) s
  | _, _ => s

/-! ## The arbiter (R108) -/

/-- Set the electrical progress of both partners of a pair. -/
def State.setElec (p : Pair) (q : ElecProgress) (s : State) : State :=
  (s.modLanding p.force fun l => { l with elec := q }).modLanding p.sense fun l => { l with elec := q }

/-- The Qualifier offers the head of the owed list to the contact-check queue, which takes it when it holds fewer than
2; `n` offers at most (R68, R106). -/
def State.offerOwed : Nat → State → State
  | 0, s => s
  | n + 1, s =>
    match s.qual.owed with
    | [] => s
    | p :: rest =>
      if s.mu.checkQueue.length < Config.checkQueue then
        let s := s.updQual fun q => { q with owed := rest }
        let s := s.updMu fun u => { u with checkQueue := u.checkQueue ++ [p] }
        (s.setElec p .queued).offerOwed n
      else s

/-- The arbiter takes a pair (R69, R120). -/
def State.takePair (p : Pair) (s : State) : State :=
  let s := s.setElec p .running
  let s := s.updMu fun u =>
    { u with op := .pairCheck, pair := some p, checkQueue := u.checkQueue.drop 1, cls := .twoWire
             buses := ⟨some p.force, some p.sense, some p.force, some p.sense⟩
             range := some Config.pairRange, gain := Config.pairGain }
  let s := (s.setTips [p.force, p.sense] .check .matrix).offerOwed 1
  if s.mu.transitionOwed then s.beginDummy else s.applyCheck

/-- The Evaluator's record opened, or its attempt fields cleared, at the taking of a step (R127). -/
def Entry.openEval (e : Entry) : EvalRec :=
  match e.eval with
  | some r => ⟨e.attemptNo, 0, [], [], none, r.ranged, r.guardIgnored⟩
  | none => ⟨e.attemptNo, 0, [], [], none, false, false⟩

/-- The arbiter takes a step: its carriages enter ENGAGED, the retry count is 0, the Evaluator opens the attempt, and
the measurement begins (R94, R115, R127, R145). -/
def State.takeStep (e : Entry) (s : State) : State :=
  let s := s.modEntry e.slot fun e => { e with state := .measuring, eval := some e.openEval }
  let s := e.serving.foldl (fun s c => if (s.carr c).state = .ready then s.setCarr c .engaged else s) s
  let s := s.updGuard fun g => { g with retries := 0 }
  let s := s.updMu fun u =>
    { u with op := .measurement, step := some e.slot, measQueue := u.measQueue.drop 1, cls := classOf e.copy.kind
             buses := e.buses, range := e.copy.firstRange, gain := e.copy.firstGain, convGain := e.copy.firstGain }
  s.beginMeasurement e.copy

/-- The arbiter starts the ordered calibration (R122). -/
def MeasUnit.startCal (u : MeasUnit) : MeasUnit :=
  { u.released.forget with op := .calibration, phase := some .dummy, calOrder := false, gain := 0, newZ := []
                           newClamped := [] }

/-- The arbiter: with no operation held, a waiting pair first, then a waiting step, then an ordered calibration; not in
ABORTING (R108, R119, AL 20). -/
def State.arbiter (s : State) : State :=
  if s.mu.op ≠ .idle ∨ s.run.state = .aborting then s
  else
    match s.mu.checkQueue, s.mu.measQueue.head?.bind s.entry with
    | p :: _, _ => s.takePair p
    | [], some e => s.takeStep e
    | [], none => if s.mu.calOrder ∧ s.mu.measQueue = [] then s.updMu MeasUnit.startCal else s

end Sys2Proof.Machine
end

