-- ==== Sys2Proof/Machine/Ending.lean ====
section
/-! DEFINITION. Landing records that close or are removed, END, the ending and the withdrawal of a step, and a
carriage's entry into FAULT (R35, R56, R59, R72, R77, R96 to R98). -/

namespace Sys2Proof.Machine

/-! ## Landing records (R66, R72, R77) -/

/-- A pair names a carriage. -/
def Pair.names (p : Pair) (c : Carriage) : Bool := p.force == c || p.sense == c

/-- An owed or queued pair check of a carriage is withdrawn; a departure from the queue lets the Qualifier offer again
(R68, R72, R77, R106). -/
def State.withdrawPair (c : Carriage) (s : State) : State :=
  let s := s.updQual fun q => { q with owed := q.owed.filter fun p => !p.names c }
  let s := s.updMu fun u => { u with checkQueue := u.checkQueue.filter fun p => !p.names c }
  s.offerOwed Config.checkQueue

/-- A partner's open record goes back to WAITING_PARTNER, unless its check runs (R72, R77, AL 21). -/
def State.partnerWaits (p : Option Carriage) (s : State) : State :=
  match p with
  | none => s
  | some c => s.modLanding c fun l => { l with elec := if l.elec = .running then .running else .waitingPartner }

/-- A pair check in hand of the given kind is abandoned, and a record that still runs it waits again (R75, R77, R121). -/
def State.dropCheckIf (which : Pair → Bool) (s : State) : State :=
  match s.mu.op, s.mu.pair with
  | .pairCheck, some p =>
    if which p then
      let wait (l : Landing) : Landing := { l with elec := if l.elec = .running then .waitingPartner else l.elec }
      (s.abandonCheck.modLanding p.force wait).modLanding p.sense wait
    else s
  | _, _ => s

/-- A pair check in hand that names a carriage is abandoned (R77, R121). -/
def State.dropCheck (c : Carriage) (s : State) : State := s.dropCheckIf fun p => p.names c

/-- The landing of a carriage goes undecided: a check of its pair that runs is abandoned, one owed or queued is withdrawn,
its record, if open, is removed, and its partner waits again (R77, R121). -/
def State.removeLanding (c : Carriage) (s : State) : State :=
  let s := s.dropCheck c
  match s.landing c with
  | none => s
  | some l => ((s.setLanding c none).withdrawPair c).partnerWaits l.partner

/-! ## END (R56) -/

/-- END to one carriage, by its state (R56). A pending entry is cancelled with it (R96, R98, R102). A running pair check is
abandoned by END to a partner in CHECK (R56, R121). With both partners out of CHECK by failed landings of their own, the
ending NOCONTACT abandons it too (R75, `State.noContact`); after any other ending of its step, or a withdrawal, it runs to its
end, as R72 and R121 are read (AL 59). -/
def State.sendEnd (c : Carriage) (s : State) : State :=
  let r := s.carr c
  match r.state with
  | .idle | .off | .homing | .fault => s
  | .travel =>
    if r.phase = some .claimWait then
      if (s.pendingOf c).isSome then s.cancel c else s.toIdle c
    else s.modCarr c fun r => { r with ended := true }
  | .descend => s.modCarr c fun r => { r with ended := true }
  | .check => (s.removeLanding c).enterLift c .free
  | .ready => s.enterLift c .free
  | .engaged => if s.mu.op = .measurement then s else s.enterLift c .free
  | .lift => s.modCarr c fun r => { r with followOn := some .free }

/-- END to every carriage of a list, in its order (AL 41). -/
def State.sendEnds (l : List Carriage) (s : State) : State := l.foldl (fun s c => s.sendEnd c) s

/-! ## The end of a step (R96, R142) -/

/-- The reported duration: from the dispatch time to now, saturating; 0 for a step never dispatched (R82, R96). -/
def Entry.duration (e : Entry) (clock : Nat) : Nat :=
  match e.dispatchTime with
  | some t => min Config.durationMax (clock - t)
  | none => 0

/-- The outcome of a step decided by another event than FINAL: value 0, gain and range of the admitted copy, RANGED and
GUARD_IGNORED as the Evaluator's marks stand (R96, R142). -/
def Entry.endedOutcome (e : Entry) (v : Verdict) (k : Cause) (clock : Nat) : Outcome where
  verdict := v
  cause := k
  value := 0
  clipped := false
  ranged := match e.eval with
    | some r => r.ranged
    | none => false
  guardIgnored := match e.eval with
    | some r => r.guardIgnored
    | none => false
  passOnRetest := false
  stepClamped := e.copy.clamped
  elecFallback := e.fallback
  gain := e.copy.gainInit
  range := e.copy.range
  attempts := e.attemptNo
  carriages := e.lastCarriages
  duration := e.duration clock

/-- A dispatched step's outcome is decided: it leaves the measurement queue, its carriages are sent END, and it enters
LIFTING, unless the unit holds it still; a later report is discarded (R96, R107). -/
def State.decideStep (slot : Nat) (o : Entry → Outcome) (s : State) : State :=
  match s.entry slot with
  | none => s
  | some e =>
    if e.outcome.isSome then s
    else
      let held := s.mu.op = .measurement ∧ s.mu.step = some slot
      let s := s.modEntry slot fun e =>
        { e with outcome := some (o e), retestHeld := false, state := if held then e.state else .lifting }
      let s := s.updMu fun u => { u with measQueue := u.measQueue.filter fun k => k != slot }
      (s.sendEnds e.serving).markScan

/-- A step ends by another event than FINAL (R96). -/
def State.endStep (slot : Nat) (v : Verdict) (k : Cause) (s : State) : State :=
  s.decideStep slot fun e => e.endedOutcome v k s.clock

/-- The withdrawal of a step: its carriages are ended, it loses its attempt in progress and returns to WAITING (R98). -/
def State.withdrawStep (slot : Nat) (s : State) : State :=
  match s.entry slot with
  | none => s
  | some e =>
    if e.outcome.isNone ∧ (e.state = .moving ∨ e.state = .landing ∨ e.state = .measureQueued) then
      let s := s.updMu fun u => { u with measQueue := u.measQueue.filter fun k => k != slot }
      let s := s.sendEnds e.serving
      (s.modEntry slot fun e =>
        { e with state := .waiting, assignment := [], yields := [], arrived := [], ready := [] }).markScan
    else s

/-! ## FAULT (R35, R59, R97) -/

/-- The freezing of a carriage's claim: its entry goes, every entry that meets the frozen claim is answered BLOCKED,
and a review runs (R35). -/
def State.freeze (c : Carriage) (s : State) : State :=
  let d := sideOf c
  let s := s.dropEntry c
  match s.claimOf c with
  | none => s.review d
  | some k =>
    let hit := (s.table d).pend.filter fun e => e.span.meets k
    let s := s.modTable d fun t => { t with pend := t.pend.filter fun e => !e.span.meets k }
    (hit.foldl (fun s e => s.blocked e.carriage) s).review d

/-- Fault causes (R59). -/
inductive FaultCause where
  | timeout (k : RequestKind)
  | drive (code : Byte)
  | position
deriving DecidableEq, Repr

/-- The code of a fault cause in a CARRIAGE_FAULT note (R171). -/
def FaultCause.code : FaultCause → Nat
  | .timeout _ => 1
  | .drive _ => 2
  | .position => 3

/-- The code of a request kind in a CARRIAGE_FAULT note (R171). -/
def requestCode : RequestKind → Nat
  | .move => 1
  | .descend => 2
  | .lift => 3
  | .halt => 4
  | .query => 5

/-- The detail of a CARRIAGE_FAULT note (R171). -/
def FaultCause.detail : FaultCause → Nat
  | .timeout k => requestCode k
  | .drive b => b.toNat
  | .position => 0

/-- A carriage enters FAULT (R59): note, landing removed with the pair check that names the carriage in whatever state
(R121), record, frozen claim, measurement abandoned, its step ended CARRIAGE_FAULT or a yield failed, and the reachability
test owed (R97). -/
def State.carriageFault (c : Carriage) (k : FaultCause) (s : State) : State :=
  let r := s.carr c
  let now := s.clock
  let t := s.serviceTag r.service
  let served := s.servedBy c
  let s := s.offerNote ⟨.carriageFault, some c, k.code, t.1, t.2, k.detail⟩
  let s := s.removeLanding c
  let s := (s.setCarr c .fault).modCarr c fun r =>
    { r.stopTimer now with
      request := none, phase := none, purpose := none, target := none, service := none, ended := false, followOn := none }
  let s := s.yieldFailed c
  let s := s.leaveAssignments c
  let s := s.freeze c
  let s := if r.state = .engaged then s.abandonMeasure else s
  let s := match served with
    | some e => s.endStep e.slot .error .carriageFault
    | none => s
  s.markReach.markScan

end Sys2Proof.Machine
end

