-- ==== Sys2Proof/Machine/Window.lean ====
section
/-! DEFINITION. The Step Window and Dispatcher: HELD and the net update, admission into a slot, the reachability test of
the waiting steps, the dispatch scan, dispatch, and the order in which they follow one event (R82 to R87, R92, R96 to
R100, R159). -/

namespace Sys2Proof.Machine

/-! ## The Net Verdict Table (R158, R159) -/

/-- The record of a net (R158). -/
def NetTable.get (t : NetTable) (n : Nat) : NetRec := (lookupKey n t.recs).getD .untested

/-- Set the record of a net. -/
def NetTable.put (t : NetTable) (n : Nat) (r : NetRec) : NetTable := { t with recs := insertKey n r t.recs }

/-- The effect of a verdict on one net record (R159). -/
def NetRec.update (r : NetRec) (v : Verdict) (tag : Word32) : NetRec :=
  match v with
  | .low | .high | .unresolved => ⟨.fail, saturate 255 r.fails, some (r.firstTag.getD tag)⟩
  | .pass => if r.verdict = .untested then { r with verdict := .pass } else r
  | .nocontact | .skipped | .error => r

/-- The distinct nets a step's points name (R159). -/
def StepCopy.nets (c : StepCopy) : List Nat := (c.points.map (·.net)).dedup

/-- The table after a step's outcome (R159). -/
def NetTable.update (t : NetTable) (c : StepCopy) (v : Verdict) : NetTable :=
  match v with
  | .low | .high | .unresolved | .pass => c.nets.foldl (fun t n => t.put n ((t.get n).update v c.tag)) t
  | .nocontact | .skipped | .error => t

/-! ## HELD (R100, R159, R185) -/

/-- Offer an outcome to the Log Writer: it joins the held-result list, or is refused when the list holds 3 (R100,
R185). Its place against the notes is that of the offer with which it joins, which R185 leaves open for an outcome that was
refused before (AL 56). -/
def State.offerResult (slot : Nat) (s : State) : State :=
  if s.log.results.length < Config.heldResults then
    s.updLog fun l => { l with results := l.results ++ [⟨slot, l.offers⟩], offers := l.offers + 1 }
  else s.updDisp fun d => { d with refused := d.refused ++ [slot] }

/-- A step enters HELD: the net table is updated and the outcome offered; a step completed calls for a scan (R84, R100,
R159). -/
def State.enterHeld (slot : Nat) (s : State) : State :=
  match s.entry slot with
  | none => s
  | some e =>
    match e.outcome with
    | none => s
    | some o =>
      let s := s.modEntry slot fun e => { e with state := .held }
      let s := s.updNets fun t => t.update e.copy o.verdict
      (s.offerResult slot).markScan

/-- A WAITING step ends without moving a carriage and enters HELD (R82, R87). -/
def State.endWaiting (slot : Nat) (o : Outcome) (s : State) : State :=
  (s.modEntry slot fun e => { e with outcome := some o, assignment := [], yields := [] }).enterHeld slot

/-! ## Admission into a slot (R12, R17, R78) -/

/-- The lowest free slot (R78, AL 14). -/
def State.freeSlot (s : State) : Option Nat :=
  (List.range Config.windowSlots).find? fun k => (s.entry k).isNone

/-- The entry of a step as it is admitted (R12, R78). -/
def newEntry (slot : Nat) (c : StepCopy) : Entry where
  slot := slot
  copy := c
  state := .waiting
  overtake := 0
  assignment := []
  lastCarriages := c.points.map fun _ => none
  yields := []
  arrived := []
  ready := []
  attempts := 0
  dispatchTime := none
  fallback := false
  outcome := none
  retestHeld := false
  eval := none

/-- Admit a step record: the copy in the lowest free slot, WAITING, or HELD with the outcome of a failed check, its value
field the check and slot and its gain field the gain initial as read (R12, R17). -/
def State.deliver (r : RawStep) (seq : Word32) (s : State) : State :=
  match s.freeSlot with
  | none => s
  | some k =>
    let j := s.judge r seq
    let e := newEntry k j.1
    let s := (s.updDisp fun d => { d with window := d.window ++ [e] }).markScan
    match j.2 with
    | none => s
    | some (cause, value) => s.endWaiting k { e.endedOutcome .error cause s.clock with value := value, gain := r.gainInit }

/-! ## The reachability test of the waiting steps (R82) -/

/-- One WAITING step is tested; one that fails ends ERROR, its gain field the gain initial as read, as at admission (R13, R17,
R82). -/
def State.testReach (s : State) (e : Entry) : State :=
  if e.state = .waiting ∧ e.outcome.isNone then
    match s.unreachable e.copy with
    | none => s
    | some k => s.endWaiting e.slot { e.endedOutcome .error k s.clock with value := 256 * 11, gain := e.copy.gainRead }
  else s

/-- Every WAITING step is tested, oldest first (R82). -/
def State.testAllReach (s : State) : State := s.disp.window.foldl State.testReach s

/-! ## Eligibility (R83, R86) -/

/-- Steps in flight (R80). -/
def State.inFlightCount (s : State) : Nat := (s.disp.window.filter Entry.inFlight).length

/-- Two steps name a common net. -/
def sharesNet (a b : StepCopy) : Bool := a.nets.any fun n => b.nets.contains n

/-- A WAITING step is eligible, given the older entries (R83). -/
def State.eligible (s : State) (older : List Entry) (e : Entry) : Bool :=
  s.run.state == .running && e.state == .waiting && decide (s.inFlightCount < Config.inFlight) &&
  (older.all fun o => !(o.state == .waiting && decide (Config.overtakeCap ≤ o.overtake))) &&
  (older.all fun o => !(o.state == .waiting && o.copy.barrier)) &&
  (!e.copy.barrier || older.all Entry.completed) &&
  (!e.copy.skipIfNetFailed ||
    older.all fun o => !((o.state == .waiting || o.inFlight) && sharesNet o.copy e.copy))

/-! ## Dispatch (R85, R87, R92) -/

/-- A SKIP_IF_NET_FAILED step is ended by its judgment: some net of it has the verdict FAIL (R87). -/
def State.skips (s : State) (e : Entry) : Bool :=
  e.copy.skipIfNetFailed && e.copy.nets.any fun n => (s.nets.get n).verdict == .fail

/-- The outcome of a skipped step (R87). A step withdrawn after an earlier measured attempt keeps its RANGED and
GUARD_IGNORED marks, where R87 and R142 leave it open, and reports its attempts made plus 1, where R170 and R95 leave it open
(AL 39). -/
def Entry.skippedOutcome (e : Entry) (clock : Nat) : Outcome :=
  { e.endedOutcome .skipped .none clock with duration := 0, carriages := e.copy.points.map fun _ => none }

/-- The YIELD and STEP orders of one side, in the order of the ordering law (R30, R92). -/
def State.issueOrders (e : Entry) (h : Choice) (s : State) : State :=
  let yields := (carriagesOf .top ++ carriagesOf .bottom).filterMap fun c => (laneIn h.yields c).map fun k => (c, k)
  let steps := (carriagesOf .top ++ carriagesOf .bottom).filterMap fun c => (laneIn h.lanes c).map fun k => (c, k)
  let yieldOrder := s.batchOrder yields
  let stepOrder := s.batchOrder steps
  let s := yieldOrder.foldl (fun s c =>
    match laneIn h.yields c with
    | some k => s.orderTravel c .yield none ⟨s.setup.lanePos (sideOf c) k, (s.carr c).pos.y⟩
    | none => s) s
  stepOrder.foldl (fun s c =>
    match (e.pointOf c).bind fun i => e.copy.points[i]? with
    | some p => s.orderTravel c .step (some ⟨e.slot, p.role⟩) (s.setup.target c p.at_)
    | none => s) s

/-- Raise the overtake counts of the older WAITING steps (R85). -/
def raiseOlder (slot : Nat) : List Entry → List Entry
  | [] => []
  | e :: rest =>
    if e.slot = slot then e :: rest
    else (if e.state = .waiting then { e with overtake := saturate Config.overtakeCap e.overtake } else e) ::
      raiseOlder slot rest

/-- Dispatch a step with the choices of both sides (R92). The top side's orders go first, which R92 leaves open
(AL 48). -/
def State.dispatch (e : Entry) (top bottom : Choice) (s : State) : State :=
  let a := mergeSides e.copy.points (top.lanes.map (·.1)) (bottom.lanes.map (·.1))
  let yields := (top.yields ++ bottom.yields).map fun q => (⟨q.1, q.2, false⟩ : Yield)
  let s := s.updDisp fun d => { d with window := raiseOlder e.slot d.window }
  let s := s.modEntry e.slot fun e =>
    { e with
      state := .moving
      assignment := a
      lastCarriages := a
      yields := yields
      arrived := e.copy.noMarks
      ready := e.copy.noMarks
      dispatchTime := some (e.dispatchTime.getD s.clock) }
  let e := { e with assignment := a }
  (s.issueOrders e top).issueOrders e bottom

/-- What a scan does with one entry, given the older ones: skip it, dispatch it, or pass it over (R84). -/
def State.scanEntry (s : State) (older : List Entry) (e : Entry) : Option State :=
  if s.eligible older e then
    if s.skips e then some (s.endWaiting e.slot (e.skippedOutcome s.clock))
    else
      match s.choose .top (e.copy.pointsOn .top), s.choose .bottom (e.copy.pointsOn .bottom) with
      | some a, some b => some (s.dispatch e a b)
      | _, _ => none
  else none

/-- One walk of the scan, oldest first: the state after the first skip or dispatch, or none (R84). -/
def State.walk (s : State) : List Entry → List Entry → Option State
  | _, [] => none
  | older, e :: rest =>
    match s.scanEntry older e with
    | some s' => some s'
    | none => s.walk (older ++ [e]) rest

/-- A dispatch scan: walks begin again after each skip or dispatch, until one finds nothing (R84). Each walk takes a
step out of WAITING, so `fuel` of one more than the slots reaches the end (AL 32). -/
def State.scan : Nat → State → State
  | 0, s => s
  | fuel + 1, s =>
    match s.walk [] s.disp.window with
    | some s' => s'.scan fuel
    | none => s

/-! ## The Dispatcher's part of an event (R84, R97, AL 24) -/

/-- The steps in LIFTING with no carriage left in service enter HELD (R96). Several that do so in one event go in plan
order, which R96 leaves open (AL 49). -/
def State.holdLifted (s : State) : State :=
  s.disp.window.foldl (fun s e =>
    match s.entry e.slot with
    | some e => if e.state = .lifting ∧ e.serving = [] then s.enterHeld e.slot else s
    | none => s) s

/-- One round: HELD for the steps without a carriage, a faulted carriage's own among them, then withdrawals, the
reachability test, HELD and a scan (R97). Several withdrawals of one event go in the order in which their reasons were
raised, which R97 leaves open (AL 50). -/
def State.dispatchRound (s : State) : State :=
  let s := s.holdLifted
  let w := s.disp.withdraw
  let s := s.updDisp fun d => { d with withdraw := [] }
  let s := w.foldl (fun s k => s.withdrawStep k) s
  let reach := s.disp.reach
  let s := s.updDisp fun d => { d with reach := false }
  let s := if reach then s.testAllReach else s
  let s := s.holdLifted
  let scan := s.disp.scan
  let s := s.updDisp fun d => { d with scan := false }
  if scan then s.scan (Config.windowSlots + 1) else s

/-- Something is owed to the Dispatcher. -/
def State.dispatchOwed (s : State) : Bool :=
  !s.disp.withdraw.isEmpty || s.disp.reach || s.disp.scan ||
    s.disp.window.any fun e => e.state == .lifting && e.serving.isEmpty

/-- Rounds until nothing is owed (AL 24, AL 32). -/
def State.dispatchRounds : Nat → State → State
  | 0, s => s
  | fuel + 1, s => if s.dispatchOwed then (s.dispatchRound).dispatchRounds fuel else s

/-- Everything an event leaves to the Dispatcher (R84, R97). -/
def State.dispatcherStage (s : State) : State := s.dispatchRounds 64

end Sys2Proof.Machine
end

