-- ==== Sys2Proof/Machine/Log.lean ====
section
/-! DEFINITION. The Log Writer and the board frame: entry layouts, the room test, the choice of the next entry, board
verdict and net image, and the retire list (R158, R162 to R172, R182 to R187). -/

namespace Sys2Proof.Machine

/-! ## Entry layouts (R170 to R172) -/

/-- A flag as one bit of a byte. -/
def bitByte (l : List Bool) : Nat :=
  match l with
  | [] => 0
  | b :: rest => (if b then 1 else 0) + 2 * bitByte rest

/-- The code of a verdict (R170). -/
def verdictCode : Verdict → Nat
  | .pass => 1
  | .low => 2
  | .high => 3
  | .unresolved => 4
  | .nocontact => 5
  | .skipped => 6
  | .error => 7

/-- The code of a cause (R170). -/
def causeCode : Cause → Nat
  | .none => 0x00
  | .badStep => 0x10
  | .outOfField => 0x11
  | .unreachable => 0x12
  | .noCarriages => 0x13
  | .carriageFault => 0x14
  | .guard => 0x15
  | .halted => 0x16
  | .landing .noTouch => 0x20
  | .landing .force => 0x21
  | .landing .pair => 0x22
  | .landing .claim => 0x23
  | .landing .field => 0x24

/-- The carriage list of a RESULT: one byte per point slot (R170). -/
def carriageBytes (l : List (Option Carriage)) : List Byte :=
  ((l.map fun c => BitVec.ofNat 8 (carriageCode c)) ++ List.replicate (4 - l.length) 0).take 4

/-- The 32 bytes of a RESULT entry (R170). -/
def resultBytes (c : StepCopy) (o : Outcome) : List Byte :=
  [0x02, c.kindCode, BitVec.ofNat 8 (verdictCode o.verdict), BitVec.ofNat 8 (causeCode o.cause)] ++
  leBytes 4 c.tag.toNat ++ leBytes 4 c.seq.toNat ++ leSigned 6 o.value ++
  leBytes 1 (bitByte [o.clipped, o.ranged, o.guardIgnored, o.passOnRetest, o.stepClamped, o.elecFallback]) ++
  leBytes 1 o.gain ++ leBytes 1 o.range ++ leBytes 1 o.attempts ++ carriageBytes o.carriages ++
  leBytes 3 o.duration ++ List.replicate 3 0

/-- The 32 bytes of a FRAME_START entry (R171). -/
def frameStartBytes (b : BoardBegin) (zAge : Nat) : List Byte :=
  [0x01, 0x00] ++ leBytes 2 b.netCount ++ leBytes 8 b.serial.toNat ++ leBytes 4 b.planTag.toNat ++
  leSigned 2 b.offsets.top.x ++ leSigned 2 b.offsets.top.y ++ leSigned 2 b.offsets.bottom.x ++
  leSigned 2 b.offsets.bottom.y ++ leBytes 2 zAge ++ leBytes 4 b.seq.toNat ++ List.replicate 2 0

/-- The code of a note kind (R171). -/
def noteCode : NoteKind → Nat
  | .offsetClamped => 1
  | .lateResponse => 2
  | .carriageFault => 3
  | .calDone => 4
  | .calRange => 5
  | .guardEvent => 6
  | .chainBreak => 7

/-- The 32 bytes of a NOTE entry; the carriage and the code follow the note kind, one byte each (R171). -/
def noteBytes (n : Note) : List Byte :=
  [0x03, BitVec.ofNat 8 (noteCode n.kind), BitVec.ofNat 8 (carriageCode n.carriage), BitVec.ofNat 8 n.code] ++
  leBytes 4 n.tag.toNat ++ leBytes 4 n.seq.toNat ++ leBytes 1 n.detail ++ List.replicate 19 0

/-- Board verdicts (R166, R169). -/
inductive BoardVerdict where
  | pass
  | fail
  | incomplete
  | aborted
deriving DecidableEq, Repr

/-- The code of a board verdict (R172). -/
def boardCode : BoardVerdict → Nat
  | .pass => 1
  | .fail => 2
  | .incomplete => 3
  | .aborted => 4

/-- The records in use: those below the net count (R158). -/
def NetTable.used (t : NetTable) : List (Nat × NetRec) := t.recs.filter fun q => q.1 < t.inUse

/-- The lowest-numbered net in use whose verdict is FAIL (R172). -/
def NetTable.firstFail (t : NetTable) : Option (Nat × NetRec) := t.used.find? fun q => q.2.verdict == .fail

/-- The board verdict of a frame that its plan closes (R166). -/
def boardVerdict (f : FrameRec) (t : NetTable) : BoardVerdict :=
  if f.reason = some .nextBegin then .incomplete
  else if t.firstFail.isSome then .fail
  else if 0 < f.counts.nocontact ∨ 0 < f.counts.error then .incomplete
  else .pass

/-- The 32 bytes of a FRAME_END entry; `discarded` is the count of an ABORT, none for every other close (R172). -/
def frameEndBytes (f : FrameRec) (t : NetTable) (dropped : Nat) (discarded : Option Nat) : List Byte :=
  let v := if discarded.isSome then .aborted else boardVerdict f t
  let next := discarded.isNone && f.reason == some .nextBegin
  let tag := match discarded, t.firstFail with
    | none, some q => (q.2.firstTag.getD 0).toNat
    | _, _ => 0
  [0x04] ++ leBytes 1 (boardCode v) ++ leBytes 1 (bitByte [f.imageWritten, next]) ++ [0x00] ++
  leBytes 4 f.counts.pass ++ leBytes 4 f.counts.failing ++ leBytes 4 f.counts.nocontact ++
  leBytes 4 f.counts.skipped ++ leBytes 4 f.counts.error ++ leBytes 2 (discarded.getD 0) ++ leBytes 2 dropped ++
  leBytes 4 tag

/-! ## The net image (R168) -/

/-- The code of a net verdict in the image (R168). -/
def netCode : NetVerdict → Nat
  | .untested => 0
  | .pass => 1
  | .fail => 2

/-- The image byte of a net record (R168). -/
def netByte (r : NetRec) : Byte := BitVec.ofNat 8 (netCode r.verdict + 4 * min 63 r.fails)

/-- The net image: one byte per net in use (R168). -/
def NetTable.image (t : NetTable) : List Byte := (List.range t.inUse).map fun n => netByte (t.get n)

/-! ## Room and the choice of the next entry (R184, R185) -/

/-- The free room of the log, C − (p − d) (R184). -/
def LogWriter.room_ (l : LogWriter) : Int := (l.capacity : Int) - (l.published - l.drained).toNat

/-- The room an entry needs (R184). -/
def EntryKind.needs : EntryKind → Int
  | .frameEnd => 1
  | .frameStart _ | .result _ | .note => 2

/-- The room test (R184). -/
def LogWriter.hasRoom (l : LogWriter) (k : EntryKind) : Bool := k.needs ≤ l.room_

/-- Every step in the window is DONE (R164). -/
def State.windowDone (s : State) : Bool := s.disp.window.all fun e => e.state == .done

/-- A FRAME_START is due: its BOARD_BEGIN waits with no frame, and no calibration is ordered or running (R163). -/
def State.frameStartDue (s : State) : Option BoardBegin :=
  if s.frame.state = .none ∧ ¬ s.mu.calOrder ∧ s.mu.op ≠ .calibration then s.log.due else none

/-- A FRAME_END is due: by ABORT, or by a close that finds every step DONE and its image, if any, written (R165,
R169). -/
def State.frameEndDue (s : State) : Bool :=
  s.frame.state != .none &&
    (s.frame.abortDiscards.isSome ||
      (s.frame.state == .closing && s.windowDone && (s.frame.imageAddr == 0 || s.frame.imageWritten)))

/-- The head of a held list that is written next: the earlier offered of the two, notes only in a frame (R185). -/
def State.nextHeld (s : State) : Option EntryKind :=
  let note := if s.frame.state = .none then none else s.log.notes.head?
  match s.log.results.head?, note with
  | none, none => none
  | some r, none => some (.result r.slot)
  | none, some _ => some .note
  | some r, some n => if r.offer < n.offer then some (.result r.slot) else some .note

/-- The next entry to write, in the order of R185. -/
def State.nextEntry (s : State) : Option EntryKind :=
  match s.frameStartDue with
  | some b => some (.frameStart b)
  | none => if s.frameEndDue then some .frameEnd else s.nextHeld

/-! ## Writing (R165, R185, R186) -/

/-- The bytes of an entry as its write starts (AL 31). -/
def State.entryBytes (s : State) : EntryKind → List Byte
  | .frameStart b => frameStartBytes b s.mu.zAge
  | .result slot =>
    match s.entry slot with
    | some e =>
      match e.outcome with
      | some o => resultBytes e.copy o
      | none => List.replicate 32 0
    | none => List.replicate 32 0
  | .note =>
    match s.log.notes.head? with
    | some n => noteBytes n.note
    | none => List.replicate 32 0
  | .frameEnd => frameEndBytes s.frame s.nets s.log.dropped s.frame.abortDiscards

/-- The oldest refused outcome is offered again when an outcome has left the held-result list (R100, R185). -/
def State.offerAgain (s : State) : State :=
  match s.disp.refused with
  | [] => s
  | k :: rest => (s.updDisp fun d => { d with refused := rest }).offerResult k

/-- The write of an entry starts; a list head leaves its list (R185, R186, AL 18). -/
def State.startWrite (k : EntryKind) (s : State) : State :=
  let b := s.entryBytes k
  let s := s.updLog fun l => { l with writing := some ⟨k, b, .bytes⟩, room := .ready }
  match k with
  | .frameStart _ => s.updLog fun l => { l with due := none }
  | .frameEnd => s
  | .note => s.updLog fun l => { l with notes := l.notes.drop 1 }
  | .result _ => (s.updLog fun l => { l with results := l.results.drop 1 }).offerAgain

/-- The net image begins when a close finds every step DONE (R165, AL 19). -/
def State.startImage (s : State) : State :=
  if s.frame.state = .closing ∧ s.frame.abortDiscards = none ∧ s.windowDone ∧ s.frame.imageAddr ≠ 0 ∧
      ¬ s.frame.imageWritten ∧ ¬ s.frame.imageBusy then
    s.updFrame fun f => { f with imageBusy := true }
  else s

/-- The poll timer starts, if the poll interval is above 0 (R180, R184). -/
def State.startPoll (s : State) : State :=
  s.updFetch fun f => { f with pollOn := decide (f.pollMs ≠ 0) }

/-- The Log Writer goes on: with no entry in progress the next one is chosen and written when its room test passes;
failing it in READY, the drained count is read (R184, R185). -/
def State.logKick (s : State) : State :=
  let s := s.startImage
  if s.log.writing.isSome then s
  else
    match s.nextEntry with
    | none => s
    | some k =>
      if s.log.hasRoom k then s.startWrite k
      else if s.log.room = .ready then s.updLog fun l => { l with reading := true }
      else s

/-- After each read of the drained count, one with a re-read owed among them: an entry whose test fails again puts the room
state in ROOM_WAIT and (re)starts the poll timer; with none due the state is READY (R184). -/
def State.roomAfterRead (s : State) : State :=
  if s.log.writing.isSome then s
  else
    match s.nextEntry with
    | none => s.updLog fun l => { l with room := .ready }
    | some k =>
      if s.log.hasRoom k then s
      else (s.updLog fun l => { l with room := .roomWait }).startPoll

/-- The drained count taken from a value read: behind d it is d, ahead of p it is p (R183). -/
def takeDrained (p d v : Word32) : Word32 :=
  if (v - d).toInt < 0 then d else if 0 < (v - p).toInt then p else v

/-! ## Result counts (R170) -/

/-- The frame's result counts after a RESULT is written (R170). -/
def ResultCounts.count (c : ResultCounts) (v : Verdict) : ResultCounts :=
  let up := saturate Config.count32Max
  match v with
  | .pass => { c with pass := up c.pass }
  | .low | .high | .unresolved => { c with failing := up c.failing }
  | .nocontact => { c with nocontact := up c.nocontact }
  | .skipped => { c with skipped := up c.skipped }
  | .error => { c with error := up c.error }

/-! ## Retiring segments (R182) -/

/-- The run of retired segments at the head of the list leaves it: the rest, and the sequence of the last one. -/
def retireRun : List RetireEntry → Option Word32 → List RetireEntry × Option Word32
  | [], q => ([], q)
  | e :: rest, q => if e.left ∧ e.owes = 0 then retireRun rest (some e.seq) else (e :: rest, q)

/-- The retired sequence advances over the retired segments at the head of the list, and is written (R182). -/
def State.retire (s : State) : State :=
  match retireRun s.fetch.retire none with
  | (_, none) => s
  | (l, some q) =>
    (s.updFetch fun f => { f with retire := l, retiredSeq := q }).writeStation 0x28 q.toNat

/-- A segment owes one thing less. -/
def State.owesLess (k : SegmentKind) (which : Word32 → Bool) (s : State) : State :=
  let less (e : RetireEntry) : RetireEntry := if e.kind = k ∧ which e.seq then { e with owes := e.owes - 1 } else e
  (s.updFetch fun f => { f with retire := f.retire.map less }).retire

/-! ## RESULTS (R187) -/

/-- RESULTS is raised and the notified count set to p (R187). -/
def State.raiseResults (s : State) : State :=
  (s.raise .results).updLog fun l => { l with notified := l.published }

end Sys2Proof.Machine
end

