-- ==== Sys2Proof/Machine/Fetch.lean ====
section
/-! DEFINITION. The Chain Fetcher: refill, the start of reads, headers, records and links, board segments, the chain
break, and the entry writes' effects on it (R162 to R165, R167, R176 to R182). -/

namespace Sys2Proof.Machine

/-! ## Refill (R178) -/

/-- Occupied slots, counting a delivery in progress (R178). -/
def State.occupied (s : State) : Nat :=
  s.disp.window.length + (match s.fetch.reading with
    | some r => if r.kind = .record ∧ ¬ r.voided then 1 else 0
    | none => 0)

/-- Refill is active below 12, inactive at 16, and keeps its value between (R178). -/
def State.updateRefill (s : State) : State :=
  let n := s.occupied
  s.updFetch fun f =>
    { f with refill := if n < Config.refillBelow then true else if Config.windowSlots ≤ n then false else f.refill }

/-! ## The start of reads (R176 to R180) -/

/-- Start a fetch read. -/
def State.startFetch (k : ReadKind) (s : State) : State :=
  s.updFetch fun f => { f with reading := some ⟨k, false, false⟩ }

/-- Change the phase of the position. -/
def Fetcher.toPhase (f : Fetcher) (q : FetchPhase) : Fetcher := { f with pos := f.pos.map fun p => { p with phase := q } }

/-- Go to the next address in phase HEADER (R179, R180). -/
def Fetcher.goNext (f : Fetcher) : Fetcher :=
  match f.next with
  | some a => { f with pos := some ⟨a, 0, .steps, 0, .header⟩, next := none }
  | none => f

/-- The hold of a board segment is over and its link is in hand: the Fetcher goes on (R179). -/
def State.leaveHold (s : State) : State :=
  match s.fetch.pos with
  | some p => if p.phase = .hold ∧ s.fetch.hold = none then s.updFetch Fetcher.goNext else s
  | none => s

/-- The reads that the position calls for, in RUNNING with no read in progress (R176 to R180). -/
def State.startReads (s : State) : State :=
  match s.fetch.pos with
  | none => s
  | some p =>
    match p.phase with
    | .header | .waitList =>
      if s.fetch.retire.length < Config.retireList then (s.updFetch fun f => f.toPhase .header).startFetch .header
      else s.updFetch fun f => f.toPhase .waitList
    | .records _ => if s.fetch.refill then (s.startFetch .record).updateRefill else s
    | .link => if s.fetch.waiting then s else s.startFetch .link
    | .hold => s

/-- The Fetcher goes on (R176, R179). -/
def State.fetchKick (s : State) : State :=
  let s := s.leaveHold
  if s.run.state = .running ∧ s.fetch.reading = none ∧ ¬ s.fetch.broken then s.startReads else s

/-- The poll timer runs only while the Fetcher or the Log Writer waits (R184). After an ABORT that drops the FRAME_START for
which the Log Writer waits, the Log Writer counts as waiting still (AL 64). -/
def State.tidyPoll (s : State) : State :=
  if s.fetch.waiting ∨ s.log.room = .roomWait then s else s.updFetch fun f => { f with pollOn := false }

/-! ## Links (R180, R182) -/

/-- A link other than 0 is in hand: the segment is left, and the Fetcher goes to the next header, or to HOLD for a
board segment that holds it (R179, R180, R182). -/
def State.takeLink (a : Word64) (s : State) : State :=
  let seq := match s.fetch.pos with
    | some p => some p.seq
    | none => none
  let leave (e : RetireEntry) : RetireEntry := if some e.seq = seq then { e with left := true } else e
  let s := s.updFetch fun f =>
    { f with next := some a, waiting := false, reread := false, reading := none, retire := f.retire.map leave }
  let s := s.updFetch fun f => if f.hold.isSome then f.toPhase .hold else f.goNext
  s.retire

/-- The read in progress reads a link again that stands at 0 (R180). In RUNNING that is so in CHAIN_WAIT alone: a re-read
that has outlived a leaving of RUNNING and a START is the link read again that the START calls for, and a 0 it finds puts the
chain in CHAIN_WAIT anew (AL 25). -/
def Fetcher.rereads (f : Fetcher) (running : Bool) : Bool :=
  f.waiting || !running &&
    match f.reading with
    | some r => r.again
    | none => false

/-- A link of 0 puts the chain in CHAIN_WAIT, with its cause, and RESULTS when entries are not yet notified, and starts the
poll timer; read again at 0, it restarts the timer alone, or, out of RUNNING, leaves the chain STOPPED. With a re-read owed
in RUNNING the mark goes and the link is read again at once (R180, R187). -/
def State.linkZero (s : State) : State :=
  let running := s.run.state == .running
  let again := s.fetch.rereads running
  let owed := s.fetch.reread && running
  let s := s.updFetch fun f =>
    { f with waiting := f.waiting || running || !again, reread := false
             reading := if owed then some ⟨.link, false, true⟩ else none }
  let s := if again then s
    else
      let s := s.raise .chainWait
      if s.log.published = s.log.notified then s else s.raiseResults
  s.startPoll

/-! ## Board segments (R162 to R167, R179) -/

/-- A park for a BOARD_END is made only in RUNNING or DRAINING (R167). -/
def State.parksNow (s : State) : Bool := s.run.state == .running || s.run.state == .draining

/-- The park batches of a BOARD_END are owed on both sides (R38, R167). -/
def State.orderFramePark (s : State) : State := s.updRun fun r => { r with framePark := .both .due }

/-- A pending CALIBRATE has its order set (R123, R163). -/
def State.orderPendingCal (s : State) : State :=
  if s.run.pendingCal then
    (s.updRun fun r => { r with pendingCal := false }).updMu fun u => { u with calOrder := true }
  else s

/-- A BOARD_BEGIN is taken: it closes an open frame, and its FRAME_START is due once no frame is there; with the frame
NONE a pending CALIBRATE has its order set (R162, R163). -/
def State.takeBegin (b : BoardBegin) (s : State) : State :=
  let s := s.updLog fun l => { l with due := some b }
  match s.frame.state with
  | .opened =>
    s.updFrame fun f => { f with state := .closing, reason := some .nextBegin, parkOnClose := false }
  | .none | .closing => s.orderPendingCal

/-- A BOARD_END is taken: an open frame closes with its PARK flag; with no frame a PARK flag parks at once (R164,
R167). -/
def State.takeEnd (park : Bool) (s : State) : State :=
  match s.frame.state with
  | .opened =>
    (s.updFrame fun f => { f with state := .closing, reason := some .boardEnd, parkOnClose := park }).updFetch
      fun f => { f with hold := some .frameEnd }
  | .none | .closing =>
    if park && s.parksNow then s.orderFramePark.updFetch fun f => { f with hold := some .park }
    else s.updFetch fun f => { f with hold := none }

/-! ## Headers (R177, R181) -/

/-- A chain break: the position stays at the header, a note, FAULT and chain_break; from RUNNING a drain begins
(R181, R196). -/
def State.breakChain (code : Nat) (seq : Word32) (s : State) : State :=
  let s := s.updFetch fun f => { (f.toPhase .header) with broken := true, reading := none }
  let s := s.offerNote ⟨.chainBreak, none, code, 0, seq, 0⟩
  let s := (s.raise .fault).updRun fun r => { r with chainBreak := true }
  if s.run.state = .running then (s.setRun .draining).updRun fun r => { r with runPark := .both .due } else s

/-- A header is accepted: retire list, fetch sequence and expected sequence, then the phase its kind calls for and,
for a board segment, its body (R177). -/
def State.acceptHeader (k : SegmentKind) (b : List Byte) (s : State) : State :=
  let seq := headerSeq b
  let n := if k = .steps then headerCount b else 0
  let owes := match k with
    | .steps => n
    | .boardBegin => 1
    | .boardEnd => if s.frame.state = .opened then 1 else 0
  let phase := if n = 0 then FetchPhase.link else .records 0
  let s := s.updFetch fun f =>
    { f with
      reading := none
      expected := some (seq + 1)
      retire := f.retire ++ [⟨seq, k, false, owes⟩]
      hold := none
      pos := f.pos.map fun p => { p with seq := seq, kind := k, count := n, phase := phase } }
  let s := s.writeStation 0x2C seq.toNat
  match k with
  | .steps => s
  | .boardBegin => (s.updFetch fun f => { f with hold := some .frameStart }).takeBegin (parseBoardBegin b)
  | .boardEnd => s.takeEnd (headerPark b)

/-- The checks of a header, in order, then its acceptance (R177, R181). -/
def State.takeHeader (b : List Byte) (s : State) : State :=
  let seq := headerSeq b
  if s.fetch.expected.isSome ∧ s.fetch.expected ≠ some seq then s.breakChain 1 seq
  else
    match segmentKindOf (byteAt b 0x04) with
    | none => s.breakChain 2 seq
    | some k => if k = .steps ∧ s.frame.state ≠ .opened then s.breakChain 3 seq else s.acceptHeader k b

/-! ## Records (R12, R178) -/

/-- A record read completes: it is delivered and admitted, and the index advances; after the last one the phase is
LINK (R178). -/
def State.takeRecord (b : List Byte) (s : State) : State :=
  match s.fetch.pos with
  | none => s
  | some p =>
    match p.phase with
    | .records i =>
      let s := s.updFetch fun f =>
        { (f.toPhase (if i + 1 < p.count then .records (i + 1) else .link)) with reading := none }
      (s.deliver (parseStep b) p.seq).updateRefill
    | .header | .link | .hold | .waitList => s.updFetch fun f => { f with reading := none }

/-! ## Entries written (R163, R165, R170, R186) -/

/-- A RESULT is in host memory: the frame counts it and the step is DONE (R170, R186). -/
def State.resultWritten (slot : Nat) (s : State) : State :=
  match s.entry slot with
  | none => s
  | some e =>
    match e.outcome with
    | none => s
    | some o =>
      (s.updFrame fun f => { f with counts := f.counts.count o.verdict }).modEntry slot fun e =>
        { e with state := .done }

/-- A FRAME_START is written: net records cleared, counts 0, the frame OPEN, the Z age raised, the dropped-note count
0, the OFFSET_CLAMPED note offered if owed, and the BOARD_BEGIN dealt with (R124, R163, R185). That park on close is clear in
the new frame is the model's choice (AL 63). -/
def State.frameStartWritten (b : BoardBegin) (s : State) : State :=
  let s := s.updNets fun _ => ⟨[], b.netCount⟩
  let s := s.updFrame fun f =>
    { f with
      state := .opened
      reason := none
      serial := b.serial
      planTag := b.planTag
      offsets := b.offsets
      netCount := b.netCount
      imageAddr := b.imageAddr
      parkOnClose := false
      counts := ⟨0, 0, 0, 0, 0⟩
      imageWritten := false
      imageBusy := false }
  let s := s.updMu fun u => { u with zAge := saturate 65535 u.zAge }
  let s := s.updLog fun l => { l with dropped := 0 }
  let s := if b.clampMarks = 0 then s else s.offerNote ⟨.offsetClamped, none, b.clampMarks, 0, b.seq, 0⟩
  let s := s.updFetch fun f => { f with hold := if f.hold = some .frameStart then none else f.hold }
  s.owesLess .boardBegin fun q => q == b.seq

/-- A FRAME_END is written: the frame is NONE, a parking BOARD_END parks in RUNNING or DRAINING, the closing segment is
dealt with, and a BOARD_BEGIN that waits opens its frame (R162, R163, R165, R167). R160, R162 and R164 leave open what park on
close holds from then on: it is cleared, which is the model's choice (AL 63). -/
def State.frameEndWritten (s : State) : State :=
  let park := s.frame.parkOnClose && s.frame.abortDiscards.isNone && s.parksNow
  let byEnd := s.frame.reason = some .boardEnd
  let s := s.updFrame fun f =>
    { f with state := .none, reason := none, parkOnClose := false, abortDiscards := none, imageBusy := false }
  let s := if park then s.orderFramePark else s
  let s := s.updFetch fun f =>
    { f with hold := if f.hold = some .frameEnd then (if park then some .park else none) else f.hold }
  let s := if byEnd then s.owesLess .boardEnd fun _ => true else s
  if s.log.due.isSome then s.orderPendingCal else s

/-- The effect of an entry whose bytes are in host memory, by its kind (R186). -/
def State.entryLanded (k : EntryKind) (s : State) : State :=
  match k with
  | .frameStart b => s.frameStartWritten b
  | .result slot => s.resultWritten slot
  | .note => s
  | .frameEnd => s.frameEndWritten

/-! ## Publications (R79, R182, R186, R187) -/

/-- A published RESULT frees its slot and is counted by the retire list (R79, R182). -/
def State.freeSlotOf (slot : Nat) (s : State) : State :=
  match s.entry slot with
  | none => s
  | some e =>
    let s := (s.updDisp fun d => { d with window := d.window.filter fun e => e.slot != slot }).markScan
    (s.owesLess .steps fun q => q == e.copy.seq).updateRefill

/-- RESULTS after a publication: FRAME_END with FRAME; the notify threshold; the last slot freed in CHAIN_WAIT
(R187). -/
def State.testResults (k : EntryKind) (s : State) : State :=
  match k with
  | .frameEnd => (s.raise .frame).raiseResults
  | .result _ =>
    if s.log.notify ≤ (s.log.published - s.log.notified).toNat ∨ (s.fetch.waiting ∧ s.disp.window = []) then
      s.raiseResults
    else s
  | .frameStart _ | .note =>
    if s.log.notify ≤ (s.log.published - s.log.notified).toNat then s.raiseResults else s

/-- The published count is written: p and the write index advance, a RESULT's slot is freed, and RESULTS is tested
(R186, R187). -/
def State.published (k : EntryKind) (s : State) : State :=
  let s := s.updLog fun l =>
    { l with published := l.published + 1, widx := (l.widx + 1) % l.capacity, writing := none }
  let s := s.writeStation 0x24 s.log.published.toNat
  let s := match k with
    | .result slot => s.freeSlotOf slot
    | .frameStart _ | .note | .frameEnd => s
  s.testResults k

end Sys2Proof.Machine
end

