-- ==== Sys2Proof/Machine/RunControl.lean ====
section
/-! DEFINITION. The Run Controller: the tests of START, the setting of the carriages, the claim build, homing, parks, the
ends of STARTING, of a drain and of an abort, and what follows every event (R21, R36 to R38, R61, R62, R193 to R197). -/

namespace Sys2Proof.Machine

/-! ## The tests of START (R21, R37) -/

/-- The carriages of a side enabled in a setup. -/
def Setup.enabledOn (t : Setup) (d : Side) : List Carriage :=
  (carriagesOf d).filter fun c => (t.carriages.get c).enabled

/-- The four field tests of a side (R21). -/
def Setup.fieldValid (t : Setup) (d : Side) : Bool :=
  let f := t.fields.get d
  let w := t.laneWidth
  let need := ((t.enabledOn d).map fun c => 2 * (t.carriages.get c).guard + 1).sum
  f.start % w == 0 && f.start < f.stop && f.stop ≤ Config.maxX && w * need ≤ f.stop - f.start &&
    f.stop ≤ f.start + Config.lanes * w

/-- The park span of a carriage: the span at the lane of its park x (R37). -/
def Setup.parkSpan (t : Setup) (c : Carriage) : Interval := t.span c (t.laneFor c (t.carriages.get c).parkX)

/-- The park tests of a side: every park x in the field, the park spans disjoint and increasing (R37). -/
def Setup.parkValid (t : Setup) (d : Side) : Bool :=
  ((t.enabledOn d).all fun c => t.xInField d (t.carriages.get c).parkX) &&
    spansRise ((t.enabledOn d).map t.parkSpan)

/-- The tests a setup must pass (R193). -/
def Setup.valid (t : Setup) : Bool :=
  t.fieldValid .top && t.fieldValid .bottom && t.parkValid .top && t.parkValid .bottom

/-! ## Refusals of START (R192 to R194) -/

/-- The controller state of a return state. -/
def ReturnState.run : ReturnState → RunState
  | .idle => .idle
  | .stopped => .stopped

/-- The controller goes back to its return state, and what STARTING or CALIBRATING held is dropped (R191). -/
def State.goBack (s : State) : State :=
  let q := match s.run.ret with
    | some q => q.run
    | none => .idle
  let s := s.updRun fun r =>
    { r with ret := none, origin := none, saved := none, stage := none, held := none, unset := []
             answers := .all none, homeIssued := .both false }
  s.setRun q

/-- START is refused with SETUP_INVALID (R193). -/
def State.refuseSetup (s : State) : State :=
  (s.updRun fun r => { r with setupInvalid := true, last := .refused }).goBack

/-- START is refused with ORDER_FAULT: the saved setup, Claim Table and carriage records come back, the probe up flags as
the answers gave them (R36, R61, R194). A LIFT of HOMING still outstanding goes with its timer, and its LIFTED is late, which
R61 and R194 leave open (AL 16). The window is not put back: a step that R82's test ended on a fault taken in STARTING stays
ended, though the note of R195 has a START refused from STOPPED leave the window as it stood, which is the model's choice
(AL 62). -/
def State.refuseOrder (s : State) : State :=
  let s := s.updRun fun r => { r with orderFault := true, last := .refused }
  match s.run.saved with
  | none => s.goBack
  | some v =>
    let back (c : Carriage) : CarriageRec :=
      { v.carriages.get c with probeUp := (s.carr c).probeUp, timerCut := ((s.carr c).stopTimer s.clock).timerCut }
    let s := (s.updSetup fun _ => v.setup).updClaims fun _ => v.claims
    (s.updCarriages fun _ => ⟨back .t1, back .t2, back .t3, back .t4, back .b1, back .b2⟩).goBack

/-! ## Setting the carriages (R61, R194) -/

/-- A carriage that can be set for the new setup: at rest, or out of service. -/
def CarriageRec.settable (r : CarriageRec) : Bool := r.state == .off || r.state == .idle || r.state == .fault

/-- The record to which ORDER_FAULT takes a carriage back: the one held before the START (R61, R191). A carriage that was
not at rest then has finished its operation before it is set: it comes back as it came to rest, at the last reported position
from before the START, which R61 leaves open (AL 16). -/
def backRecord (before rest : CarriageRec) : CarriageRec :=
  if before.settable then before else { rest with position := before.position }

/-- A carriage about to be set has come to rest: its saved record follows where it was not at rest at the START (AL 16). -/
def State.saveCarr (c : Carriage) (s : State) : State :=
  s.updRun fun r => { r with saved := r.saved.map fun v =>
    { v with carriages := v.carriages.set c (backRecord (v.carriages.get c) (s.carr c)) } }

/-- One carriage is set for the new setup: OFF when not enabled, else HOMING with QUERY sent (R61, AL 30). -/
def State.setForStart (c : Carriage) (s : State) : State :=
  let s := s.saveCarr c
  let s := s.updRun fun r => { r with unset := r.unset.filter fun d => d != c }
  let s := (s.setCarr c (if (s.cset c).enabled then .homing else .off)).modCarr c fun r =>
    { r with phase := none, purpose := none, service := none, ended := false, target := none, request := none
             timer := none, followOn := none }
  if (s.cset c).enabled then s.send c .query else s

/-- Every carriage not yet set that has come to rest is set (R61, R194). The QUERYs of one event go in drive-number order,
which R36 and R61 leave open (AL 55). -/
def State.setRested (s : State) : State :=
  s.run.unset.foldl (fun s c => if (s.carr c).settable then s.setForStart c else s) s

/-! ## The claim build (R36) -/

/-- The enabled carriages of the setup in force. -/
def State.enabled (s : State) (d : Side) : List Carriage := s.setup.enabledOn d

/-- The span of an answering carriage at its answered position; a carriage not enabled is not asked (R36). -/
def State.answerSpan (s : State) (c : Carriage) : Option Interval :=
  if (s.cset c).enabled then (s.run.answers.get c).map fun p => s.setup.span c (s.setup.laneFor c p.x) else none

/-- The gap of a non-answering carriage as its lowest lane and one above its highest, from the spans of its nearest
answering neighbours (R36). -/
def State.gap (s : State) (c : Carriage) : Nat × Nat :=
  let low := match ((lowerThan c).filterMap s.answerSpan).head? with
    | some i => i.hi + 1
    | none => 0
  let high := match ((higherThan c).filterMap s.answerSpan).head? with
    | some i => i.lo
    | none => Config.lanes
  (low, high)

/-- Two neighbours of a list both failed to answer (R36, AL 15). -/
def State.twoSilent (s : State) : List Carriage → Bool
  | a :: b :: rest =>
    ((s.answerSpan a).isNone && (s.answerSpan b).isNone) || s.twoSilent (b :: rest)
  | _ => false

/-- The last reported position of a carriage from before the present START, if it had one (R36, R191). -/
def State.positionBefore (s : State) (c : Carriage) : Option Pos :=
  s.run.saved.bind fun v => (v.carriages.get c).position

/-- A non-answering carriage fits its gap: the gap is not empty and holds the span at the last reported position from
before the START, if there is one (R36). A position reported in STARTING itself takes no part. -/
def State.gapFits (s : State) (c : Carriage) : Bool :=
  let g := s.gap c
  g.1 < g.2 &&
    match s.positionBefore c with
    | none => true
    | some p =>
      let i := s.setup.span c (s.setup.laneFor c p.x)
      g.1 ≤ i.lo && i.hi < g.2

/-- The order check of a side (R36). -/
def State.orderOk (s : State) (d : Side) : Bool :=
  let l := s.enabled d
  spansRise (l.filterMap s.answerSpan) && !s.twoSilent l &&
    l.all fun c => (s.answerSpan c).isSome || s.gapFits c

/-- The cells of a side after a build that passes: each answering carriage owns its span, each other its gap (R36). -/
def State.builtCells (s : State) (d : Side) : List (Option Carriage) :=
  (s.enabled d).foldl (fun cells c =>
    match s.answerSpan c with
    | some i => paint i (some c) cells
    | none => paint ⟨(s.gap c).1, (s.gap c).2 - 1⟩ (some c) cells) (List.replicate Config.lanes none)

/-- Every enabled carriage has answered or is in FAULT, and every carriage is set (R36, R61). -/
def State.allAnswered (s : State) : Bool :=
  s.run.unset.isEmpty && allCarriages.all fun c =>
    !(s.cset c).enabled || (s.run.answers.get c).isSome || (s.carr c).state == .fault

/-- The claims are built: cells and lists anew, positions as answered, HOMING carriages with the probe up IDLE (R36,
R62). -/
def State.buildClaims (s : State) : State :=
  let s := s.updClaims fun _ => ⟨⟨s.builtCells .top, []⟩, ⟨s.builtCells .bottom, []⟩⟩
  let s := allCarriages.foldl (fun s c =>
    match s.run.answers.get c with
    | some p =>
      let s := s.modCarr c fun r => { r with position := some p }
      if (s.carr c).state = .homing ∧ (s.carr c).request = none then s.toIdle c else s
    | none => s) s
  s.updRun fun r => { r with saved := none, stage := some .homing, homeIssued := .both false }

/-! ## Batches (R30, R37, R38) -/

/-- The park position of a carriage as a gantry target (R37). -/
def State.parkPos (s : State) (c : Carriage) : Pos := ⟨(s.cset c).parkX, (s.cset c).parkY⟩

/-- A side's HOME or PARK batch: its IDLE carriages are sent to their park positions in the order of R30 (R37, R38). -/
def State.batch (d : Side) (purpose : Purpose) (s : State) : State :=
  let idle := (carriagesOf d).filter fun c => (s.carr c).state == .idle
  let order := s.batchOrder (idle.map fun c => (c, s.setup.laneFor c (s.parkPos c).x))
  order.foldl (fun s c => s.orderTravel c purpose none (s.parkPos c)) s

/-- Every carriage of a side in service is IDLE (R38). -/
def State.sideIdle (s : State) (d : Side) : Bool := (s.inService d).all fun c => (s.carr c).state == .idle

/-- A carriage of a side is in some state. -/
def State.anyIn (s : State) (d : Side) (q : CarriageState) : Bool := (carriagesOf d).any fun c => (s.carr c).state == q

/-- A side's HOME batch is issued once none of its carriages is HOMING (R62). -/
def State.issueHome (d : Side) (s : State) : State :=
  if s.run.stage = some .homing ∧ ¬ s.run.homeIssued.get d ∧ ¬ s.anyIn d .homing then
    (s.updRun fun r => { r with homeIssued := r.homeIssued.set d true }).batch d .home
  else s

/-! ## The end of STARTING (R195) -/

/-- A START from IDLE starts the log and the chain afresh (R174, R176, R183, R195). A read of the drained count that is in
progress goes on, and its value is taken for the new log, which R183 leaves open (AL 53). -/
def State.freshLog (v : StationValues) (s : State) : State :=
  let s := s.updLog fun l =>
    { l with published := 0, widx := 0, drained := 0, notified := 0, room := .ready, reread := false, results := []
             dropped := 0, base := v.base, capacity := v.capacity, notify := v.notify, started := true }
  let s := s.updFetch fun f =>
    { f with pos := some ⟨v.head, 0, .steps, 0, .header⟩, expected := none, next := none, retire := []
             retiredSeq := 0, hold := none, pollMs := v.pollMs }
  (s.writeStation 0x24 0).writeStation 0x28 0

/-- A START from STOPPED takes the notify threshold and the poll interval (R195). -/
def State.keepLog (v : StationValues) (s : State) : State :=
  (s.updLog fun l => { l with notify := v.notify }).updFetch fun f => { f with pollMs := v.pollMs }

/-- STARTING ends in RUNNING: after a chain break, one taken in STARTING included, the header is read again (R82, R181,
R195). -/
def State.endStarting (s : State) : State :=
  let s := match s.run.held, s.run.origin with
    | some v, some .fromIdle => s.freshLog v
    | some v, _ => s.keepLog v
    | none, _ => s
  let s := if s.run.origin = some .fromStopped then s.markReach else s
  let s := s.updRun fun r =>
    { r with chainBreak := false, origin := none, ret := none, stage := none, held := none, answers := .all none
             homeIssued := .both false }
  let s := s.updFetch fun f => { f with broken := false }
  ((s.setRun .running).updateRefill).markScan

/-- STARTING goes on as far as the carriages allow (R194, R195). The top side's HOME batch goes before the bottom's, which
R37 and R62 leave open (AL 55). -/
def State.startLevel (s : State) : State :=
  let s :=
    if s.run.stage = some .answers then
      let s := s.setRested
      if s.allAnswered then
        if s.orderOk .top && s.orderOk .bottom then s.buildClaims else s.refuseOrder
      else s
    else s
  let s := (s.issueHome .top).issueHome .bottom
  if s.run.stage = some .homing ∧ s.run.homeIssued.top ∧ s.run.homeIssued.bottom ∧
      (allCarriages.all fun c =>
        !(s.cset c).enabled || !((s.carr c).state == .homing || (s.carr c).state == .travel)) then
    s.endStarting
  else s

/-! ## Parks (R38, R167) -/

/-- A side's park of a BOARD_END: issued once the side is IDLE, over once none of its carriages travels (R38,
R167). -/
def State.framePark (d : Side) (s : State) : State :=
  let s :=
    if s.run.framePark.get d = .due ∧ s.sideIdle d then
      (s.updRun fun r => { r with framePark := r.framePark.set d .issued }).batch d .park
    else s
  if s.run.framePark.get d = .issued ∧ ¬ s.anyIn d .travel then
    s.updRun fun r => { r with framePark := r.framePark.set d .none }
  else s

/-- The hold of a parking BOARD_END ends with the park (R179). -/
def State.endFrameHold (s : State) : State :=
  if s.fetch.hold = some .park ∧ s.run.framePark = .both .none then s.updFetch fun f => { f with hold := none } else s

/-- A side's park of STOP or ABORT: issued once the side is IDLE and no other park of the side is owed (R38, AL 28). -/
def State.runPark (d : Side) (s : State) : State :=
  if s.run.runPark.get d = .due ∧ s.run.framePark.get d = .none ∧ s.sideIdle d then
    (s.updRun fun r => { r with runPark := r.runPark.set d .issued }).batch d .park
  else s

/-- A side's park of STOP or ABORT is over (R38, R196, R197). -/
def State.parked (s : State) (d : Side) : Bool := s.run.runPark.get d == .issued && !s.anyIn d .travel

/-- Dispatch states from MOVING to LIFTING (R101). -/
def DispatchState.busy : DispatchState → Bool
  | .moving | .landing | .measureQueued | .measuring | .discharging | .lifting => true
  | .waiting | .held | .done => false

/-- The window is quiet (R101). -/
def State.quiet (s : State) : Bool := s.disp.window.all fun e => !e.state.busy

/-! ## The ends of a drain and of an abort (R123, R196, R197) -/

/-- On reaching STOPPED or IDLE a pending CALIBRATE has its order set, and CALIBRATING is entered from that state
(R123). -/
def State.calibratePending (ret : ReturnState) (s : State) : State :=
  if s.run.pendingCal then
    (s.orderPendingCal.updRun fun r => { r with ret := some ret }).setRun .calibrating
  else s

/-- A drain ends in STOPPED (R196). The top side's PARK batch goes before the bottom's, which R38 leaves open (AL 55). -/
def State.drainLevel (s : State) : State :=
  if s.run.state = .draining ∧ s.quiet then
    let s := (s.runPark .top).runPark .bottom
    if s.parked .top ∧ s.parked .bottom ∧ s.fetch.reading = none then
      (((s.updRun fun r => { r with runPark := .both .none }).setRun .stopped).raise .stopped).calibratePending .stopped
    else s
  else s

/-- The log has published every entry due under ABORT (R197). -/
def State.abortLogged (s : State) : Bool := s.log.writing.isNone && s.frame.abortDiscards.isNone

/-- An abort ends in IDLE (R197). The top side's PARK batch goes before the bottom's, which R38 leaves open (AL 55). -/
def State.abortLevel (s : State) : State :=
  if s.run.state = .aborting then
    let s := (s.runPark .top).runPark .bottom
    if s.parked .top ∧ s.parked .bottom ∧ s.abortLogged ∧ s.fetch.reading = none then
      ((s.updRun fun r => { r with runPark := .both .none }).setRun .idle).calibratePending .idle
    else s
  else s

/-- The Run Controller's part of an event: STARTING, parks, drains and aborts go on as far as they can. In a frame's park
the top side's batch goes before the bottom's, which R38 and R167 leave open (AL 55). -/
def State.runLevel (s : State) : State :=
  let s := s.startLevel
  let s := ((s.framePark .top).framePark .bottom).endFrameHold
  s.drainLevel.abortLevel

/-! ## What follows every event (AL 24) -/

/-- Everything an event sets off inside the part: the Dispatcher, the arbiter, the Run Controller, the Log Writer and the
Chain Fetcher go on until nothing is owed (AL 24). -/
def State.finish (s : State) : State :=
  let s := s.dispatcherStage.arbiter.runLevel.dispatcherStage.arbiter
  s.logKick.fetchKick.tidyPoll

end Sys2Proof.Machine
end

