-- ==== Sys2Proof/Machine/HostCommands.lean ====
section
/-! DEFINITION. The host's commands: START, STOP, ABORT, CLEAR_FAULT, CALIBRATE, RESET, an unknown code, WAKE and the
register writes, and power-on reset (R57, R103, R123, R157, R180, R183, R188 to R199). -/

namespace Sys2Proof.Machine

/-- The answer of a command or an event: it is taken whole, and the part goes on (R192). -/
abbrev Answer := Host.Outcome State Fault Refusal

/-- A command that the state does not accept: the last command result is IGNORED and nothing else changes (R192). -/
def State.ignored (s : State) : State := s.setLast .ignored

/-! ## START (R193) -/

/-- An accepted START (R176, R183, R191, R193). -/
def State.acceptStart (o : Origin) (ret : ReturnState) (s : State) : State :=
  let s := s.updRun fun r =>
    { r with last := .accepted, setupInvalid := false, orderFault := false, origin := some o, ret := some ret
             saved := some ⟨s.setup, s.carriages, s.claims⟩, mirror := true, stage := some .stationBlock, held := none
             unset := [], answers := .all none, homeIssued := .both false }
  let s := s.updFetch fun f => { f with broken := false }
  let s := s.updLog fun l => { l with started := l.started || o == .fromIdle }
  s.setRun .starting

/-- START: accepted in IDLE and STOPPED (R192, R193). -/
def execStart (s : State) : Answer :=
  match s.run.state with
  | .idle => .next (s.acceptStart .fromIdle .idle)
  | .stopped => .next (s.acceptStart .fromStopped .stopped)
  | .powerupCal | .calibrating | .starting | .running | .draining | .aborting | .halted => .next s.ignored

/-! ## STOP (R196) -/

/-- The controller enters DRAINING, and both sides are owed a park (R196). -/
def State.beginDrain (s : State) : State :=
  (s.setRun .draining).updRun fun r => { r with runPark := .both .due }

/-- STOP: accepted in RUNNING (R192, R196). -/
def execStop (s : State) : Answer :=
  match s.run.state with
  | .running => .next ((s.setLast .accepted).beginDrain).finish
  | .powerupCal | .idle | .calibrating | .starting | .draining | .stopped | .aborting | .halted => .next s.ignored

/-! ## ABORT (R197) -/

/-- One carriage under ABORT: a moving one is sent HALT, landed and engaged ones lift, a waiting one becomes IDLE
(R57). -/
def State.abortCarriage (c : Carriage) (s : State) : State :=
  let r := s.carr c
  match r.state with
  | .off | .homing | .idle | .fault => s
  | .travel =>
    match r.phase with
    | some .moving => s.sendHalt c
    | some .claimWait | none => s.toIdle c
    | some .halting => s
  | .descend => s.modCarr c fun r => { r with ended := true }
  | .check | .ready | .engaged => s.enterLift c .free
  | .lift => s.modCarr c fun r => { r with followOn := some .free }

/-- A step of the window that ABORT does not discard: DONE, or with its RESULT's write in progress (R103, R186,
AL 17). -/
def State.keptByAbort (s : State) (e : Entry) : Bool :=
  e.state == .done ||
    match s.log.writing with
    | some w => w.kind == .result e.slot
    | none => false

/-- The Measurement Unit, the Qualifier and the claim lists under ABORT (R38, R57, R77, R119, R121). -/
def State.abortUnits (s : State) : State :=
  let s := s.abandonCheck.abandonMeasure
  let s := s.updMu fun u => { u with checkQueue := [], measQueue := [] }
  let s := s.updQual fun _ => .reset
  s.updClaims fun v => ⟨{ v.top with pend := [] }, { v.bottom with pend := [] }⟩

/-- The frame and the log under ABORT: an image write stops, the held outcomes and a waiting FRAME_START go, and a frame
that is or becomes open owes its ABORTED FRAME_END with the count of discarded steps (R103, R168, R169, R186, R188). Where
the FRAME_START that is dropped was waiting for room, the room state stays ROOM_WAIT and the poll timer runs on until a read
of the drained count finds no entry due: R176 and R188 leave both open, and this is the model's choice (AL 64). -/
def State.abortLog (discarded : Nat) (s : State) : State :=
  let s :=
    if s.frame.imageBusy then
      (s.writeHostPart s.frame.imageAddr s.nets.image).updFrame fun f => { f with imageBusy := false }
    else s
  let owes : Bool := match s.log.writing with
    | some ⟨.frameEnd, _, .bytes⟩ => false
    | some ⟨.frameStart _, _, _⟩ => true
    | some _ | none => s.frame.state != .none
  let s := s.updFrame fun f => { f with abortDiscards := if owes then some discarded else none }
  s.updLog fun l => { l with results := [], due := none }

/-- The Fetcher under ABORT (R176, R182). -/
def Fetcher.abort (f : Fetcher) : Fetcher :=
  { f with pos := none, expected := none, next := none, waiting := false, broken := false, refill := false
           reread := false, retire := [], hold := none, reading := f.reading.map fun r => { r with voided := true } }

/-- An accepted ABORT (R197): among its effects, every Evaluator record goes (R127, R144). Its HALTs and LIFTs go in
drive-number order, but that an engaged step's carriages lift first, as the abandonment releases them: R38 and R57 leave the
order open (AL 55). -/
def State.acceptAbort (s : State) : State :=
  let halted := s.run.state = .halted
  let discarded := (s.disp.window.filter fun e => !s.keptByAbort e).length
  let s := (s.setLast .accepted).abortUnits
  let s := s.updDisp fun d =>
    { d with window := (d.window.filter s.keptByAbort).map fun e => { e with eval := none }
             refused := [], withdraw := [], reach := false, scan := false }
  let s := s.abortLog discarded
  let s := s.updFetch Fetcher.abort
  let s := s.setRun .aborting
  let s := if halted then s.retip else s
  let s := allCarriages.foldl (fun s c => s.abortCarriage c) s
  s.updRun fun r => { r with framePark := .both .none, runPark := .both .due }

/-- ABORT: accepted in RUNNING, DRAINING, STOPPED and HALTED (R192, R197). -/
def execAbort (s : State) : Answer :=
  match s.run.state with
  | .running | .draining | .stopped | .halted => .next s.acceptAbort.finish
  | .powerupCal | .idle | .calibrating | .starting | .aborting => .next s.ignored

/-! ## CLEAR_FAULT (R157, R198) -/

/-- An accepted CLEAR_FAULT: the fault flags and raised marks go, the controller is STOPPED, tips follow their
carriages' states again, and a pending CALIBRATE has its order set (R42, R157, R198). -/
def State.acceptClear (s : State) : State :=
  let s := (s.setLast .accepted).updGuard fun g =>
    { g with residual := false, senseOver := false, sourceOver := false, senseRaised := false, sourceRaised := false }
  ((s.setRun .stopped).retip.raise .stopped).calibratePending .stopped

/-- CLEAR_FAULT: accepted in HALTED (R192, R198). -/
def execClearFault (s : State) : Answer :=
  match s.run.state with
  | .halted => .next s.acceptClear.finish
  | .powerupCal | .idle | .calibrating | .starting | .running | .draining | .stopped | .aborting => .next s.ignored

/-! ## CALIBRATE (R123) -/

/-- A CALIBRATE in IDLE or STOPPED: the order is set and CALIBRATING entered (R123). -/
def State.acceptCalibrate (ret : ReturnState) (s : State) : State :=
  let s := (s.setLast .accepted).updMu fun u => { u with calOrder := true }
  (s.updRun fun r => { r with ret := some ret }).setRun .calibrating

/-- CALIBRATE: acted on in IDLE and STOPPED, held pending in RUNNING, DRAINING and HALTED (R123, R192). -/
def execCalibrate (s : State) : Answer :=
  match s.run.state with
  | .idle => .next (s.acceptCalibrate .idle).finish
  | .stopped => .next (s.acceptCalibrate .stopped).finish
  | .running | .draining | .halted => .next ((s.setLast .accepted).updRun fun r => { r with pendingCal := true })
  | .powerupCal | .calibrating | .starting | .aborting => .next s.ignored

/-! ## Resets (R26, R63 to R65, R103, R126, R145, R158, R160, R176, R183, R189, R191, R199) -/

/-- A write to host memory that a reset stops: an image or entry stands with a free number of its bytes, a published
count is written whole or not at all (R168, R174, R186, AL 7). -/
def State.stopWrites (s : State) : State :=
  let s := if s.frame.imageBusy then s.writeHostPart s.frame.imageAddr s.nets.image else s
  match s.log.writing with
  | none => s
  | some ⟨_, bytes, .bytes⟩ => s.writeHostPart (s.log.base + BitVec.ofNat 64 (32 * s.log.widx)) bytes
  | some ⟨_, _, .publish⟩ =>
    let landed := s.progress 1
    (if landed = 1 then s.writeStation 0x24 (s.log.published + 1).toNat else s).updFree (· + 1)

/-- HALT goes to every drive whose carriage has a request outstanding, with no timer (R64), in drive-number order, which R64
leaves open (AL 55). -/
def State.haltAll (s : State) : State :=
  s.updLinkOut (· ++ ((allCarriages.filter fun c => (s.carr c).request.isSome).map fun c => (c, .halt)))

/-- The Log Writer after RESET: the log base, capacity and notify threshold stay as they were (R183, AL 10). -/
def LogWriter.afterReset (l : LogWriter) : LogWriter :=
  { LogWriter.powerOn with base := l.base, capacity := l.capacity, notify := l.notify }

/-- The unit record after RESET: Z, the Z age and cal_range are kept and no calibration is ordered (R126). -/
def MeasUnit.afterReset (u : MeasUnit) : MeasUnit :=
  { MeasUnit.powerOn with z := u.z, zAge := u.zAge, calRange := u.calRange, calOrder := false }

/-- The blocks after the RESET command (R199). -/
def State.afterReset (s : State) : State :=
  { s with
    regs := ⟨s.regs.stationBase, 0, 0⟩
    run := .afterReset
    claims := .both .reset
    carriages := .all .reset
    qual := .reset
    disp := .reset
    mu := s.mu.afterReset
    guard := .reset
    nets := .reset
    frame := .reset
    log := s.log.afterReset
    fetch := { Fetcher.powerOn with pollMs := s.fetch.pollMs } }

/-- RESET, taken in any state (R199). -/
def execReset (s : State) : Answer := .next s.stopWrites.haltAll.afterReset

/-- The blocks after power-on reset; the queue, the clock, the trace of the axis link, host memory and the pins are not
the part's to reset (R199, AL 37). -/
def State.afterPowerOn (s : State) : State :=
  { State.reset with
    pending := s.pending
    clock := s.clock
    free := s.free
    linkOut := s.linkOut
    hostMem := s.hostMem
    pins := s.pins }

/-- Power-on reset: the power-on calibration starts at once (R125, R199). -/
def execPowerOnReset (s : State) : Answer := .next s.stopWrites.afterPowerOn

/-! ## Registers (R180, R183, R189, R190, R192) -/

/-- A write to COMMAND of a code not in the table is ignored (R189, R192). -/
def execCommandUnknown (_code : Byte) (s : State) : Answer := .next s.ignored

/-- The Fetcher's part of a WAKE: a link read in progress is owed again, and a standing link of 0 is read again in
RUNNING (R180). That a WAKE sets the mark also where RUNNING was left in CHAIN_WAIT while a link was being read again, in
which R180 gives it no effect on the chain, is the model's choice (AL 60). -/
def Fetcher.wake (f : Fetcher) (running : Bool) : Fetcher :=
  match f.reading with
  | some r => if r.kind = .link ∧ ¬ r.voided then { f with reread := true } else f
  | none => if running && f.waiting then { f with reading := some ⟨.link, false, true⟩ } else f

/-- The Log Writer's part of a WAKE: the drained count is read, or read again after the read in progress (R183). -/
def LogWriter.wake (l : LogWriter) : LogWriter :=
  if l.started then (if l.reading then { l with reread := true } else { l with reading := true }) else l

/-- WAKE, any value (R180, R183, R189). -/
def execWake (_value : Word32) (s : State) : Answer :=
  let running := s.run.state == .running
  .next ((s.updFetch fun f => f.wake running).updLog LogWriter.wake)

/-- STATION_BASE after a write of a half or of the whole (R189). -/
def writeBase (old : Word64) : StationWrite → Word64
  | .low v => BitVec.ofNat 64 (old.toNat / 4294967296 * 4294967296 + v.toNat)
  | .high v => BitVec.ofNat 64 (v.toNat * 4294967296 + old.toNat % 4294967296)
  | .whole v => v

/-- A write to STATION_BASE is taken in IDLE and ignored in every other state (R189). -/
def execStationBaseWrite (w : StationWrite) (s : State) : Answer :=
  if s.run.state = .idle then .next (s.updRegs fun r => { r with stationBase := writeBase r.stationBase w })
  else .next s

/-- A write to INT_STATUS clears each bit written as 1 (R190). -/
def execIntStatusWrite (v : Word32) (s : State) : Answer :=
  .next (s.updRegs fun r => { r with intStatus := r.intStatus &&& ~~~(v.setWidth 6) })

/-- A write to INT_ENABLE (R189, R190). -/
def execIntEnableWrite (v : Word32) (s : State) : Answer :=
  .next (s.updRegs fun r => { r with intEnable := v.setWidth 6 })

end Sys2Proof.Machine
end

