-- ==== Sys2Proof/Machine/Landing.lean ====
section
/-! DEFINITION. The Contact Qualifier: opening a landing, requesting a pair check, deciding a landing, failed landings
and the scrub pattern, and the end of a pair check (R31, R65 to R76, R154). -/

namespace Sys2Proof.Machine

/-! ## Partners and methods (R4, R66) -/

/-- The role of a role's partner; only the roles of RES4 have one (R4). -/
def partnerRole : Role → Option Role
  | .forceHi => some .senseHi
  | .senseHi => some .forceHi
  | .forceLo => some .senseLo
  | .senseLo => some .forceLo
  | .hi | .lo => none

/-- A FORCE role (R106). -/
def Role.isForce : Role → Bool
  | .forceHi | .forceLo => true
  | .hi | .lo | .senseHi | .senseLo => false

/-- The method in effect and the fallback mark, for a setup method with or without a partner (R66). -/
def methodInEffect (m : Method) (partnered : Bool) : Method × Bool :=
  if partnered then (m, false)
  else
    match m with
    | .electrical | .forceAndElectrical => (.force, true)
    | .force | .forceOrElectrical => (.force, false)

/-- A landing record as it is opened (R66, R67). -/
def State.newLanding (s : State) (e : Entry) (role : Role) (c : Carriage) : Landing :=
  let partner := (partnerRole role).bind e.carriageOf
  let m := methodInEffect (s.cset c).method partner.isSome
  { slot := e.slot
    role := role
    partner := partner
    attempt := e.attemptNo
    method := m.1
    force := if m.1 = .electrical then .notUsed
      else .watching (if s.pins.force.get c then some s.clock else none) (s.clock + 10 * s.setup.filterTime c)
    elec := if m.1 = .force then .notUsed else .waitingPartner
    fallback := m.2 }

/-! ## Pair checks requested (R68) -/

/-- The partner still needs electrical evidence (R68). -/
def Landing.needs (l : Landing) : Bool :=
  l.elec == .waitingPartner &&
    (l.method == .electrical || l.method == .forceAndElectrical ||
      (l.method == .forceOrElectrical && l.force != .qualified))

/-- A pair check of the record's pair is under way. -/
def Landing.underWay (l : Landing) : Bool := l.elec == .owed || l.elec == .queued || l.elec == .running

/-- A pair check was requested for the landing (R70). -/
def Landing.requested (l : Landing) : Bool := l.underWay || l.elec == .passed || l.elec == .failed

/-- Two records are of one attempt of one step. -/
def Landing.sameAttempt (l m : Landing) : Bool := l.slot == m.slot && l.attempt == m.attempt

/-- With both partners' records open, the pair check is requested if one needs it, or the wait for it ends if none
does (R68, AL 22). The wait of a FORCE partner lasts until the other's new landing is decided (R72). -/
def State.considerPair (c : Carriage) (s : State) : State :=
  match s.landing c with
  | none => s
  | some l =>
    match l.partner with
    | none => s
    | some d =>
      match s.landing d with
      | none => s
      | some m =>
        if !l.sameAttempt m || l.underWay || m.underWay then s
        else
          let p : Pair := if l.role.isForce then ⟨l.slot, c, d⟩ else ⟨l.slot, d, c⟩
          if l.needs || m.needs then
            let s := s.setElec p .owed
            (s.updQual fun q => { q with owed := q.owed ++ [p] }).offerOwed Config.checkQueue
          else
            let drop (l : Landing) : Landing :=
              { l with elec := if l.elec = .waitingPartner ∧ l.method ≠ .force then .notUsed else l.elec }
            (s.modLanding c drop).modLanding d drop

/-! ## Failed landings and the scrub pattern (R71 to R75) -/

/-- The scrub position of an index about a nominal point (R73). -/
def scrubPoint (p : Pos) (d : Nat) : Nat → Pos
  | 0 => p
  | 1 => ⟨p.x + d, p.y⟩
  | 2 => ⟨p.x, p.y + d⟩
  | _ => ⟨p.x - d, p.y⟩

/-- What a failed landing leads to: the next scrub index in field with its position, or the relands spent, with the index
reached and the kind of the last failed landing (R71, R73). -/
inductive ScrubNext where
  | reland (index : Nat) (point : Pos)
  | spent (index : Nat) (kind : FailureKind)
deriving DecidableEq, Repr

/-- The scrub index reached (R71). -/
def ScrubNext.index : ScrubNext → Nat
  | .reland i _ | .spent i _ => i

/-- A position was passed over out of field after a failed landing of another kind than FIELD at index `i`: a failed landing
of kind FIELD took place (R71, R73). -/
def ScrubNext.passedOver (i : Nat) : ScrubNext → Bool
  | .reland j _ => i + 1 < j
  | .spent _ k => k == .field

/-- The follow-on that is decided (R71, R73). -/
def ScrubNext.followOn : ScrubNext → FollowOn
  | .reland _ q => .landAt q .scrub
  | .spent _ _ => .free

/-- After a failed landing at index `i`: the first following index whose position is in field, each one out of field
counting as a failed landing of kind FIELD (R71, R73). `fuel` bounds the indices passed over. -/
def nextScrub (t : Setup) (c : Carriage) (nominal : Pos) (i : Nat) (kind : FailureKind) : Nat → ScrubNext
  | 0 => .spent i kind
  | fuel + 1 =>
    if t.reland ≤ i then .spent i kind
    else
      let p := scrubPoint nominal t.scrub (i + 1)
      if t.inField c p then .reland (i + 1) p else nextScrub t c nominal (i + 1) .field fuel

/-- The nominal point of the point a carriage serves. -/
def Entry.nominalOf (e : Entry) (c : Carriage) : Option Pos :=
  ((e.pointOf c).bind fun i => e.copy.points[i]?).map (·.at_)

/-- The partner of a carriage in a step. -/
def Entry.partnerOf (e : Entry) (c : Carriage) : Option Carriage :=
  ((e.pointOf c).bind fun i => e.copy.points[i]?).bind fun p => (partnerRole p.role).bind e.carriageOf

/-- A failed landing of another kind than PAIR acts on the partner: an owed or queued check is withdrawn and the
partner waits (R72). -/
def State.actOnPartner (c : Carriage) (s : State) : State :=
  match s.servedBy c with
  | none => s
  | some e => (s.withdrawPair c).partnerWaits (e.partnerOf c)

/-- A pair is one of the step's partner pairs: it names the step's slot and two partners in its service (R68, R106). -/
def Entry.ownsPair (e : Entry) (p : Pair) : Bool := p.slot == e.slot && e.partnerOf p.force == some p.sense

/-- A carriage whose landings are spent ends its step NOCONTACT: a running pair check of the step's partner pairs is abandoned,
wherever its partners stand, and the carriage itself and the others give up their service. A step ended already takes no
report (R75). -/
def State.noContact (c : Carriage) (kind : FailureKind) (s : State) : State :=
  match s.servedBy c with
  | none => s
  | some e =>
    if e.outcome.isSome then s
    else (s.dropCheckIf e.ownsPair).endStep e.slot .nocontact (.landing kind)

/-- What a failed landing of a carriage leads to, from the scrub index it failed at (R71, R73). -/
def State.afterFail (s : State) (c : Carriage) (kind : FailureKind) : Option ScrubNext :=
  ((s.servedBy c).bind fun e => e.nominalOf c).map fun p => nextScrub s.setup c p (s.carr c).scrubIndex kind 4

/-- A failed landing is counted: the scrub index is the one reached, the relands spent or not (R71, R73). -/
def State.countFail (c : Carriage) (n : ScrubNext) (s : State) : State :=
  s.modCarr c fun r => { r with scrubIndex := n.index }

/-- The outcome of a failed landing for a carriage in LIFT: the follow-on of its reland, or the end of its step
(R71). -/
def State.failInLift (c : Carriage) (kind : FailureKind) (s : State) : State :=
  match s.afterFail c kind with
  | none => s
  | some n =>
    let s := s.countFail c n
    match n with
    | .spent _ k => s.noContact c k
    | .reland _ _ => s.modCarr c fun r => { r with followOn := some n.followOn }

/-- A SCRUB travel to a machine point: straight to DESCEND, a MOVE in the own lane, or a scrub claim. NOT_GRANTED
counts a failed landing CLAIM and the next position is tried, or the step ends (R31, R49, R73, R74). `fuel` bounds the
positions tried. -/
def State.scrubTravel (c : Carriage) (p : Pos) : Nat → State → State
  | 0, s => s
  | fuel + 1, s =>
    let t := s.setup.target c p
    let s := (s.beginTravel c .scrub t).compareTravel c t
    if (s.carr c).phase = some .claimWait then
      let i := s.setup.sweep c (s.laneNow c) (s.setup.laneFor c t.x)
      if s.scrubGranted c i then (s.takeLanes c (s.pendingInterval c i)).deliverGrant c
      else
        let s := s.actOnPartner c
        match s.afterFail c .claim with
        | none => s
        | some n =>
          let s := s.countFail c n
          match n with
          | .spent _ k => s.noContact c k
          | .reland _ q => State.scrubTravel c q fuel s
    else s

/-! ## The outcome of a landing (R70) -/

/-- What R70's table gives for a record: qualified, failed, or not yet decided. `wanted` says that the partner needs the
check. -/
def Landing.verdict (l : Landing) (wanted : Bool) : Option Bool :=
  match l.method with
  | .force =>
    if l.force = .unqualified ∨ l.elec = .failed then some false
    else if l.force = .qualified ∧ (l.elec = .notUsed ∨ l.elec = .passed) then some true
    else none
  | .electrical => if l.elec = .failed then some false else if l.elec = .passed then some true else none
  | .forceAndElectrical =>
    if l.force = .unqualified ∨ l.elec = .failed then some false
    else if l.force = .qualified ∧ l.elec = .passed then some true
    else none
  | .forceOrElectrical =>
    if l.elec = .failed then some false
    else if l.elec = .passed ∨ (l.force = .qualified ∧ !l.requested) then some true
    else if l.force = .unqualified ∧ !l.requested ∧ !wanted then some false
    else none

/-- The failure kind of a landing that fails: PAIR by a failed check, else FORCE (R71). -/
def Landing.failKind (l : Landing) : FailureKind := if l.elec = .failed then .pair else .force

/-- A step joins the tail of the measurement queue, which holds no step twice and has room for every step in flight
(R107). -/
def MeasUnit.join (slot : Nat) (u : MeasUnit) : MeasUnit :=
  if u.measQueue.contains slot ∨ Config.measQueue ≤ u.measQueue.length then u
  else { u with measQueue := u.measQueue ++ [slot] }

/-- A landing is qualified: its record closes, the carriage enters READY, the point is marked ready, and with every
point ready the step joins the measurement queue (R70, R93, R107). -/
def State.qualified (c : Carriage) (s : State) : State :=
  let s := (s.setLanding c none).setCarr c .ready
  match s.servedBy c with
  | none => s
  | some e =>
    match e.pointOf c with
    | none => s
    | some i =>
      let m := markAt i e.ready
      if m.all id ∧ e.outcome.isNone then
        (s.modEntry e.slot fun e => { e with ready := m, state := .measureQueued }).updMu (MeasUnit.join e.slot)
      else s.modEntry e.slot fun e => { e with ready := m }

/-- The partner of a landing needs the pair check (R70). With an open record R68 says so. Without one it does when it has
yet to land in the attempt and its method asks for electrical evidence, since no timer runs against the wait for it; in READY
it needs none (AL 57). -/
def State.partnerNeeds (s : State) (l : Landing) : Bool :=
  match l.partner with
  | none => false
  | some d =>
    match s.landing d with
    | some m => m.needs
    | none => (s.carr d).state != .ready && (s.cset d).method != .force

/-- The partner of a landing that failed by another kind than PAIR does not fail with it; with its check withdrawn it may
qualify on force alone (R72, AL 57). -/
def State.sparePartner (p : Option Carriage) (s : State) : State :=
  match p with
  | none => s
  | some d =>
    match s.landing d with
    | none => s
    | some l => if l.verdict true = some true then s.qualified d else s

/-- Decide a landing as far as its record allows, and then the partner's, whose wait the decision may end (R70, R72).
`fuel` bounds the records decided. -/
def State.decideLanding : Nat → Carriage → State → State
  | 0, _, s => s
  | fuel + 1, c, s =>
    match s.landing c with
    | none => s
    | some l =>
      match l.verdict (s.partnerNeeds l) with
      | none => s
      | some true =>
        let s := s.qualified c
        match l.partner with
        | none => s
        | some d =>
          let s := s.modLanding d fun m =>
            { m with elec := if m.method = .force ∧ m.elec = .waitingPartner ∧ !l.requested then .notUsed
                             else m.elec }
          State.decideLanding fuel d s
      | some false =>
        let s := (s.setLanding c none).enterLift c .free
        let s := if l.failKind = .pair then s else s.actOnPartner c
        (s.failInLift c l.failKind).sparePartner l.partner

/-- Look at the partner for a check, then decide the landing (R66, R68, R70). -/
def State.progressLanding (c : Carriage) (s : State) : State := (s.considerPair c).decideLanding 3 c

/-- A landing: CHECK is entered, the record opened, its fallback mark passed on, and the partner looked at (R53, R66,
R76). -/
def State.openLanding (c : Carriage) (s : State) : State :=
  let s := s.setCarr c .check
  match s.servedBy c with
  | none => s
  | some e =>
    match (e.pointOf c).bind fun i => e.copy.points[i]? with
    | none => s
    | some p =>
      let l := s.newLanding e p.role c
      let s := s.setLanding c (some l)
      let s := s.modEntry e.slot fun e => { e with fallback := e.fallback || l.fallback }
      s.progressLanding c

/-- NO_TOUCH, or TOUCHED beyond the z limit: the carriage lifts; ended, with follow-on FREE and no report, else as a
failed landing (R53, R71). -/
def State.noTouch (c : Carriage) (s : State) : State :=
  let ended := (s.carr c).ended
  let s := s.enterLift c .free
  if ended then s
  else
    let s := (s.actOnPartner c).failInLift c .noTouch
    s.sparePartner ((s.servedBy c).bind fun e => e.partnerOf c)

/-! ## The end of a pair check (R69, R72, R154) -/

/-- The value of a pair check in µΩ: the RES2 formula without leads (R69). -/
def checkValue (a : Int) : Int := resistanceValue a Config.pairSamples Config.pairRange Config.pairGain 0

/-- A landing has failed by its pair check. -/
def State.pairFailed (s : State) (c : Carriage) : Bool :=
  match s.landing c with
  | some l => l.elec == .failed
  | none => false

/-- The landings that a failed check closes fail together with kind PAIR: each carriage lifts and counts one failed landing
against its own scrub index. Scrub positions passed over out of field are failed landings of kind FIELD, and act on a partner
that has landed again meanwhile. With either exhausted both follow-ons stay FREE and the step ends NOCONTACT, named after the
first exhausted of the list; otherwise each takes its own next scrub position (R70, R71, R72, R73, R75). -/
def State.failPair (l : List Carriage) (s : State) : State :=
  let s := l.foldl (fun s c => (s.setLanding c none).enterLift c .free) s
  let next := l.filterMap fun c => (s.afterFail c .pair).map fun n => (c, n)
  let outOfField := next.filter fun q => q.2.passedOver (s.carr q.1).scrubIndex
  let s := outOfField.foldl (fun s q => s.actOnPartner q.1) s
  let s := next.foldl (fun s q => s.countFail q.1 q.2) s
  let spent := next.filterMap fun q =>
    match q.2 with
    | .spent _ k => some (q.1, k)
    | .reland _ _ => none
  match spent.head? with
  | some q => s.noContact q.1 q.2
  | none => next.foldl (fun s q => s.modCarr q.1 fun r => { r with followOn := some q.2.followOn }) s

/-- The outcome of a pair check binds each partner whose record still runs it, both together, the FORCE-role carriage
first. A partner that failed and landed again while the check ran keeps its fresh record, and beside an open record of its
partner the check is requested again (R68, R69, R70, R72, AL 22). -/
def State.bindCheck (p : Pair) (passed : Bool) (s : State) : State :=
  let put (l : Landing) : Landing :=
    { l with elec := if l.elec = .running then (if passed then .passed else .failed) else l.elec }
  let s := (s.modLanding p.force put).modLanding p.sense put
  let s := s.failPair ([p.force, p.sense].filter s.pairFailed)
  let s := (s.decideLanding 2 p.force).decideLanding 2 p.sense
  s.considerPair p.force

/-- The unit gives up the matrix at the end of a check: tips ISOLATED, last class and range those of the check
(R120). -/
def State.releaseCheck (p : Pair) (s : State) : State :=
  (s.muStep fun u => u.remember.released).setTips [p.force, p.sense] .check .isolated

end Sys2Proof.Machine
end

