-- ==== Sys2Proof/Machine/ContactEvents.lean ====
section
/-! DEFINITION. The force lines and the times of force qualification (R54, R67, R70). -/

namespace Sys2Proof.Machine

/-- An assertion begins or ends while the force is WATCHING (R67). -/
def Landing.lineAt (l : Landing) (since : Option Nat) : Landing :=
  match l.force with
  | .watching _ limit => { l with force := .watching since limit }
  | .notUsed | .qualified | .unqualified => l

/-- A landing that is WATCHING, with the start of the assertion in progress, if there is one (R66, R67). -/
def State.watching (s : State) (c : Carriage) : Option (Option Nat) :=
  match s.landing c with
  | none => none
  | some l =>
    match l.force with
    | .watching since _ => some since
    | .notUsed | .qualified | .unqualified => none

/-- A force line is asserted: an assertion begins for a landing that watches it (R67). -/
def execForceLineAsserted (c : Carriage) (s : State) : Answer :=
  let was := s.pins.force.get c
  let s := s.updPins fun p => { p with force := p.force.set c true }
  .next (if was then s else s.modLanding c fun l => l.lineAt (some s.clock))

/-- A force line drops: the current assertion ends (R67). -/
def execForceLineDrops (c : Carriage) (s : State) : Answer :=
  let s := s.updPins fun p => { p with force := p.force.set c false }
  .next (s.modLanding c fun l => l.lineAt none)

/-- The assertion in progress of a WATCHING landing has lasted the filter time: QUALIFIED (R67). -/
def execFilterTimeComplete (c : Carriage) (s : State) : Answer :=
  match s.watching c with
  | some (some _) =>
    .next ((s.modLanding c fun l => { l with force := .qualified }).progressLanding c).finish
  | some none | none => .next s

/-- The limit time of a WATCHING landing is reached: UNQUALIFIED (R67). -/
def execLimitTime (c : Carriage) (s : State) : Answer :=
  match s.watching c with
  | some _ =>
    .next ((s.modLanding c fun l => { l with force := .unqualified }).progressLanding c).finish
  | none => .next s

end Sys2Proof.Machine
end

