-- ==== Sys2Proof/Machine/DriveEvents.lean ====
section
/-! DEFINITION. The axis drives' responses and the request timer (R43 to R48, R51 to R53, R55, R61). -/

namespace Sys2Proof.Machine

/-- A position offered to the Claim Table under R32: refused, the carriage enters FAULT with cause POSITION; accepted,
the rest follows (R33, R51, R52). -/
def State.offerPosition (c : Carriage) (p : Pos) (rest : State → State) (s : State) : State :=
  match s.release c p with
  | none => s.carriageFault c .position
  | some s' => rest s'

/-- ARRIVED (R44, R47, R51). -/
def execArrived (c : Carriage) (p : Pos) (s : State) : Answer :=
  let r := s.carr c
  if r.state = .travel ∧ r.awaits .move then
    .next ((s.settle c).offerPosition c p fun s => s.travelDone c).finish
  else if r.request = some ⟨.halt, true⟩ then
    .next (s.modCarr c fun r => { r with request := some ⟨.halt, false⟩ })
  else .next (s.lateResponse c .arrived).finish

/-- HALTED: the carriage becomes IDLE where it stopped (R47, R52). -/
def execHalted (c : Carriage) (p : Pos) (s : State) : Answer :=
  let r := s.carr c
  if r.state = .travel ∧ r.awaits .halt then
    .next ((s.settle c).offerPosition c p fun s => s.toIdle c).finish
  else .next (s.lateResponse c .halted).finish

/-- TOUCHED: a landing within the z limit, else as NO_TOUCH (R47, R53). -/
def execTouched (c : Carriage) (depth : Nat) (s : State) : Answer :=
  let r := s.carr c
  if r.state = .descend ∧ r.awaits .descend then
    let s := (s.settle c).modCarr c fun r => { r with probeUp := false }
    if s.setup.zLimit < depth then .next (s.noTouch c).finish
    else if r.ended then .next (s.enterLift c .free).finish
    else .next (s.openLanding c).finish
  else .next (s.lateResponse c .touched).finish

/-- NO_TOUCH (R47, R53). -/
def execNoTouch (c : Carriage) (s : State) : Answer :=
  let r := s.carr c
  if r.state = .descend ∧ r.awaits .descend then
    let s := (s.settle c).modCarr c fun r => { r with probeUp := false }
    .next (s.noTouch c).finish
  else .next (s.lateResponse c .noTouch).finish

/-- The travel of a LAND_AT follow-on: to a scrub position, or back to the nominal point with a claim request of the
carriage's own (R55, R73, R76). A scrub claim that fails may let a partner qualify on force alone (R72). -/
def State.landAt (c : Carriage) (p : Pos) (purpose : Purpose) (s : State) : State :=
  match purpose with
  | .step =>
    let t := s.setup.target c p
    let s := (s.beginTravel c .step t).modCarr c fun r => { r with scrubIndex := 0 }
    (s.compareTravel c t).claimTravel c
  | .scrub | .yield | .home | .park =>
    let s := s.scrubTravel c p 5
    s.sparePartner ((s.servedBy c).bind fun e => e.partnerOf c)

/-- LIFTED: the probe is up and the follow-on acted on; in HOMING the carriage becomes IDLE once the claims are built
(R47, R55, R61, R62). -/
def execLifted (c : Carriage) (s : State) : Answer :=
  let r := s.carr c
  if r.state = .lift ∧ r.awaits .lift then
    let s := (s.settle c).modCarr c fun r => { r with probeUp := true }
    match r.followOn with
    | some (.landAt p purpose) => .next (s.landAt c p purpose).finish
    | some .free | none => .next (s.toIdle c).finish
  else if r.state = .homing ∧ r.awaits .lift then
    let s := (s.settle c).modCarr c fun r => { r with probeUp := true }
    .next (if s.run.stage = some .homing then s.toIdle c else s).finish
  else .next (s.lateResponse c .lifted).finish

/-- POSITION: the answer to QUERY in HOMING; a probe that is down is lifted (R47, R61). -/
def execPosition (c : Carriage) (p : Pos) (up : Bool) (s : State) : Answer :=
  let r := s.carr c
  if r.state = .homing ∧ r.awaits .query then
    let s := (s.settle c).modCarr c fun r => { r with probeUp := up }
    let s := s.updRun fun r => { r with answers := r.answers.set c (some p) }
    .next (if up then s else s.send c .lift).finish
  else .next (s.lateResponse c .position).finish

/-- DRIVE_FAULT: FAULT with cause DRIVE in every state but OFF and FAULT (R47, R48). -/
def execDriveFault (c : Carriage) (code : Byte) (s : State) : Answer :=
  if (s.carr c).inService then .next (s.carriageFault c (.drive code)).finish
  else .next (s.lateResponse c .driveFault).finish

/-- A response dropped at the link reaches no carriage (R45). -/
def execLinkFrameDropped (_why : LinkDrop) (s : State) : Answer := .next s

/-- The request timer expires: FAULT with cause TIMEOUT; a timer that does not run has no expiry (R46, AL 38). The expiry of
a timer taken together with, and after, what stopped it has no effect, though a fresh timer may run (R46, AL 58). -/
def execRequestTimeout (c : Carriage) (s : State) : Answer :=
  let r := s.carr c
  if r.timerCut = some s.clock then .next (s.modCarr c fun r => { r with timerCut := none })
  else
    match r.timer, r.request with
    | some _, some q =>
      .next ((s.modCarr c fun r => { r with timer := none }).carriageFault c (.timeout q.kind)).finish
    | _, _ => .next s

end Sys2Proof.Machine
end

