-- ==== Sys2Proof/Machine/Evaluate.lean ====
section
/-! DEFINITION. The Evaluator: a conversion's value, its record, the answer REPEAT, RETEST or FINAL, and what the unit
does with the answer (R113, R114, R116, R117, R127 to R142). -/

namespace Sys2Proof.Machine

/-- The auto-zero offset of a gain code (R104). -/
def ZTable.at_ (z : ZTable) : Nat → Int
  | 0 => z.z0
  | 1 => z.z1
  | 2 => z.z2
  | 3 => z.z3
  | _ => z.z4

/-- The sum of a setup value over a step's HI and LO carriages (R133, R134). -/
def State.pairSum (s : State) (e : Entry) (f : CarriageSetup → Nat) : Nat :=
  let of (c : Option Carriage) : Nat := match c with
    | some c => f (s.cset c)
    | none => 0
  of (e.carriageOf .hi) + of (e.carriageOf .lo)

/-- Add a code to a set. -/
def addCode (n : Nat) (l : List Nat) : List Nat := if l.contains n then l else l ++ [n]

/-- The conversion formed from n counted samples of a kind other than CAP (R129, R130, R132, R133, R135). -/
def sampledConversion (k : Kind) (a : Int) (clipped : Bool) (n range gain leads : Nat) : Conversion :=
  if clipped then
    let end_ := clipEndOf k a
    ⟨clipValue k range gain 1 end_, some end_, gain, range⟩
  else ⟨sampledValue k a n range gain leads, none, gain, range⟩

/-- The conversion formed from a charge (R130, R134, R135). -/
def chargeConversion (stop : StopKind) (ticks range gain threshold strays : Nat) : Conversion :=
  match stop with
  | .threshold => ⟨capacitanceValue ticks range threshold strays, none, gain, range⟩
  | .timerLimit | .compliance => ⟨capacitanceClip range threshold, some .positive, gain, range⟩

/-- The record after a report: the count raised, the setting added to its clipped set, the conversion last (R128). -/
def EvalRec.report (r : EvalRec) (cap : Bool) (v : Conversion) : EvalRec :=
  { r with
    conversions := r.conversions + 1
    clippedGains := if !cap && v.clip.isSome then addCode v.gain r.clippedGains else r.clippedGains
    clippedRanges := if cap && v.clip.isSome then addCode v.range r.clippedRanges else r.clippedRanges
    last := some v }

/-- A REPEAT may be given: AUTORANGE is set and the attempt's conversions are fewer than four (R136, R137). -/
def mayRepeat (c : StepCopy) (r : EvalRec) : Bool := c.autorange && decide (r.conversions < Config.conversions)

/-- The attempt's verdict from a standing conversion (R139, R140). -/
def StepCopy.verdict (c : StepCopy) (v : Conversion) : Verdict :=
  verdictOf c.loPresent c.hiPresent c.lo c.hi v.clip v.value

/-- FINAL, not RETEST: PASS, or an attempt number above the retest count (R141). -/
def isFinal (v : Verdict) (attempt retest : Nat) : Bool := v == .pass || decide (retest < attempt)

/-- The outcome of a FINAL (R96, R142). -/
def Entry.finalOutcome (e : Entry) (r : EvalRec) (v : Conversion) (clock : Nat) : Outcome :=
  let w := e.copy.verdict v
  { verdict := w
    cause := .none
    value := v.value
    clipped := v.clip.isSome
    ranged := r.ranged
    guardIgnored := r.guardIgnored
    passOnRetest := w == .pass && decide (2 ≤ r.attempt)
    stepClamped := e.copy.clamped
    elecFallback := e.fallback
    gain := if e.copy.kind = .cap then e.copy.gainInit else v.gain
    range := if e.copy.kind = .volt then e.copy.range else v.range
    attempts := e.attemptNo
    carriages := e.lastCarriages
    duration := e.duration clock }

/-- A conversion stands: FINAL decides the outcome, RETEST is held, and the attempt ends in the unit (R117, R141). -/
def State.stands (e : Entry) (r : EvalRec) (v : Conversion) (s : State) : State :=
  let s := s.modEntry e.slot fun e => { e with eval := some r }
  let s :=
    if isFinal (e.copy.verdict v) r.attempt e.copy.retest then
      s.decideStep e.slot fun e => e.finalOutcome r v s.clock
    else s.modEntry e.slot fun e => { e with retestHeld := true }
  match s.entry e.slot with
  | some e => s.endAttempt e.copy.kind.discharges e
  | none => s

/-- Keep the Evaluator's record with its ranged mark set, as a REPEAT does (R136, R137). -/
def State.markRanged (e : Entry) (r : EvalRec) (s : State) : State :=
  s.modEntry e.slot fun e => { e with eval := some { r with ranged := true } }

/-- A counted sample as a kind reads it: the compliance reading of a VOLT conversion is always clear (R130). -/
def Kind.reads (k : Kind) (q : Sample) : Sample := { q with compliance := q.compliance && k != .volt }

/-- The unit has reported a conversion and is in EVALUATE, the path as the conversion left it (R105, R112, R113). -/
def MeasUnit.evaluating (u : MeasUnit) : MeasUnit := { u.remember with phase := some .evaluate }

/-- The end of COUNT of a step's conversion: it is reported, EVALUATE entered, and the answer taken (R113, R116, R128,
R136, AL 12). -/
def State.reportSampled (e : Entry) (samples : List Sample) (s : State) : State :=
  let c := e.copy
  let n := c.counted
  let gain := s.mu.gain
  let range := s.mu.range.getD c.range
  let q := (takeSamples n samples).map c.kind.reads
  let a := correctedSum (s.mu.z.at_ gain) (q.map (·.code))
  let clipped := clippedSamples q
  let v := sampledConversion c.kind a clipped n range gain (s.pairSum e (·.lead))
  let r := (e.eval.getD e.openEval).report false v
  let s := s.updMu MeasUnit.evaluating
  match (if mayRepeat c r then nextGain clipped a n gain c.gainMin c.gainMax r.clippedGains else none) with
  | some g =>
    let s := s.markRanged e r
    let s := s.updMu fun u => { u with gain := g, convGain := g }
    s.beginSettle c.settle c.skip s.mu.source
  | none => s.stands e r v

/-- A CAP repeat at another range: tips back to MATRIX, the range set, PRECHECK (R116). -/
def State.repeatCharge (e : Entry) (range : Nat) (s : State) : State :=
  ((s.endDwell e).updMu fun u => { u with range := some range, dwellNext := .release }).beginMeasurement e.copy

/-- The end of a CAP charge: the source OFF, the charge reported, EVALUATE entered, and the answer taken (R114, R116, R128,
R137, AL 12). -/
def State.reportCharge (e : Entry) (stop : StopKind) (ticks : Nat) (s : State) : State :=
  let c := e.copy
  let range := s.mu.range.getD c.range
  let v := chargeConversion stop ticks range s.mu.gain c.threshold (s.pairSum e (·.stray))
  let r := (e.eval.getD e.openEval).report true v
  let s := s.muStep fun u => { u.evaluating with source := .off, charge := ticks }
  match (if mayRepeat c r then nextRange stop ticks range r.clippedRanges else none) with
  | some r' =>
    let s := s.markRanged e r
    if s.setup.dwell = 0 then s.repeatCharge e r' else s.beginDwell .dwell (.repeatAt r') e
  | none => s.stands e r v

end Sys2Proof.Machine
end

