-- ==== Sys2Proof/Machine/Guarding.lean ====
section
/-! DEFINITION. The Source Guard: raising a condition, the response to it, and the latch (R58, R102, R118, R149 to
R155). -/

namespace Sys2Proof.Machine

/-- The three conditions (R149). -/
inductive Condition where
  | residual
  | senseOver
  | sourceOver
deriving DecidableEq, Repr

/-- The five responses a note can name (R149). -/
inductive Response where
  | ignore
  | retry
  | report
  | latch
  | spent
deriving DecidableEq, Repr

/-- The condition's part of a GUARD_EVENT note's code (R149). -/
def Condition.code : Condition → Nat
  | .residual => 0x10
  | .senseOver => 0x20
  | .sourceOver => 0x30

/-- The response's part of a GUARD_EVENT note's code (R149). -/
def Response.code : Response → Nat
  | .ignore => 0
  | .retry => 1
  | .report => 2
  | .latch => 3
  | .spent => 4

/-- Set the sticky flag of a condition (R149, R157). -/
def Condition.setFlag (k : Condition) (g : Guard) : Guard :=
  match k with
  | .residual => { g with residual := true }
  | .senseOver => { g with senseOver := true }
  | .sourceOver => { g with sourceOver := true }

/-- The mode that answers a condition (R149). -/
def Condition.mode (k : Condition) (t : Setup) : GuardMode :=
  match k with
  | .residual => t.residualMode
  | .senseOver | .sourceOver => t.overloadMode

/-- The response of a mode during a measurement; a RETRY with the retries spent becomes REPORT (R149, R151). -/
def responseOf (m : GuardMode) (retries : Nat) : Response :=
  match m with
  | .ignore => .ignore
  | .retry => if retries < Config.guardRetries then .retry else .spent
  | .report => .report
  | .latch => .latch

/-- The response of a mode during a pair check, which is not retried (R154). -/
def checkResponseOf : GuardMode → Response
  | .ignore => .ignore
  | .retry => .retry
  | .report => .report
  | .latch => .latch

/-- Offer the GUARD_EVENT note of a condition and its response for a step (R149, R154, R171). A running pair check can outlive
its step's slot (AL 59), and the rules leave open what a note raised in it then carries: the slot is read as it stands, which
gives 0 and 0 when it is free and the new step's tag and sequence when it was taken again. That is the model's choice
(AL 61). -/
def State.guardNote (k : Condition) (r : Response) (slot : Nat) (s : State) : State :=
  let t := match s.entry slot with
    | some e => (e.copy.tag, e.copy.seq)
    | none => (0, 0)
  s.offerNote ⟨.guardEvent, none, k.code + r.code, t.1, t.2, 0⟩

/-- The steps a latch ends with cause HALTED (R102). -/
def Entry.halts (e : Entry) : Bool :=
  e.outcome.isNone && (e.state == .moving || e.state == .landing || e.state == .measureQueued)

/-- The latch (R155): the unit gives up what it holds, the step in measurement ends GUARD, the controller enters
HALTED and raises FAULT, every tip is ISOLATED, the other steps in flight end HALTED, pending claims go without a
review, and every carriage comes to rest (R58, R102, AL 23, AL 27). The step in measurement ends first, then the halted steps
in plan order, then all carriages in drive-number order: R58 and R102 leave the order open (AL 55). -/
def State.latch (s : State) : State :=
  let slot := if s.mu.op = .measurement then s.mu.step else none
  let s := (s.abandonCheck).abandonMeasure
  let s := match slot with
    | some k => s.endStep k .error .guard
    | none => s
  let s := (s.setRun .halted).raise .fault
  let s := s.retip
  let s := s.updClaims fun v => ⟨{ v.top with pend := [] }, { v.bottom with pend := [] }⟩
  let s := (s.disp.window.filter Entry.halts).foldl (fun s e => s.endStep e.slot .error .halted) s
  let s := s.sendEnds allCarriages
  s.updRun fun r =>
    let drop (m : ParkMark) : ParkMark := if m = .due then .none else m
    { r with framePark := ⟨drop r.framePark.top, drop r.framePark.bottom⟩, runPark := .both .none }

/-- A condition during a pair check (R154). Its note reads the slot of the pair's step as it stands, also when that step has
gone (AL 61). -/
def State.checkCondition (k : Condition) (p : Pair) (s : State) : State :=
  let r := checkResponseOf s.setup.overloadMode
  let s := s.guardNote k r p.slot
  match r with
  | .ignore => s
  | .retry | .report | .spent => s.abandonCheck.bindCheck p false
  | .latch => s.latch

/-- The Guard reports that the step in measurement ends ERROR, GUARD (R152). -/
def State.guardEnds (e : Entry) (s : State) : State := s.endStep e.slot .error .guard

/-- A condition during a step's measurement in a phase (R150 to R153). After a REPORT in a DWELL the dwell runs on and is
still watched: the timers and raised marks go, and a fresh assertion times again (R147 and R153 leave it open, AL 52). A
phase that RETRY or REPORT stops leaves its cut mark (AL 54). -/
def State.measureCondition (k : Condition) (e : Entry) (ph : Phase) (s : State) : State :=
  let r := responseOf (k.mode s.setup) s.guard.retries
  let s := s.guardNote k r e.slot
  match r with
  | .ignore =>
    if ph.isDwell then s
    else s.modEntry e.slot fun e => { e with eval := e.eval.map fun v => { v with guardIgnored := true } }
  | .retry =>
    let s := (s.updGuard fun g => { g with retries := g.retries + 1 }).cutPhase
    if ph = .dwell then s.beginDwell .dwell s.mu.dwellNext e else s.beginDwell .guardDwell .release e
  | .report | .spent =>
    let s := s.guardEnds e
    if ph = .dwell then (s.updMu fun u => { u with dwellNext := .release }).updGuard Guard.unwatch
    else s.cutPhase.endAttempt true e
  | .latch => s.latch

/-- A condition is raised: its flag is set, then its note is offered and its response ordered; with no measurement and
no pair check in hand it raises nothing (R149). -/
def State.raiseCondition (k : Condition) (s : State) : State :=
  match s.mu.op, s.mu.phase with
  | .pairCheck, some _ =>
    match s.mu.pair with
    | some p => (s.updGuard k.setFlag).checkCondition k p
    | none => s
  | .measurement, some ph =>
    match s.inHand with
    | some e => (s.updGuard k.setFlag).measureCondition k e ph
    | none => s
  | _, _ => s

/-- The deglitch time of a comparator completes. While its timer runs, its raised mark is set, its timer stops, and the
condition is raised (R147). A completion taken together with the end of the watching it timed in has no effect, though the
comparator is watched again, and its cut mark goes (R148, R156, AL 46). -/
def State.deglitched (w : Comparator) (s : State) : State :=
  match w with
  | .sense =>
    if s.guard.senseCut = some s.clock then s.updGuard fun g => { g with senseCut := none }
    else if s.guard.senseTimer.isSome then
      (s.updGuard fun g => { g with senseTimer := none, senseRaised := true }).raiseCondition .senseOver
    else s
  | .source =>
    if s.guard.sourceCut = some s.clock then s.updGuard fun g => { g with sourceCut := none }
    else if s.guard.sourceTimer.isSome then
      (s.updGuard fun g => { g with sourceTimer := none, sourceRaised := true }).raiseCondition .sourceOver
    else s

end Sys2Proof.Machine
end

