-- ==== Sys2Proof/Machine/MeasureEvents.lean ====
section
/-! DEFINITION. The ends of the Measurement Unit's phases, the overload comparators and their deglitch times (R113 to
R122, R146, R147). -/

namespace Sys2Proof.Machine

/-! ## Ends of phases -/

/-- The mean of a residual pre-check in µV (R115, R132). -/
def precheckMean (z : ZTable) (codes : List Code) : Int :=
  voltageValue (correctedSum (z.at_ 0) (takeCodes Config.precheckSamples codes)) Config.precheckSamples 0

/-- A pre-check lets the measurement go on: no raw code meets an end, and the mean is within the limit (R146). -/
def precheckPasses (limit : Nat) (codes : List Code) (mean : Int) : Bool :=
  !(takeCodes Config.precheckSamples codes).any endCode && decide (mean.natAbs ≤ 1000 * limit)

/-- The pre-check ends: the measurement goes on, or RESIDUAL is raised, after which it goes on under IGNORE alone
(R115, R146, R150). One taken together with, and after, what stopped its pre-check has no effect (R119, AL 54). -/
def execPrecheckEnd (codes : List Code) (s : State) : Answer :=
  if s.mu.stale .precheck s.clock then .next s.dropCut
  else
    match s.mu.op, s.mu.phase, s.inHand with
    | .measurement, some .precheck, some e =>
      if precheckPasses s.setup.residualLimit codes (precheckMean s.mu.z codes) then
        .next (s.dropCut.beginConversion e.copy).finish
      else
        let ignore := s.setup.residualMode = .ignore
        let s := (s.raiseCondition .residual).dropCut
        .next (if ignore then s.beginConversion e.copy else s).finish
    | _, _, _ => .next s

/-- A dummy conversion ends: last class and range become the new ones and the stimulus is applied, or the calibration
counts (R112, R120, R122). One taken together with, and after, what stopped its dummy has no effect (R119, R121,
AL 54). -/
def execDummyEnd (s : State) : Answer :=
  if s.mu.stale .dummy s.clock then .next s.dropCut
  else
    match s.mu.op, s.mu.phase, s.inHand with
    | .measurement, some .dummy, some e => .next ((s.dropCut.updMu MeasUnit.remember).applyStimulus e.copy).finish
    | .pairCheck, some .dummy, _ => .next (s.dropCut.updMu MeasUnit.remember).applyCheck.finish
    | .calibration, some .dummy, _ => .next (s.dropCut.updMu fun u => { u with phase := some .count })
    | _, _, _ => .next s

/-- The settle delay ends (R113, R120). One taken together with, and after, what stopped its delay has no effect (R119,
R121, AL 54). -/
def execSettleEnd (s : State) : Answer :=
  if s.mu.stale .settle s.clock then .next s.dropCut
  else
    match s.mu.op, s.mu.phase, s.inHand with
    | .measurement, some .settle, some e => .next (s.dropCut.afterSettle e.copy.skip)
    | .pairCheck, some .settle, _ => .next (s.dropCut.afterSettle 0)
    | _, _, _ => .next s

/-- The skipped samples end and COUNT begins (R113). -/
def execSkipEnd (s : State) : Answer :=
  match s.mu.op, s.mu.phase with
  | .measurement, some .skip => .next (s.afterSettle 0)
  | _, _ => .next s

/-- The counted samples of a step's conversion end (R113, R128). -/
def execCountEnd (samples : List Sample) (s : State) : Answer :=
  match s.mu.op, s.mu.phase, s.inHand with
  | .measurement, some .count, some e => .next (s.reportSampled e samples).finish
  | _, _, _ => .next s

/-- A pair check passes: not clipped, and at or below the contact limit (R69). -/
def checkPasses (z : ZTable) (limit : Nat) (samples : List Sample) : Bool :=
  let q := takeSamples Config.pairSamples samples
  let v := checkValue (correctedSum (z.at_ Config.pairGain) (q.map (·.code)))
  !clippedSamples q && decide (v ≤ limit)

/-- The counted samples of a pair check end: the unit is free and the outcome binds both partners (R69, R120). -/
def execPairCheckCountEnd (samples : List Sample) (s : State) : Answer :=
  match s.mu.op, s.mu.phase, s.mu.pair with
  | .pairCheck, some .count, some p =>
    let passed := checkPasses s.mu.z s.setup.contactLimit samples
    .next ((s.releaseCheck p).bindCheck p passed).finish
  | _, _, _ => .next s

/-- The charge reaches the threshold (R114). -/
def execChargeThreshold (ticks : Ticks) (s : State) : Answer :=
  match s.mu.op, s.mu.phase, s.inHand with
  | .measurement, some .charge, some e => .next (s.reportCharge e .threshold ticks.toNat).finish
  | _, _, _ => .next s

/-- The charge timer reaches its limit (R114). -/
def execTimerLimit (s : State) : Answer :=
  match s.mu.op, s.mu.phase, s.inHand with
  | .measurement, some .charge, some e => .next (s.reportCharge e .timerLimit Config.timerLimit).finish
  | _, _, _ => .next s

/-- The source reports compliance before the threshold is reached (R114). -/
def execChargeCompliance (ticks : Ticks) (s : State) : Answer :=
  match s.mu.op, s.mu.phase, s.inHand with
  | .measurement, some .charge, some e => .next (s.reportCharge e .compliance ticks.toNat).finish
  | _, _, _ => .next s

/-- A discharge dwell ends: the unit releases the step, or goes on to a CAP repeat (R116, R117). The end of a dwell that a
RETRY has begun again, taken together with the RETRY and after it, has no effect (R153, AL 54). -/
def execDwellEnd (s : State) : Answer :=
  if s.mu.stale .dwell s.clock then .next s.dropCut
  else
    match s.mu.op, s.mu.phase, s.inHand with
    | .measurement, some .dwell, some e =>
      match s.mu.dwellNext with
      | .release => .next (s.dropCut.releaseStep e).finish
      | .repeatAt r => .next (s.dropCut.repeatCharge e r).finish
    | _, _, _ => .next s

/-- A Source Guard dwell ends: the measurement begins again at PRECHECK (R118). The end of a dwell that a RETRY has begun
again, taken together with the RETRY and after it, has no effect (R153, AL 54). -/
def execGuardDwellEnd (s : State) : Answer :=
  if s.mu.stale .guardDwell s.clock then .next s.dropCut
  else
    match s.mu.op, s.mu.phase, s.inHand with
    | .measurement, some .guardDwell, some e => .next ((s.dropCut.endDwell e).beginMeasurement e.copy).finish
    | _, _, _ => .next s

/-! ## Calibration (R122) -/

/-- The new offset of a gain, before its clamp (R122). -/
def rawOffset (codes : List Code) : Int :=
  divRound (correctedSum 0 (takeCodes Config.calSamples codes)) Config.calSamples

/-- The clamp of an offset (R122). -/
def clampOffset (v : Int) : Int := max (-2048) (min 2047 v)

/-- The Z table of five offsets. -/
def zOf (l : List Int) : ZTable := ⟨l.getD 0 0, l.getD 1 0, l.getD 2 0, l.getD 3 0, l.getD 4 0⟩

/-- The gain codes whose offset was clamped, in increasing order (R122). -/
def clampedGains : Nat → List Bool → List Nat
  | _, [] => []
  | g, b :: rest => if b then g :: clampedGains (g + 1) rest else clampedGains (g + 1) rest

/-- The Run Controller is told of a completed calibration: POWERUP_CAL ends in IDLE, CALIBRATING returns once no further
calibration is ordered (R123, R199, AL 26). -/
def State.calibrated (s : State) : State :=
  match s.run.state with
  | .powerupCal => s.setRun .idle
  | .calibrating => if s.mu.calOrder then s else s.goBack
  | .idle | .starting | .running | .draining | .stopped | .aborting | .halted => s

/-- A calibration completes (R122). -/
def State.calComplete (z : List Int) (clamped : List Bool) (s : State) : State :=
  let s := s.updMu fun u =>
    { u with op := .idle, phase := none, newZ := [], newClamped := [], z := zOf z, zAge := 0
             calRange := clamped.any id }
  let s := (clampedGains 0 clamped).foldl (fun s g => s.offerNote ⟨.calRange, none, g, 0, 0, 0⟩) s
  let s := s.raise .cal
  let s := if s.frame.state = .none then s else s.offerNote ⟨.calDone, none, 0, 0, 0, 0⟩
  s.calibrated

/-- The 1024-sample count of one gain ends: its offset is formed, and the next gain is taken or the calibration
completes (R122). -/
def execCalCountEnd (codes : List Code) (s : State) : Answer :=
  match s.mu.op, s.mu.phase with
  | .calibration, some .count =>
    let v := rawOffset codes
    let z := s.mu.newZ ++ [clampOffset v]
    let clamped := s.mu.newClamped ++ [clampOffset v != v]
    if s.mu.gain < 4 then
      .next (s.updMu fun u => { u with gain := u.gain + 1, phase := some .dummy, newZ := z, newClamped := clamped })
    else .next (s.calComplete z clamped).finish
  | _, _ => .next s

/-! ## Comparators (R147) -/

/-- A comparator's level. -/
def Pins.setComparator (p : Pins) (w : Comparator) (b : Bool) : Pins :=
  match w with
  | .sense => { p with sense := b }
  | .source => { p with source := b }

/-- A comparator is asserted: its timer starts if it is watched (R147). -/
def execComparatorAsserted (w : Comparator) (s : State) : Answer :=
  let was : Bool := match w with
    | .sense => s.pins.sense
    | .source => s.pins.source
  let watched : Bool := match w with
    | .sense => s.mu.watchesSense
    | .source => s.mu.watchesSource
  let s := s.updPins fun p => p.setComparator w true
  if watched ∧ ¬ was then
    match w with
    | .sense => .next (s.updGuard fun g => { g with senseTimer := some s.clock })
    | .source => .next (s.updGuard fun g => { g with sourceTimer := some s.clock })
  else .next s

/-- A comparator falls: its timer stops and its raised mark is cleared, with its cut mark (R147, AL 46). -/
def execComparatorFalls (w : Comparator) (s : State) : Answer :=
  let s := s.updPins fun p => p.setComparator w false
  match w with
  | .sense => .next (s.updGuard fun g => { g with senseTimer := none, senseRaised := false, senseCut := none })
  | .source => .next (s.updGuard fun g => { g with sourceTimer := none, sourceRaised := false, sourceCut := none })

/-- A deglitch time completes while its timer runs: OVERLOAD is raised (R147, R149). -/
def execDeglitchComplete (w : Comparator) (s : State) : Answer := .next (s.deglitched w).finish

end Sys2Proof.Machine
end

