-- ==== Sys2Proof/Machine/MemoryEvents.lean ====
section
/-! DEFINITION. The completions of the part's reads and writes of host memory, and the poll timer (R12, R168, R173, R177,
R178, R180, R183, R186, R193). A completion of a read or write that the part has not started finds nothing (AL 1). -/

namespace Sys2Proof.Machine

/-! ## START's reads (R193) -/

/-- The Station Block read completes: its values are held and the setup record is read (R173, R193). -/
def execStationBlockRead (bytes : List Byte) (s : State) : Answer :=
  if s.run.state = .starting ∧ s.run.stage = some .stationBlock then
    .next (s.updRun fun r => { r with held := some (parseStation bytes), stage := some .setupRecord })
  else .next s

/-- The setup record read completes: the tests, and then the new setup takes force and the carriages are set (R193,
R200). -/
def execSetupRecordRead (bytes : List Byte) (s : State) : Answer :=
  if s.run.state = .starting ∧ s.run.stage = some .setupRecord then
    let t := parseSetup bytes
    if t.valid then
      let s := s.updSetup fun _ => t
      .next (s.updRun fun r => { r with stage := some .answers, unset := allCarriages, answers := .all none }).finish
    else .next s.refuseSetup
  else .next s

/-! ## The Fetcher's reads (R176 to R180) -/

/-- A read of a kind is in progress, and whether an ABORT has voided it. -/
def Fetcher.awaiting (f : Fetcher) (k : ReadKind) : Option Bool :=
  match f.reading with
  | some r => if r.kind = k then some r.voided else none
  | none => none

/-- A read that an ABORT voided completes with no effect (R176, R197). -/
def State.dropRead (s : State) : State := s.updFetch fun f => { f with reading := none }

/-- A header read completes (R177). -/
def execHeaderRead (bytes : List Byte) (s : State) : Answer :=
  match s.fetch.awaiting .header with
  | none => .next s
  | some true => .next s.dropRead.finish
  | some false => .next (s.takeHeader bytes).finish

/-- A record read completes (R12, R178). -/
def execRecordRead (bytes : List Byte) (s : State) : Answer :=
  match s.fetch.awaiting .record with
  | none => .next s
  | some true => .next s.dropRead.finish
  | some false => .next (s.takeRecord bytes).finish

/-- A link read completes; the low 3 bits of a link are ignored (R175, R180, AL 34). -/
def execLinkRead (link : Word64) (s : State) : Answer :=
  match s.fetch.awaiting .link with
  | none => .next s
  | some true => .next s.dropRead.finish
  | some false =>
    let a := link &&& ~~~(7 : Word64)
    .next (if a ≠ 0 then s.takeLink a else s.linkZero).finish

/-- The poll timer expires: what each of the Fetcher and the Log Writer waits on is read again (R180, R183, R184). -/
def execPollExpiry (s : State) : Answer :=
  if s.fetch.pollOn then
    let link := s.run.state == .running && s.fetch.waiting && s.fetch.reading.isNone
    let drained := s.log.started && s.log.room == .roomWait
    let s := s.updFetch fun f =>
      { f with pollOn := false, reading := if link then some ⟨.link, false, true⟩ else f.reading }
    .next (s.updLog fun l => { l with reading := l.reading || drained })
  else .next s

/-! ## The Log Writer's reads and writes (R183 to R187) -/

/-- A read of the drained count completes; with a re-read owed it is read again (R183, R184). -/
def execDrainedRead (count : Word32) (s : State) : Answer :=
  if s.log.reading then
    let s := s.updLog fun l =>
      { l with drained := takeDrained l.published l.drained count, reading := l.reread, reread := false }
    .next s.roomAfterRead.finish
  else .next s

/-- An entry's bytes are in host memory: its effects, and then its publication (R186). -/
def execEntryWritten (s : State) : Answer :=
  match s.log.writing with
  | some ⟨k, bytes, .bytes⟩ =>
    let s := s.writeHost (s.log.base + BitVec.ofNat 64 (32 * s.log.widx)) bytes
    .next ((s.entryLanded k).updLog fun l => { l with writing := some ⟨k, bytes, .publish⟩ }).finish
  | some ⟨_, _, .publish⟩ | none => .next s

/-- A published count write completes (R186, R187). -/
def execPublication (s : State) : Answer :=
  match s.log.writing with
  | some ⟨k, _, .publish⟩ => .next (s.published k).finish
  | some ⟨_, _, .bytes⟩ | none => .next s

/-- The last byte of the net image is written (R165, R168). -/
def execNetImageWritten (s : State) : Answer :=
  if s.frame.imageBusy then
    let s := s.writeHost s.frame.imageAddr s.nets.image
    .next (s.updFrame fun f => { f with imageWritten := true, imageBusy := false }).finish
  else .next s

end Sys2Proof.Machine
end

