-- ==== Sys2Proof/Machine/Dispatch.lean ====
section
/-! DEFINITION. The dispatch of a command to its meaning, one arm per row of opcode_table.json. -/

namespace Sys2Proof.Machine

def exec (i : Instr) (s : State) : Host.Outcome State Fault Refusal :=
  match i with
  | .start => Sys2Proof.Machine.execStart s
  | .stop => Sys2Proof.Machine.execStop s
  | .abort => Sys2Proof.Machine.execAbort s
  | .clearFault => Sys2Proof.Machine.execClearFault s
  | .calibrate => Sys2Proof.Machine.execCalibrate s
  | .reset => Sys2Proof.Machine.execReset s
  | .commandUnknown code => Sys2Proof.Machine.execCommandUnknown code s
  | .wake value => Sys2Proof.Machine.execWake value s
  | .stationBaseWrite write => Sys2Proof.Machine.execStationBaseWrite write s
  | .intStatusWrite value => Sys2Proof.Machine.execIntStatusWrite value s
  | .intEnableWrite value => Sys2Proof.Machine.execIntEnableWrite value s
  | .powerOnReset => Sys2Proof.Machine.execPowerOnReset s
  | .arrived c p => Sys2Proof.Machine.execArrived c p s
  | .halted c p => Sys2Proof.Machine.execHalted c p s
  | .touched c depth => Sys2Proof.Machine.execTouched c depth s
  | .noTouch c => Sys2Proof.Machine.execNoTouch c s
  | .lifted c => Sys2Proof.Machine.execLifted c s
  | .position c p zUp => Sys2Proof.Machine.execPosition c p zUp s
  | .driveFault c code => Sys2Proof.Machine.execDriveFault c code s
  | .linkFrameDropped why => Sys2Proof.Machine.execLinkFrameDropped why s
  | .requestTimeout c => Sys2Proof.Machine.execRequestTimeout c s
  | .forceLineAsserted c => Sys2Proof.Machine.execForceLineAsserted c s
  | .forceLineDrops c => Sys2Proof.Machine.execForceLineDrops c s
  | .filterTimeComplete c => Sys2Proof.Machine.execFilterTimeComplete c s
  | .limitTime c => Sys2Proof.Machine.execLimitTime c s
  | .precheckEnd codes => Sys2Proof.Machine.execPrecheckEnd codes s
  | .dummyEnd => Sys2Proof.Machine.execDummyEnd s
  | .settleEnd => Sys2Proof.Machine.execSettleEnd s
  | .skipEnd => Sys2Proof.Machine.execSkipEnd s
  | .countEnd samples => Sys2Proof.Machine.execCountEnd samples s
  | .pairCheckCountEnd samples => Sys2Proof.Machine.execPairCheckCountEnd samples s
  | .chargeThreshold ticks => Sys2Proof.Machine.execChargeThreshold ticks s
  | .timerLimit => Sys2Proof.Machine.execTimerLimit s
  | .chargeCompliance ticks => Sys2Proof.Machine.execChargeCompliance ticks s
  | .dwellEnd => Sys2Proof.Machine.execDwellEnd s
  | .guardDwellEnd => Sys2Proof.Machine.execGuardDwellEnd s
  | .calCountEnd codes => Sys2Proof.Machine.execCalCountEnd codes s
  | .comparatorAsserted which => Sys2Proof.Machine.execComparatorAsserted which s
  | .comparatorFalls which => Sys2Proof.Machine.execComparatorFalls which s
  | .deglitchComplete which => Sys2Proof.Machine.execDeglitchComplete which s
  | .stationBlockRead bytes => Sys2Proof.Machine.execStationBlockRead bytes s
  | .setupRecordRead bytes => Sys2Proof.Machine.execSetupRecordRead bytes s
  | .headerRead bytes => Sys2Proof.Machine.execHeaderRead bytes s
  | .recordRead bytes => Sys2Proof.Machine.execRecordRead bytes s
  | .linkRead link => Sys2Proof.Machine.execLinkRead link s
  | .pollExpiry => Sys2Proof.Machine.execPollExpiry s
  | .drainedRead count => Sys2Proof.Machine.execDrainedRead count s
  | .entryWritten => Sys2Proof.Machine.execEntryWritten s
  | .publication => Sys2Proof.Machine.execPublication s
  | .netImageWritten => Sys2Proof.Machine.execNetImageWritten s

end Sys2Proof.Machine
end

