-- ==== Sys2Proof/Safety.lean ====
section
/-! DEFINITION. What counts as a safe state, in the terms the claims use: the canonical forms of the model's lists, the
laws of the Lane Claim Table, the bounds of the window, the queues and the held lists, and the room of the result
log. -/

namespace Sys2Proof.Machine

/-- The lists that stand for sparse tables are in canonical form: host memory as written (AL 6) and the net records
(R158). -/
structure State.Canonical (s : State) : Prop where
  memory : Memory.wf s.hostMem = true
  nets : keysRise s.nets.recs = true

/-- The laws of one side of the Lane Claim Table: 128 cells that name carriages of the side, each owning one contiguous
interval, intervals in index order (R24); and a pending list with at most one entry per carriage, whose interval contains
that carriage's claim (R25). -/
structure ClaimTable.Lawful (d : Side) (t : ClaimTable) : Prop where
  lanes : t.cells.length = Config.lanes
  side : ∀ (k : Nat) (c : Carriage), t.cells[k]? = some (some c) → sideOf c = d
  contiguous : ∀ (c : Carriage) (a b k : Nat), t.cells[a]? = some (some c) → t.cells[b]? = some (some c) → a ≤ k → k ≤ b →
    t.cells[k]? = some (some c)
  order : ∀ (x y : Carriage) (a b : Nat), t.cells[a]? = some (some x) → t.cells[b]? = some (some y) →
    driveNumber x < driveNumber y → a < b
  once : (t.pend.map (·.carriage)).Nodup
  covers : ∀ e ∈ t.pend, sideOf e.carriage = d ∧
    ∃ k, claimFrom e.carriage 0 t.cells = some k ∧ e.span.lo ≤ k.lo ∧ k.hi ≤ e.span.hi

/-- Both sides of the Lane Claim Table obey their laws (R24, R25), and so does the table that a START holds saved, which
ORDER_FAULT puts back (R36, R191). -/
structure State.ClaimLaws (s : State) : Prop where
  table : ∀ d, (s.table d).Lawful d
  saved : ∀ v, s.run.saved = some v → ∀ d, (v.claims.get d).Lawful d

/-- The measurement queue has its 3 places and holds no step twice (R107). -/
def MeasUnit.QueueFits (u : MeasUnit) : Prop := u.measQueue.length ≤ Config.measQueue ∧ u.measQueue.Nodup

/-- The retire list has its 32 places, one of them left for the segment whose header is being read (R177, R182). -/
def Fetcher.ListFits (f : Fetcher) : Prop :=
  f.retire.length ≤ Config.retireList ∧
    ∀ r, f.reading = some r → r.kind = .header → f.retire.length < Config.retireList

/-- The window, the queues, the retire list and the held lists stay within their places, the retries of a measurement
within their limit, and the saturating counts within their widths (R78, R85, R106, R107, R145, R182, R183, and R104 for
the Z age). -/
structure State.Bounded (s : State) : Prop where
  slots : (s.disp.window.map (·.slot)).Nodup
  places : ∀ e ∈ s.disp.window, e.slot < Config.windowSlots
  overtake : ∀ e ∈ s.disp.window, e.overtake ≤ Config.overtakeCap
  checks : s.mu.checkQueue.length ≤ Config.checkQueue
  measures : s.mu.QueueFits
  retries : s.guard.retries ≤ Config.guardRetries
  retire : s.fetch.ListFits
  zAge : s.mu.zAge ≤ 65535
  results : s.log.results.length ≤ Config.heldResults
  notes : s.log.notes.length ≤ Config.heldNotes
  dropped : s.log.dropped ≤ Config.droppedMax

/-- The result log never runs over: the entries written and not drained, with the one in progress, fit the capacity,
which is in its range, as is that of Station Block values held for the end of STARTING; and while a frame is open one
place is left for its FRAME_END, an entry of another kind in progress leaving it too (R173, R183, R184). -/
structure State.LogFits (s : State) : Prop where
  capacity : 64 ≤ s.log.capacity ∧ s.log.capacity ≤ 1048576
  held : ∀ v, s.run.held = some v → 64 ≤ v.capacity ∧ v.capacity ≤ 1048576
  index : s.log.widx < s.log.capacity
  room : (s.log.published - s.log.drained).toNat ≤ s.log.capacity
  writing : s.log.writing.isSome = true → (s.log.published - s.log.drained).toNat + 1 ≤ s.log.capacity
  open_ : s.frame.state ≠ .none → (s.log.published - s.log.drained).toNat + 1 ≤ s.log.capacity
  leaves : ∀ w, s.log.writing = some w → w.kind ≠ .frameEnd →
    (s.log.published - s.log.drained).toNat + 2 ≤ s.log.capacity
  closes : ∀ w, s.log.writing = some w → w.kind = .frameEnd → w.stage = .publish → s.frame.state = .none

/-- Host memory after a change of controller state that leads from `s` to `u`: the mirror, once a START has been
accepted, holds STATE as it stands just after the change; nothing else changes (R174). -/
def State.mirrored (s u : State) : List Host.Cell :=
  if s.run.mirror then putBytes (s.station + 0x30) (leBytes 4 u.stateReg.toNat) s.hostMem else s.hostMem

end Sys2Proof.Machine
end

