-- ==== Sys2Proof/Certificates/Slice0/Obligations.lean ====
section
/-! DEFINITION. The statements for the provers. Where a command's answer is written `.next u.finish`, `u` is the state
after the command's own effect and `finish` what every event sets off inside the part: the Dispatcher, the arbiter, the
Run Controller, the Log Writer and the Chain Fetcher (AL 24). -/

open Sys2Proof Sys2Proof.Machine

/-! ## The machine -/

/-- A step takes the command at the front of the queue and answers its meaning on the queue's rest; on an empty queue the
block idles for one microsecond, which is the model's choice (AL 2). -/
def Obligations.StepRunsFrontCommand : Prop :=
  (∀ (c : Instr) (rest : List Instr) (s : State), s.pending = c :: rest → step s = exec c { s with pending := rest }) ∧
  ∀ s : State, s.pending = [] → step s = .next { s with clock := s.clock + 1 }

/-- Every command answers a next state, with the queue and the clock as they were (AL 1, AL 2). -/
def Obligations.EveryCommandAnswers : Prop :=
  ∀ (i : Instr) (s : State), ∃ t, exec i s = .next t ∧ t.pending = s.pending ∧ t.clock = s.clock

/-! ## Invariants -/

/-- The invariants hold right after power-on reset. -/
def Obligations.InvariantsAtReset : Prop :=
  State.reset.Canonical ∧ State.reset.ClaimLaws ∧ State.reset.Bounded ∧ State.reset.LogFits

/-- Every step keeps the canonical forms of host memory and of the net records. -/
def Obligations.CanonicalKept : Prop :=
  ∀ s t : State, s.Canonical → step s = .next t → t.Canonical

/-- Every step keeps the form of the Lane Claim Table: the lanes a carriage owns are contiguous and stand in index order on
its side, and a pending list has at most one entry per carriage, whose interval contains that carriage's claim (R24, R25).
The table that a START holds saved has this form too. R24's second law, which names the carriages that own lanes, is no part
of this. -/
def Obligations.ClaimLawsKept : Prop :=
  ∀ s t : State, s.ClaimLaws → step s = .next t → t.ClaimLaws

/-- Every step keeps the window, both queues of the unit, the retire list and the held lists within their places, no step
twice in the measurement queue, and the retries of a measurement within their limit (R78, R85, R106, R107, R145, R182,
R183). -/
def Obligations.BoundsKept : Prop :=
  ∀ s t : State, s.Bounded → step s = .next t → t.Bounded

/-- Every step keeps the result log within its capacity, and within one less while a frame is open, so that its FRAME_END has
a place (R173, R183, R184). -/
def Obligations.LogFitsKept : Prop :=
  ∀ s t : State, s.LogFits → step s = .next t → t.LogFits

/-! ## What only some commands change -/

/-- A lane leaves the carriage that owns it by nothing but that carriage's own ARRIVED or HALTED in TRAVEL, a reset, or
START's claim build or ORDER_FAULT, where the table obeys its laws. So the lanes of a carriage in FAULT stay frozen (R28,
R32, R35, R39). -/
def Obligations.LanesLeaveOnlyByReport : Prop :=
  ∀ (i : Instr) (s t : State) (d : Side) (k : Nat) (x : Carriage), s.ClaimLaws → exec i s = .next t →
    (s.table d).cells[k]? = some (some x) →
    (t.table d).cells[k]? = some (some x) ∨ i = .reset ∨ i = .powerOnReset ∨ s.run.stage = some .answers ∨
      (∃ b, i = .setupRecordRead b) ∨ ((s.carr x).state = .travel ∧ ∃ p, i = .arrived x p ∨ i = .halted x p)

/-- The setup in force changes by nothing but a setup record taken in STARTING, the answers that end in a claim build
or in ORDER_FAULT, and power-on reset (R193, R194, R199). -/
def Obligations.SetupChangesOnlyByStart : Prop :=
  ∀ (i : Instr) (s t : State), exec i s = .next t →
    t.setup = s.setup ∨ i = .powerOnReset ∨ s.run.stage = some .answers ∨
      ((∃ b, i = .setupRecordRead b) ∧ s.run.state = .starting ∧ s.run.stage = some .setupRecord)

/-- The auto-zero table and cal_range change by nothing but the count that completes a calibration, and power-on reset
(R122, R124, R126). -/
def Obligations.OffsetsChangeOnlyByCalibration : Prop :=
  ∀ (i : Instr) (s t : State), exec i s = .next t →
    (t.mu.z = s.mu.z ∧ t.mu.calRange = s.mu.calRange) ∨ i = .powerOnReset ∨
      ((∃ l, i = .calCountEnd l) ∧ s.mu.op = .calibration ∧ s.mu.phase = some .count ∧ 4 ≤ s.mu.gain)

/-- STATION_BASE and INT_ENABLE change by nothing but their writes, STATION_BASE in IDLE alone, and the resets; an
INT_STATUS bit is cleared by nothing but a write of that bit as 1 and the resets (R189, R190). -/
def Obligations.RegistersChangeOnlyByWrites : Prop :=
  ∀ (i : Instr) (s t : State), exec i s = .next t →
    (t.regs.stationBase = s.regs.stationBase ∨ i = .powerOnReset ∨
      ((∃ w, i = .stationBaseWrite w) ∧ s.run.state = .idle)) ∧
    (t.regs.intEnable = s.regs.intEnable ∨ i = .powerOnReset ∨ i = .reset ∨ ∃ v, i = .intEnableWrite v) ∧
    ∀ b : Nat, s.regs.intStatus.getLsbD b = true →
      t.regs.intStatus.getLsbD b = true ∨ i = .powerOnReset ∨ i = .reset ∨
        ∃ v : Word32, i = .intStatusWrite v ∧ v.getLsbD b = true

/-- The part writes host memory nowhere but in its four fields of the Station Block (R173), in the log entry in progress
when its write completes or a reset stops it, and in the net image when its write completes or ABORT or a reset stops it.
How much of a stopped write has landed is a free value (AL 7). -/
def Obligations.HostMemoryFrame : Prop :=
  ∀ (i : Instr) (s t : State) (a : Nat), exec i s = .next t →
    (∀ o ∈ [0x24, 0x28, 0x2C, 0x30], ∀ j < 4, a ≠ (s.station + BitVec.ofNat 64 (o + j)).toNat) →
    (i ∈ [.entryWritten, .reset, .powerOnReset] → ∀ k b, s.log.writing = some ⟨k, b, .bytes⟩ → ∀ j < b.length,
      a ≠ (s.log.base + BitVec.ofNat 64 (32 * s.log.widx + j)).toNat) →
    (i ∈ [.netImageWritten, .abort, .reset, .powerOnReset] → s.frame.imageBusy = true → ∀ j < s.nets.inUse,
      a ≠ (s.frame.imageAddr + BitVec.ofNat 64 j).toNat) →
    t.hostByte a = s.hostByte a

/-! ## Resets -/

/-- The two resets complete in every state. Power-on reset puts every block at the value the spec gives it; the operation in
hand is the power-on calibration (AL 8); the queue, the clock, the pins and what has left the part stay (AL 37). RESET sends
HALT to every drive whose carriage has a request outstanding, in drive-number order, which is the model's choice (AL 55), and
leaves the pins (AL 9); every block takes its reset value, with STATION_BASE, the
setup in force, the Z table, its age and cal_range kept, no calibration ordered, and the controller in IDLE; that the log and
poll values stay is AL 10, as are start values of the log and of the chain not named here. Host memory stays but for a write
in progress, which stops: of an entry or a net image a free number of bytes has landed, and a published count has landed
whole or not at all (AL 7). -/
def Obligations.Resets : Prop :=
  (∀ s : State, exec .powerOnReset s = .next
    { State.reset with
      pending := s.pending, clock := s.clock, pins := s.pins, linkOut := s.linkOut
      free := s.stopWrites.free, hostMem := s.stopWrites.hostMem }) ∧
  (∀ s : State, exec .reset s = .next
    { State.reset with
      pending := s.pending, clock := s.clock, pins := s.pins
      free := s.stopWrites.free, hostMem := s.stopWrites.hostMem
      setup := s.setup
      linkOut := s.linkOut ++ (allCarriages.filter fun c => (s.carr c).request.isSome).map fun c => (c, .halt)
      regs := { State.reset.regs with stationBase := s.regs.stationBase }
      run := { State.reset.run with state := .idle }
      mu := { State.reset.mu with
              op := .idle, phase := none, z := s.mu.z, zAge := s.mu.zAge, calRange := s.mu.calRange }
      log := { State.reset.log with base := s.log.base, capacity := s.log.capacity, notify := s.log.notify }
      fetch := { State.reset.fetch with pollMs := s.fetch.pollMs } }) ∧
  (∀ s : State, s.frame.imageBusy = false → s.log.writing = none → s.stopWrites = s) ∧
  (∀ s : State, s.frame.imageBusy = true → s.log.writing = none → ∃ n ≤ s.nets.inUse, s.stopWrites =
    { s with free := s.free + 1, hostMem := putBytes s.frame.imageAddr (s.nets.image.take n) s.hostMem }) ∧
  (∀ (s : State) (k : EntryKind) (b : List Byte), s.frame.imageBusy = false → s.log.writing = some ⟨k, b, .bytes⟩ →
    ∃ n ≤ b.length, s.stopWrites = { s with
      free := s.free + 1
      hostMem := putBytes (s.log.base + BitVec.ofNat 64 (32 * s.log.widx)) (b.take n) s.hostMem }) ∧
  (∀ (s : State) (k : EntryKind) (b : List Byte), s.frame.imageBusy = false → s.log.writing = some ⟨k, b, .publish⟩ →
    ∃ whole : Bool, s.stopWrites = { s with
      free := s.free + 1
      hostMem := if whole then putBytes (s.station + 0x24) (leBytes 4 (s.log.published + 1).toNat) s.hostMem
        else s.hostMem }) ∧
  (∀ (s : State) (a : Nat),
    (s.frame.imageBusy = true → ∀ j < s.nets.inUse, a ≠ (s.frame.imageAddr + BitVec.ofNat 64 j).toNat) →
    (∀ k b, s.log.writing = some ⟨k, b, .bytes⟩ → ∀ j < b.length,
      a ≠ (s.log.base + BitVec.ofNat 64 (32 * s.log.widx + j)).toNat) →
    (∀ k b, s.log.writing = some ⟨k, b, .publish⟩ → ∀ j < 4, a ≠ (s.station + BitVec.ofNat 64 (0x24 + j)).toNat) →
    s.stopWrites.hostByte a = s.hostByte a) ∧
  let s := State.reset
  (s.run.state = .powerupCal ∧ s.run.last = .none ∧ s.run.pendingCal = false ∧ s.run.setupInvalid = false ∧
    s.run.orderFault = false ∧ s.run.chainBreak = false ∧ s.run.saved = none ∧ s.run.mirror = false) ∧
  (s.regs.stationBase = 0 ∧ s.regs.intStatus = 0 ∧ s.regs.intEnable = 0 ∧ s.interruptLine = false) ∧
  s.setup = parseSetup (List.replicate 256 0) ∧
  (∀ d k, k < 128 → (s.table d).cells[k]? = some none) ∧ (∀ d, (s.table d).pend = []) ∧
  (∀ c, s.carr c = ⟨.off, none, none, none, false, none, none, false, none, none, none, 0, none, .isolated⟩) ∧
  (∀ c, s.landing c = none) ∧ s.qual.owed = [] ∧ s.disp.window = [] ∧
  (s.mu.op = .calibration ∧ s.mu.phase = some .dummy ∧ s.mu.z = ⟨0, 0, 0, 0, 0⟩ ∧ s.mu.zAge = 65535 ∧
    s.mu.calRange = false ∧ s.mu.cls = .opened ∧ s.mu.source = .off ∧ s.mu.checkQueue = [] ∧ s.mu.measQueue = [] ∧
    s.mu.lastClass = none ∧ s.mu.lastRange = none) ∧
  (s.guard.residual = false ∧ s.guard.senseOver = false ∧ s.guard.sourceOver = false ∧ s.guard.retries = 0) ∧
  (∀ n, s.nets.get n = ⟨.untested, 0, none⟩) ∧ s.frame.state = .none ∧
  (s.log.published = 0 ∧ s.log.widx = 0 ∧ s.log.drained = 0 ∧ s.log.notified = 0 ∧ s.log.room = .ready ∧
    s.log.results = [] ∧ s.log.notes = [] ∧ s.log.dropped = 0) ∧
  (s.fetch.pos = none ∧ s.fetch.retire = [] ∧ s.fetch.retiredSeq = 0 ∧ s.chainState = .stopped)

/-! ## The host's commands -/

/-- A command that the present state does not accept, and a code that is no command, set the last command result to
IGNORED and change nothing else: the "ignored" places of R192's table. -/
def Obligations.CommandsIgnored : Prop :=
  ∀ s : State,
    let r : Host.Outcome State Fault Refusal := .next { s with run := { s.run with last := .ignored } }
    (s.run.state ∉ [.idle, .stopped] → exec .start s = r) ∧
    (s.run.state ≠ .running → exec .stop s = r) ∧
    (s.run.state ∉ [.running, .draining, .stopped, .halted] → exec .abort s = r) ∧
    (s.run.state ≠ .halted → exec .clearFault s = r) ∧
    (s.run.state ∈ [.powerupCal, .calibrating, .starting, .aborting] → exec .calibrate s = r) ∧
    ∀ code, exec (.commandUnknown code) s = r

/-- START in IDLE or STOPPED: the controller enters STARTING with its origin and return state, setup, carriages and claims
saved, the marks of an earlier refusal cleared, and the mirror written; the Station Block is read next. That a link wait ends
with this change of controller state is AL 25. -/
def Obligations.StartAccepted : Prop :=
  ∀ (s : State) (o : Origin) (ret : ReturnState),
    (s.run.state = .idle ∧ o = .fromIdle ∧ ret = .idle) ∨
      (s.run.state = .stopped ∧ o = .fromStopped ∧ ret = .stopped) →
    ∃ t, exec .start s = .next t ∧
      t = { s with
            run := { s.run with
                     state := .starting, ret := some ret, last := .accepted, setupInvalid := false
                     orderFault := false, origin := some o, saved := some ⟨s.setup, s.carriages, s.claims⟩
                     mirror := true, stage := some .stationBlock, held := none, unset := [], answers := .all none
                     homeIssued := .both false }
            fetch := { s.fetch with broken := false, waiting := false }
            log := { s.log with started := s.log.started || o == .fromIdle }
            hostMem := putBytes (s.station + 0x30) (leBytes 4 t.stateReg.toNat) s.hostMem }

/-- STOP in RUNNING: the controller enters DRAINING and both sides are owed a park. What every answer `u.finish` goes
through, in the model's order (AL 24); and of it the parks and the ends of a drain and of an abort. A side's park is issued
once its carriages in service are IDLE and no park of a frame is owed on it (AL 28), and is over when none of its carriages
travels. A drain with the window not quiet does nothing yet; with it quiet it tries the park of the top side and of the
bottom side, and, with both over then and no fetch read in progress, ends in STOPPED with its cause in the same answer. An
abort tries the parks whatever the window holds, and with both over, no fetch read in progress and no entry due or in
progress ends in IDLE. A pending CALIBRATE then has its order set, and CALIBRATING is entered from that state. With any of
this wanting, a side's park among it, the controller state stays and the parks tried are all that has happened. That the top
side's go first is the model's choice (AL 55). A park, and a HOME batch too, orders the side's IDLE carriages, each to its
park position, right-movers from the highest index down, then left-movers from the lowest index up; that those in their own
lane come last, lowest index first, is the model's choice (AL 55). The park of a BOARD_END: a FRAME_END written with park on
close set, in RUNNING or DRAINING and not by ABORT, owes it to both sides and holds the Fetcher for it; without, its hold
ends there. It is issued as the park of STOP is, is over when no carriage of the side travels, and with both sides over the
hold ends, after which the Fetcher goes to the next header. -/
def Obligations.StopDrains : Prop :=
  (∀ s : State, s.run.state = .running → ∃ u : State, exec .stop s = .next u.finish ∧
    u = { s with
          run := { s.run with state := .draining, last := .accepted, runPark := .both .due }
          fetch := { s.fetch with waiting := false }
          hostMem := s.mirrored u }) ∧
  (∀ s : State, s.finish =
    s.dispatcherStage.arbiter.runLevel.dispatcherStage.arbiter.logKick.fetchKick.tidyPoll) ∧
  (∀ (s : State) (d : Side),
    let due : Prop := s.run.runPark.get d = .due ∧ s.run.framePark.get d = .none ∧
      ∀ c, sideOf c = d → (s.carr c).inService = true → (s.carr c).state = .idle
    (¬ due → s.runPark d = s) ∧
    (due → s.runPark d =
      State.batch d .park { s with run := { s.run with runPark := s.run.runPark.set d .issued } })) ∧
  (∀ s : State, let u := s.startLevel
    s.runLevel = ((u.framePark .top).framePark .bottom).endFrameHold.drainLevel.abortLevel) ∧
  (∀ (s : State) (bytes : List Byte), s.log.writing = some ⟨.frameEnd, bytes, .bytes⟩ →
    let parks : Prop := s.frame.parkOnClose = true ∧ s.frame.abortDiscards = none ∧ s.run.state ∈ [.running, .draining]
    ∃ u : State, exec .entryWritten s = .next u.finish ∧
      u.run.framePark = (if parks then .both .due else s.run.framePark) ∧
      (s.fetch.hold = some .frameEnd → u.fetch.hold = if parks then some .park else none) ∧
      (s.fetch.hold ≠ some .frameEnd → u.fetch.hold = s.fetch.hold) ∧ u.fetch.pos = s.fetch.pos) ∧
  (∀ (s : State) (d : Side),
    let idle : Prop := ∀ c, sideOf c = d → (s.carr c).inService = true → (s.carr c).state = .idle
    let still (s : State) : Prop := ∀ c, sideOf c = d → (s.carr c).state ≠ .travel
    let done (s : State) : State := { s with run := { s.run with framePark := s.run.framePark.set d .none } }
    (s.run.framePark.get d = .none ∨ (s.run.framePark.get d = .due ∧ ¬ idle) ∨
      (s.run.framePark.get d = .issued ∧ ¬ still s) → s.framePark d = s) ∧
    (s.run.framePark.get d = .issued → still s → s.framePark d = done s) ∧
    (s.run.framePark.get d = .due → idle →
      let u := State.batch d .park { s with run := { s.run with framePark := s.run.framePark.set d .issued } }
      (still u → s.framePark d = done u) ∧ (¬ still u → s.framePark d = u))) ∧
  (∀ s : State,
    (s.fetch.hold = some .park → s.run.framePark = .both .none →
      s.endFrameHold = { s with fetch := { s.fetch with hold := none } }) ∧
    (s.fetch.hold ≠ some .park ∨ s.run.framePark ≠ .both .none → s.endFrameHold = s)) ∧
  (∀ (s : State) (p : FetchPos) (a : Word64), s.fetch.pos = some p → p.phase = .hold → s.fetch.next = some a →
    (s.fetch.hold ≠ none → s.leaveHold = s) ∧
    (s.fetch.hold = none → s.leaveHold = { s with fetch := { s.fetch with
      pos := some ⟨a, 0, .steps, 0, .header⟩, next := none } })) ∧
  (∀ s : State,
    let parks := (s.runPark .top).runPark .bottom
    let finished : Prop := parks.run.runPark = .both .issued ∧ (∀ c, (parks.carr c).state ≠ .travel) ∧ s.fetch.reading = none
    let quiet : Prop := ∀ e ∈ s.disp.window, e.state = .waiting ∨ e.state = .held ∨ e.state = .done
    let logged : Prop := s.log.writing = none ∧ s.frame.abortDiscards = none
    let calibrate : Prop := s.run.pendingCal = true
    (s.run.state ≠ .draining ∨ ¬ quiet → s.drainLevel = s) ∧
    (s.run.state = .draining → quiet → ¬ finished → s.drainLevel = parks) ∧
    (s.run.state = .draining → quiet → finished →
      let u := s.drainLevel
      u.run.state = (if calibrate then .calibrating else .stopped) ∧
      u.mu = { s.mu with calOrder := s.mu.calOrder || s.run.pendingCal } ∧
      (calibrate → u.run.ret = some .stopped ∧ u.run.pendingCal = false) ∧
      u.regs = { s.regs with intStatus := s.regs.intStatus ||| 16 } ∧ u.run.runPark = .both .none ∧
      u.linkOut = parks.linkOut ∧ u.carriages = parks.carriages ∧ u.claims = parks.claims ∧ u.disp = parks.disp ∧
      u.setup = s.setup ∧ u.log = s.log) ∧
    (s.run.state ≠ .aborting → s.abortLevel = s) ∧
    (s.run.state = .aborting → ¬ (finished ∧ logged) → s.abortLevel = parks) ∧
    (s.run.state = .aborting → finished → logged →
      let u := s.abortLevel
      u.run.state = (if calibrate then .calibrating else .idle) ∧
      u.mu = { s.mu with calOrder := s.mu.calOrder || s.run.pendingCal } ∧
      (calibrate → u.run.ret = some .idle ∧ u.run.pendingCal = false) ∧
      u.run.runPark = .both .none ∧ u.regs = s.regs ∧ u.linkOut = parks.linkOut ∧ u.carriages = parks.carriages ∧
      u.claims = parks.claims ∧ u.disp = parks.disp ∧ u.setup = s.setup ∧ u.log = s.log)) ∧
  (∀ s : State,
    let parks := (s.runPark .top).runPark .bottom
    let parking : Prop := parks.run.runPark ≠ .both .issued ∨ ∃ c, (parks.carr c).state = .travel
    ((s.run.state ≠ .draining ∨ (∃ e ∈ s.disp.window, e.state ∉ [.waiting, .held, .done]) ∨ s.fetch.reading ≠ none ∨
      parking) → s.drainLevel.run.state = s.run.state) ∧
    ((s.run.state ≠ .aborting ∨ s.log.writing ≠ none ∨ s.frame.abortDiscards ≠ none ∨ s.fetch.reading ≠ none ∨
      parking) → s.abortLevel.run.state = s.run.state)) ∧
  ∀ (s : State) (d : Side) (purpose : Purpose),
    let target (c : Carriage) : Pos := ⟨(s.cset c).parkX, (s.cset c).parkY⟩
    let lane (c : Carriage) : Nat := s.setup.laneFor c (s.cset c).parkX
    ∃ order : List Carriage, order.Nodup ∧ (∀ c, c ∈ order ↔ sideOf c = d ∧ (s.carr c).state = .idle) ∧
      (order.Pairwise fun x y =>
        (s.laneNow x < lane x → lane y ≤ s.laneNow y ∨ driveNumber y < driveNumber x) ∧
        (lane x < s.laneNow x → lane y ≤ s.laneNow y ∧ (lane y < s.laneNow y → driveNumber x < driveNumber y)) ∧
        (lane x = s.laneNow x → lane y = s.laneNow y ∧ driveNumber x < driveNumber y)) ∧
      s.batch d purpose = order.foldl (fun u c => u.orderTravel c purpose none (target c)) s

/-- CALIBRATE in IDLE or STOPPED sets the calibration order and enters CALIBRATING with the state to return to; in
RUNNING, DRAINING or HALTED it is held pending. That a link wait ends with the change of controller state is AL 25. -/
def Obligations.CalibrateOrders : Prop :=
  (∀ (s : State) (ret : ReturnState), (s.run.state = .idle ∧ ret = .idle) ∨ (s.run.state = .stopped ∧ ret = .stopped) →
    ∃ u : State, exec .calibrate s = .next u.finish ∧
      u = { s with
            run := { s.run with state := .calibrating, last := .accepted, ret := some ret }
            mu := { s.mu with calOrder := true }
            fetch := { s.fetch with waiting := false }
            hostMem := s.mirrored u }) ∧
  ∀ s : State, s.run.state ∈ [.running, .draining, .halted] →
    exec .calibrate s = .next { s with run := { s.run with last := .accepted, pendingCal := true } }

/-- CLEAR_FAULT in HALTED: the fault flags and raised marks go, every tip takes the connection of its carriage's state,
and STOPPED is raised. The controller is STOPPED, or with a CALIBRATE pending CALIBRATING from there, its order set. That a
link wait ends with the change of controller state is AL 25. -/
def Obligations.ClearFaultStops : Prop :=
  ∀ s : State, s.run.state = .halted → ∃ u : State, exec .clearFault s = .next u.finish ∧
    u = { s with
          run := if s.run.pendingCal then
              { s.run with state := .calibrating, last := .accepted, ret := some .stopped, pendingCal := false }
            else { s.run with state := .stopped, last := .accepted }
          mu := { s.mu with calOrder := s.mu.calOrder || s.run.pendingCal }
          guard := { s.guard with
                     residual := false, senseOver := false, sourceOver := false, senseRaised := false
                     sourceRaised := false }
          regs := { s.regs with intStatus := s.regs.intStatus ||| 16 }
          carriages := u.carriages
          fetch := { s.fetch with waiting := false }
          hostMem := u.hostMem } ∧
    (∀ c, u.carr c = { s.carr c with tip := tipFor (s.carr c).state }) ∧
    ∀ j < 4, s.run.mirror = true →
      u.hostByte (s.station + 0x30 + BitVec.ofNat 64 j).toNat = some (u.stateReg.extractLsb' (8 * j) 8)

/-- ABORT in RUNNING, DRAINING, STOPPED or HALTED: the queues, the landing records, the claim lists, the held outcomes
and the chain's position go, the window keeps what is DONE or being written and nothing else (AL 17), no Evaluator record
is left, a frame that is open, closes or is being opened owes its ABORTED FRAME_END with the number of steps discarded,
no lane changes owner, and each carriage halts, lifts, comes to rest or goes on as R57 says; both sides are owed a park. -/
def Obligations.AbortEndsWork : Prop :=
  ∀ s : State, s.run.state ∈ [.running, .draining, .stopped, .halted] → ∃ u : State, exec .abort s = .next u.finish ∧
    (u.run.state = .aborting ∧ u.run.last = .accepted ∧ u.run.runPark = .both .due ∧
      u.run.framePark = .both .none ∧ u.run.pendingCal = s.run.pendingCal) ∧
    (∀ e ∈ u.disp.window, ∃ f ∈ s.disp.window, f.slot = e.slot ∧ (f.state = .done ∨ ∃ b w,
      s.log.writing = some ⟨.result e.slot, b, w⟩)) ∧
    (∀ f ∈ s.disp.window, (f.state = .done ∨ ∃ b w, s.log.writing = some ⟨.result f.slot, b, w⟩) →
      (s.mu.op = .measurement → s.mu.step ≠ some f.slot) →
      ∃ e ∈ u.disp.window, e.slot = f.slot ∧ e.copy = f.copy ∧ e.state = f.state ∧ e.outcome = f.outcome) ∧
    (∀ e ∈ u.disp.window, e.eval = none) ∧
    (let discarded : Nat := (s.disp.window.countP fun e =>
        !(e.state == .done || s.log.writing.any fun w => w.kind == .result e.slot));
      ((∃ b c w, s.log.writing = some ⟨.frameStart b, c, w⟩) → u.frame.abortDiscards = some discarded) ∧
      (s.frame.state ≠ .none → (∀ b, s.log.writing ≠ some ⟨.frameEnd, b, .bytes⟩) →
        u.frame.abortDiscards = some discarded ∧ u.frameEndDue = true) ∧
      u.frame = { s.frame with imageBusy := false, abortDiscards := u.frame.abortDiscards }) ∧
    (u.mu.checkQueue = [] ∧ u.mu.measQueue = [] ∧ u.qual.owed = [] ∧ ∀ c, u.landing c = none) ∧
    u.mu.op = (if s.mu.op = .measurement ∨ (s.mu.op = .pairCheck ∧ s.mu.pair.isSome) then .idle else s.mu.op) ∧
    (∀ d, (u.table d).pend = [] ∧ (u.table d).cells = (s.table d).cells) ∧
    (u.log.results = [] ∧ u.log.due = none ∧ u.log.notes = s.log.notes ∧ u.log.published = s.log.published) ∧
    (u.fetch.pos = none ∧ u.fetch.retire = [] ∧ u.fetch.retiredSeq = s.fetch.retiredSeq) ∧
    u.setup = s.setup ∧ u.pins = s.pins ∧ u.nets = s.nets ∧ u.regs = s.regs ∧
    ∀ c, match (s.carr c).state with
      | .off | .homing | .idle | .fault => (u.carr c).state = (s.carr c).state
      | .travel => match (s.carr c).phase with
        | some .moving => (u.carr c).state = .travel ∧ (u.carr c).phase = some .halting ∧
            (u.carr c).request = some ⟨.halt, true⟩ ∧ (u.carr c).timer = some s.setup.moveMs
        | some .halting => (u.carr c).state = .travel ∧ (u.carr c).phase = some .halting
        | some .claimWait | none => (u.carr c).state = .idle ∧ (u.carr c).service = none
      | .descend => (u.carr c).state = .descend ∧ (u.carr c).ended = true
      | .check | .ready | .engaged => (u.carr c).state = .lift ∧ (u.carr c).followOn = some .free ∧
          (u.carr c).request = some ⟨.lift, false⟩ ∧ (u.carr c).timer = some s.setup.liftMs
      | .lift => (u.carr c).state = .lift ∧ (u.carr c).followOn = some .free

/-! ## Registers -/

/-- The register writes: WAKE has the link and the drained count read again as R180 and R183 say (that the mark is set too where
RUNNING was left in CHAIN_WAIT is AL 60), STATION_BASE is taken
in IDLE alone, its low six bits kept as written (AL 11), INT_STATUS clears each bit written as 1, INT_ENABLE takes its six
bits. And the command that each write of the register window is: a COMMAND write by its bits 7:0. -/
def Obligations.RegisterWrites : Prop :=
  (∀ (v : Word32) (s : State), ∃ t, exec (.wake v) s = .next t ∧
    t = { s with fetch := t.fetch, log := t.log } ∧
    (∀ g, s.fetch.reading = some ⟨.link, false, g⟩ → t.fetch = { s.fetch with reread := true }) ∧
    (s.fetch.reading = none → s.run.state = .running → s.fetch.waiting = true →
      t.fetch = { s.fetch with reading := some ⟨.link, false, true⟩ }) ∧
    (s.fetch.reading = none → (s.run.state ≠ .running ∨ s.fetch.waiting = false) → t.fetch = s.fetch) ∧
    (s.log.started = false → t.log = s.log) ∧
    (s.log.started = true → s.log.reading = false → t.log = { s.log with reading := true }) ∧
    (s.log.started = true → s.log.reading = true → t.log = { s.log with reread := true })) ∧
  (∀ (w : StationWrite) (s : State), s.run.state ≠ .idle → exec (.stationBaseWrite w) s = .next s) ∧
  (∀ (v : Word32) (s : State), s.run.state = .idle →
    exec (.stationBaseWrite (.low v)) s =
      .next { s with regs := { s.regs with stationBase := s.regs.stationBase.extractLsb' 32 32 ++ v } } ∧
    exec (.stationBaseWrite (.high v)) s =
      .next { s with regs := { s.regs with stationBase := v ++ s.regs.stationBase.extractLsb' 0 32 } }) ∧
  (∀ (v : Word64) (s : State), s.run.state = .idle →
    exec (.stationBaseWrite (.whole v)) s = .next { s with regs := { s.regs with stationBase := v } }) ∧
  (∀ (v : Word32) (s : State), exec (.intStatusWrite v) s =
    .next { s with regs := { s.regs with intStatus := s.regs.intStatus &&& ~~~(v.extractLsb' 0 6) } }) ∧
  (∀ (v : Word32) (s : State), exec (.intEnableWrite v) s =
    .next { s with regs := { s.regs with intEnable := v.extractLsb' 0 6 } }) ∧
  (∀ v : Word32, (∀ k : Byte, v.extractLsb' 0 8 = k → registerWrite 0x08 v = some (match k.toNat with
      | 1 => .start
      | 2 => .stop
      | 3 => .abort
      | 4 => .clearFault
      | 5 => .calibrate
      | 6 => .reset
      | _ => .commandUnknown k)) ∧
    registerWrite 0x00 v = some (.stationBaseWrite (.low v)) ∧ registerWrite 0x04 v = some (.stationBaseWrite (.high v)) ∧
    registerWrite 0x0C v = some (.wake v) ∧ registerWrite 0x10 v = none ∧
    registerWrite 0x14 v = some (.intStatusWrite v) ∧ registerWrite 0x18 v = some (.intEnableWrite v)) ∧
  ∀ v : Word64, registerWriteWide 0x00 v = some (.stationBaseWrite (.whole v)) ∧
    ∀ o, o ≠ 0x00 → registerWriteWide o v = none

/-- A four-byte read at an offset of the register window returns the register there, STATION_BASE as its two halves at 0x00
and 0x04. The fields of STATE at their bits, the other bits 0 (R189); the six status and enable bits as they are read; and the
interrupt line, asserted while a status bit is set with its enable bit set (R190). That STATION_BASE reads back whole, its low
six bits as written, and that the other offsets have no register, is the model's choice (AL 11). -/
def Obligations.RegisterReads : Prop :=
  ∀ s : State,
    let v := s.readRegister .state
    (s.readOffset 0x00 = some (s.readRegister .stationBaseLow) ∧
      s.readOffset 0x04 = some (s.readRegister .stationBaseHigh) ∧ s.readOffset 0x08 = some (s.readRegister .command) ∧
      s.readOffset 0x0C = some (s.readRegister .wake) ∧ s.readOffset 0x10 = some v ∧
      s.readOffset 0x14 = some (s.readRegister .intStatus) ∧ s.readOffset 0x18 = some (s.readRegister .intEnable) ∧
      ∀ o, o ∉ [0x00, 0x04, 0x08, 0x0C, 0x10, 0x14, 0x18] → s.readOffset o = none) ∧
    v.extractLsb' 0 4 = BitVec.ofNat 4 (runCode s.run.state) ∧
    v.extractLsb' 4 2 = BitVec.ofNat 2 (chainCode s.chainState) ∧
    v.getLsbD 8 = s.guard.residual ∧ v.getLsbD 9 = s.guard.senseOver ∧ v.getLsbD 10 = s.guard.sourceOver ∧
    v.getLsbD 11 = s.mu.calRange ∧ v.getLsbD 12 = s.run.chainBreak ∧ v.getLsbD 13 = s.run.setupInvalid ∧
    v.getLsbD 14 = s.run.orderFault ∧ v.extractLsb' 16 2 = BitVec.ofNat 2 (resultCode s.run.last) ∧
    (v.getLsbD 6 = false ∧ v.getLsbD 7 = false ∧ v.getLsbD 15 = false ∧ v.extractLsb' 18 14 = 0) ∧
    s.readRegister .stationBaseHigh ++ s.readRegister .stationBaseLow = s.regs.stationBase ∧
    (s.readRegister .intStatus).extractLsb' 0 6 = s.regs.intStatus ∧
    (s.readRegister .intEnable).extractLsb' 0 6 = s.regs.intEnable ∧
    s.readRegister .command = 0 ∧ s.readRegister .wake = 0 ∧
    (s.interruptLine = true ↔ ∃ b < 6, s.regs.intStatus.getLsbD b = true ∧ s.regs.intEnable.getLsbD b = true)

/-! ## The axis link -/

/-- ARRIVED in TRAVEL with MOVE outstanding, the reported span within the claim and no entry of the carriage's own
pending: the claim shrinks to the span, the position is taken, and by purpose and ended mark the carriage enters DESCEND,
its request sent, or becomes IDLE. No carriage of the other side changes, and no other carriage loses a lane. -/
def Obligations.ArrivedCompletesTravel : Prop :=
  ∀ (s : State) (c : Carriage) (p : Pos) (k : Interval), s.ClaimLaws →
    (s.carr c).state = .travel → (s.carr c).awaits .move = true → s.pendingOf c = none → s.claimOf c = some k →
    (s.setup.span c (s.setup.laneFor c p.x)).within k = true →
    ∃ u : State, exec (.arrived c p) s = .next u.finish ∧
      u = { s with claims := u.claims, carriages := u.carriages, disp := u.disp, linkOut := u.linkOut } ∧
      u.claimOf c = some (s.setup.span c (s.setup.laneFor c p.x)) ∧ (u.carr c).position = some p ∧
      (if ((s.carr c).purpose = some .step ∨ (s.carr c).purpose = some .scrub) ∧ (s.carr c).ended = false then
        (u.carr c).state = .descend ∧ (u.carr c).request = some ⟨.descend, false⟩ ∧
          (u.carr c).timer = some s.setup.descendMs ∧ (u.carr c).tip = (if s.run.state = .halted then .isolated else .bleed)
      else (u.carr c).state = .idle ∧ (u.carr c).request = none ∧ (u.carr c).timer = none ∧
        (u.carr c).service = none ∧ (u.carr c).purpose = none ∧ u.disp.scan = true) ∧
      (∀ x, sideOf x ≠ sideOf c → u.carr x = s.carr x) ∧ (∀ d, d ≠ sideOf c → u.table d = s.table d) ∧
      ∀ (x : Carriage) (n : Nat), x ≠ c → (s.table (sideOf c)).cells[n]? = some (some x) → (u.table (sideOf c)).cells[n]? = some (some x)

/-- HALTED in TRAVEL with HALT outstanding, the reported span within the claim and no entry of the carriage's own
pending: the claim shrinks to the span, the position is taken and the carriage becomes IDLE where it stopped. The cut mark of
the timer that stops is the model's own (AL 58). -/
def Obligations.HaltedComesToRest : Prop :=
  ∀ (s : State) (c : Carriage) (p : Pos) (k : Interval), s.ClaimLaws →
    (s.carr c).state = .travel → (s.carr c).awaits .halt = true → s.pendingOf c = none → s.claimOf c = some k →
    (s.setup.span c (s.setup.laneFor c p.x)).within k = true →
    ∃ u : State, exec (.halted c p) s = .next u.finish ∧
      u = { s with claims := u.claims, carriages := u.carriages, disp := u.disp, linkOut := u.linkOut } ∧
      u.claimOf c = some (s.setup.span c (s.setup.laneFor c p.x)) ∧
      u.carr c = { s.carr c with
        state := .idle, phase := none, purpose := none, service := none, ended := false, target := none
        position := some p, request := none, timer := none, followOn := none, tip := (u.carr c).tip
        timerCut := if (s.carr c).timer = none then (s.carr c).timerCut else some s.clock } ∧
      u.disp.scan = true ∧ (∀ x, sideOf x ≠ sideOf c → u.carr x = s.carr x) ∧
      ∀ (x : Carriage) (n : Nat), x ≠ c → (s.table (sideOf c)).cells[n]? = some (some x) → (u.table (sideOf c)).cells[n]? = some (some x)

/-- Entry into FAULT: by DRIVE_FAULT in service, by the expiry of a running request timer, and by an ARRIVED or HALTED whose
span leaves the claim (its position is not taken). The request is dropped with its timer, the tip is ISOLATED, the landing
record and pending entry go, every lane the carriage owns stays its own, and a CARRIAGE_FAULT note names the cause, with the
tag and sequence of the step served, when the held-note list has a place; where an ABORT or a withdrawal has left the
carriage in the service of a step that is gone, they are the model's choice (AL 47). The carriage leaves every assignment. In
ENGAGED the measurement in hand is abandoned, and a pair check in hand that names the carriage is abandoned: unit free,
source OFF, matrix OPEN, last class and range NONE. The step it serves, if still undecided, ends ERROR, cause CARRIAGE_FAULT,
value 0, leaves the measurement queue, and its other carriages are sent END; a decided one keeps its outcome and its
carriages go on. The pending entries that meet the frozen claim are BLOCKED, and the undecided steps they serve, or whose
yield has failed, are owed a withdrawal. A withdrawal ends each carriage of the step, which returns to WAITING with nothing
but its assignment, yields and marks lost; no other step is withdrawn. The Dispatcher takes the ended step first, then the
withdrawals, in the order of their reasons, which is the model's choice (AL 50), the reachability test and the scan. These
are one round of its stage in every answer `u.finish`: with nothing owed, that is no withdrawal, test or scan and no LIFTING
step without a carriage, the stage does nothing, and else it goes on round by round until nothing is owed (AL 24; 64 rounds
at most, AL 32). An expiry taken together with, and after, the response that stopped its timer causes no fault though a fresh
timer runs (R46), by the model's cut mark (AL 58); with no timer running it changes nothing (AL 1). -/
def Obligations.CarriageFaults : Prop :=
  let lifts (s u : State) (x : Carriage) : Prop := (u.carr x).state = .lift ∧ (u.carr x).followOn = some .free ∧
    (u.carr x).request = some ⟨.lift, false⟩ ∧ (u.carr x).timer = some s.setup.liftMs
  let alone (s : State) (x : Carriage) : Prop := ∀ d, ∀ q ∈ (s.table d).pend, q.carriage ≠ x
  let ended (s u : State) (held : Prop) (x : Carriage) : Prop :=
    ((s.carr x).state = .travel →
      ((u.carr x).state = .idle ∨ ((u.carr x).state = .travel ∧ (u.carr x).ended = true)) ∧
      (s.ClaimLaws → (s.carr x).phase = some .claimWait → u.pendingOf x = none)) ∧
    (alone s x → match (s.carr x).state with
      | .off | .homing | .idle | .fault => (u.carr x).state = (s.carr x).state
      | .travel => match (s.carr x).phase with
        | some .claimWait => (u.carr x).state = .idle ∧ (u.carr x).service = none
        | some .moving | some .halting | none =>
          (u.carr x).state = .travel ∧ (u.carr x).ended = true ∧ (u.carr x).request = (s.carr x).request
      | .descend => (u.carr x).state = .descend ∧ (u.carr x).ended = true ∧ (u.carr x).request = (s.carr x).request
      | .check => lifts s u x ∧ u.landing x = none
      | .ready => lifts s u x
      | .engaged => (held → (u.carr x).state = .engaged) ∧ (¬ held → lifts s u x)
      | .lift => (u.carr x).state = .lift ∧ (u.carr x).followOn = some .free ∧
          (u.carr x).request = (s.carr x).request)
  let free (u : State) : Prop := u.mu.op = .idle ∧ u.mu.phase = none ∧ u.mu.source = .off ∧ u.mu.cls = .opened ∧
    u.mu.lastClass = none ∧ u.mu.lastRange = none
  (∀ (s : State) (c : Carriage) (i : Instr) (code detail : Nat),
    ((∃ b, i = .driveFault c b ∧ (s.carr c).inService = true ∧ code = 2 ∧ detail = b.toNat) ∨
      (∃ n q, i = .requestTimeout c ∧ (s.carr c).timer = some n ∧ (s.carr c).request = some q ∧
        (s.carr c).timerCut ≠ some s.clock ∧ code = 1 ∧ detail = requestCode q.kind) ∨
      ∃ p k, s.claimOf c = some k ∧ (s.setup.span c (s.setup.laneFor c p.x)).within k = false ∧ code = 3 ∧ detail = 0 ∧
        (s.carr c).state = .travel ∧ ((i = .arrived c p ∧ (s.carr c).awaits .move = true) ∨
          (i = .halted c p ∧ (s.carr c).awaits .halt = true))) →
    ∃ u : State, exec i s = .next u.finish ∧
      (u.carr c).state = .fault ∧ (u.carr c).request = none ∧ (u.carr c).timer = none ∧ (u.carr c).tip = .isolated ∧
      (u.carr c).purpose = none ∧ (u.carr c).service = none ∧ (u.carr c).position = (s.carr c).position ∧
      u.landing c = none ∧ u.pendingOf c = none ∧ u.disp.reach = true ∧ u.disp.scan = true ∧
      (∀ (d : Side) (n : Nat) (x : Carriage), (s.table d).cells[n]? = some (some x) → (u.table d).cells[n]? = some (some x)) ∧
      (s.log.notes.length < 8 → u.log.notes = s.log.notes ++
        [⟨⟨.carriageFault, some c, code, (s.serviceTag (s.carr c).service).1, (s.serviceTag (s.carr c).service).2, detail⟩,
          s.log.offers⟩]) ∧
      (∀ f ∈ u.disp.window, some c ∉ f.assignment) ∧
      ((s.carr c).state = .engaged → s.mu.op = .measurement → free u) ∧
      ((s.carr c).state ≠ .engaged → s.mu.op = .measurement → u.mu.op = .measurement ∧ u.mu.phase = s.mu.phase) ∧
      (∀ p, s.mu.op = .pairCheck → s.mu.pair = some p → (p.force = c ∨ p.sense = c) → free u ∧
        ∀ x, p.force = x ∨ p.sense = x → (s.run.state ≠ .halted → (u.carr x).tip = tipFor (u.carr x).state) ∧
          ∀ l, u.landing x = some l → l.elec ≠ .running) ∧
      (∀ e, s.servedBy c = some e → s.entry e.slot = some e →
        (e.outcome = none → e.slot ∉ u.mu.measQueue ∧
          (∃ f o, u.entry e.slot = some f ∧ f.outcome = some o ∧ o.verdict = .error ∧ o.cause = .carriageFault ∧
            o.value = 0 ∧ o.attempts = e.attempts + 1 ∧ o.carriages = e.lastCarriages ∧ o.duration = e.duration s.clock ∧
            ((s.carr c).state = .engaged ∨ s.mu.op ≠ .measurement ∨ s.mu.step ≠ some e.slot → f.state = .lifting)) ∧
          ∀ x ∈ e.serving, x ≠ c → ended s u ((s.carr c).state ≠ .engaged ∧ s.mu.op = .measurement) x) ∧
        (∀ o, e.outcome = some o → (∃ f, u.entry e.slot = some f ∧ f.outcome = some o) ∧
          ∀ x ∈ e.serving, x ≠ c → alone s x → (s.carr x).state ≠ .engaged → (u.carr x).state = (s.carr x).state ∧
            (u.carr x).request = (s.carr x).request ∧ (u.carr x).ended = (s.carr x).ended)) ∧
      (let failed (x : Carriage) : Prop := ∀ f ∈ s.disp.window, f.state = .moving → f.outcome = none →
          (∃ y ∈ f.yields, y.carriage = x ∧ y.done = false) → f.slot ∈ u.disp.withdraw;
        failed c ∧ ∀ k, s.claimOf c = some k → (∀ q ∈ (u.table (sideOf c)).pend, q.span.meets k = false) ∧
          ∀ q ∈ (s.table (sideOf c)).pend, q.carriage ≠ c → q.span.meets k = true →
            (u.carr q.carriage).state = .idle ∧ ((s.carr q.carriage).purpose = some .yield → failed q.carriage) ∧
            ((s.carr q.carriage).purpose ∈ [some .step, some .scrub] → ∀ f, s.servedBy q.carriage = some f →
              f.outcome = none → f.slot ∈ u.disp.withdraw)) ∧
      u.setup = s.setup ∧ u.regs = s.regs ∧ u.nets = s.nets ∧ u.frame = s.frame ∧ u.hostMem = s.hostMem) ∧
  (∀ (s : State) (slot : Nat) (e : Entry), s.entry slot = some e →
    let u := s.withdrawStep slot
    (e.outcome ≠ none ∨ e.state ∉ [.moving, .landing, .measureQueued] → u = s) ∧
    (e.outcome = none → e.state ∈ [.moving, .landing, .measureQueued] →
      u.entry slot = some { e with state := .waiting, assignment := [], yields := [], arrived := [], ready := [] } ∧
      u.disp.scan = true ∧ u.mu.measQueue = (s.mu.measQueue.filter fun k => k != slot) ∧
      (∀ x ∈ e.serving, ended s u (s.mu.op = .measurement) x) ∧
      (∀ x, x ∉ e.serving → alone s x → (u.carr x).state = (s.carr x).state ∧ (u.carr x).request = (s.carr x).request ∧
        (u.carr x).ended = (s.carr x).ended) ∧
      u.setup = s.setup ∧ u.nets = s.nets ∧ u.frame = s.frame ∧ u.log = s.log ∧ u.regs = s.regs)) ∧
  (∀ (s : State) (slot : Nat), s.entry slot = none → s.withdrawStep slot = s) ∧
  (∀ s : State, ∃ h v w : State, h = s.holdLifted ∧
    v = s.disp.withdraw.foldl (fun u k => u.withdrawStep k) { h with disp := { h.disp with withdraw := [] } } ∧
    w = (if v.disp.reach then State.testAllReach { v with disp := { v.disp with reach := false } } else v).holdLifted ∧
    s.dispatchRound = if w.disp.scan then State.scan 17 { w with disp := { w.disp with scan := false } } else w) ∧
  (∀ s : State,
    let owed (v : State) : Prop := v.disp.withdraw ≠ [] ∨ v.disp.reach = true ∨ v.disp.scan = true ∨
      ∃ e ∈ v.disp.window, e.state = .lifting ∧ ∀ c, some c ∉ e.assignment
    let rounds (k : Nat) : State := State.dispatchRound^[k] s
    (¬ owed s → s.dispatcherStage = s) ∧ (owed s → ∃ k, 1 ≤ k ∧ s.dispatcherStage = rounds k) ∧
    ∀ k ≤ 64, (∀ j < k, owed (rounds j)) → (k < 64 → ¬ owed (rounds k)) → s.dispatcherStage = rounds k) ∧
  (∀ (s : State) (c : Carriage),
    ((s.carr c).timerCut = some s.clock → ∃ t, exec (.requestTimeout c) s = .next t ∧
      t = { s with carriages := t.carriages } ∧
      ∀ x, t.carr x = if x = c then { s.carr c with timerCut := none } else s.carr x) ∧
    ((s.carr c).timerCut ≠ some s.clock → (s.carr c).timer = none → exec (.requestTimeout c) s = .next s)) ∧
  (∀ (s : State) (c : Carriage) (p : Pos), (s.carr c).state = .homing → (s.carr c).awaits .query = true →
    (s.carr c).timer ≠ none → ∃ u : State, exec (.position c p false) s = .next u.finish ∧
      (u.carr c).timer = some s.setup.liftMs ∧ (u.carr c).timerCut = some s.clock) ∧
  ∀ (s : State) (c : Carriage), (s.carr c).state = .descend → (s.carr c).awaits .descend = true →
    (s.carr c).timer ≠ none → s.pendingOf c = none → ∃ u : State, exec (.noTouch c) s = .next u.finish ∧
      (u.carr c).timer = some s.setup.liftMs ∧ (u.carr c).timerCut = some s.clock

/-- A response that does not match the outstanding request is discarded, with NOTE LATE_RESPONSE in every state but OFF,
where the answer is the state found and what it sets off (`s.finish`); nothing else changes (R47, the note's codes R171, the
states that take a DRIVE_FAULT R48). The note's tag and sequence are those of the step served; where an ABORT or a withdrawal
has left the carriage in the service of a step that is gone, they are the model's choice (AL 47). The ARRIVED that crosses a
HALT is R44's and no late response: it clears the mark it finds. -/
def Obligations.LateResponses : Prop :=
  ∀ (s : State) (c : Carriage),
    let late (k : Nat) : Host.Outcome State Fault Refusal :=
      .next (if (s.carr c).state = .off then s else
        s.offerNote ⟨.lateResponse, some c, k, (s.serviceTag (s.carr c).service).1,
          (s.serviceTag (s.carr c).service).2, 0⟩).finish
    (∀ p, (s.carr c).awaits .move = false → (s.carr c).request ≠ some ⟨.halt, true⟩ → exec (.arrived c p) s = late 1) ∧
    (∀ n, (s.carr c).awaits .descend = false → exec (.touched c n) s = late 2) ∧
    ((s.carr c).awaits .descend = false → exec (.noTouch c) s = late 3) ∧
    ((s.carr c).awaits .lift = false → exec (.lifted c) s = late 4) ∧
    (∀ p, (s.carr c).awaits .halt = false → exec (.halted c p) s = late 5) ∧
    (∀ p b, (s.carr c).awaits .query = false → exec (.position c p b) s = late 6) ∧
    (∀ b, (s.carr c).inService = false → exec (.driveFault c b) s = late 7) ∧
    (∀ p, (s.carr c).awaits .move = false → (s.carr c).request = some ⟨.halt, true⟩ → ∃ t,
      exec (.arrived c p) s = .next t ∧ t = { s with carriages := t.carriages } ∧
        ∀ x, t.carr x = if x = c then { s.carr c with request := some ⟨.halt, false⟩ } else s.carr x)

/-- A frame the link drops changes nothing: no carriage takes it, and no note is raised. -/
def Obligations.DroppedFrameChangesNothing : Prop :=
  ∀ (s : State) (why : LinkDrop), exec (.linkFrameDropped why) s = .next s

/-- TOUCHED within the z limit, for a carriage that serves a step and is not ended: CHECK is entered with a landing record of
the step, the point's role, the attempt and the method in effect. A point without partner has method FORCE, and its fallback
mark says whether the setup asked for electrical evidence; force is WATCHING, its limit time ten filter times away, unless
the method is ELECTRICAL. An ended carriage lifts at once and opens no record. Until its partner is down, the electrical
progress is WAITING_PARTNER, or NOT_USED for FORCE. Beside the open record of its partner in the same attempt, none of whose
checks is under way, a pair check is requested if one of the two still needs electrical evidence: both are OWED, and the
pair, its FORCE-role carriage first, joins the tail of the owed list; from its head the contact-check queue takes what it has
room for, two places in all, and the partners of a pair it takes are QUEUED. If neither needs it, nothing is requested, and a
wait for it ends NOT_USED unless the method is FORCE (R68 and R72 as AL 22 reads them). -/
def Obligations.TouchedOpensLanding : Prop :=
  (∀ (s : State) (c : Carriage) (depth : Nat),
    (s.carr c).state = .descend → (s.carr c).awaits .descend = true → depth ≤ s.setup.zLimit →
    ∃ u : State, exec (.touched c depth) s = .next u.finish ∧ u.claims = s.claims ∧ u.setup = s.setup ∧
      u.log = s.log ∧ (u.carr c).probeUp = false ∧ (∀ x, x ≠ c → u.carr x = s.carr x) ∧
      ((s.carr c).ended = true → (u.carr c).state = .lift ∧ (u.carr c).followOn = some .free ∧
        (u.carr c).request = some ⟨.lift, false⟩ ∧ u.landing c = s.landing c) ∧
      ((s.carr c).ended = false → ∀ e n p, s.servedBy c = some e → e.pointOf c = some n → e.copy.points[n]? = some p →
        (u.carr c).state = .check ∧ (u.carr c).request = none ∧ (u.carr c).timer = none ∧
        ∃ l, u.landing c = some l ∧ l.slot = e.slot ∧ l.role = p.role ∧ l.attempt = e.attempts + 1 ∧
          l.partner = (partnerRole p.role).bind e.carriageOf ∧
          l.method = (if l.partner.isSome then (s.cset c).method else .force) ∧
          l.fallback = (l.partner.isNone && ((s.cset c).method == .electrical ||
            (s.cset c).method == .forceAndElectrical)) ∧
          l.force = (if l.method = .electrical then .notUsed
            else .watching (if s.pins.force.get c then some s.clock else none) (s.clock + 10 * s.setup.filterTime c)) ∧
          ((∀ d, l.partner = some d → d ≠ c ∧ s.landing d = none) →
            l.elec = (if l.method = .force then .notUsed else .waitingPartner) ∧ u.qual.owed = s.qual.owed ∧
              u.mu.checkQueue = s.mu.checkQueue))) ∧
  ∀ (s : State) (c d : Carriage) (depth : Nat) (e : Entry) (n : Nat) (p : Point) (m : Landing),
    (s.carr c).state = .descend → (s.carr c).awaits .descend = true → depth ≤ s.setup.zLimit → (s.carr c).ended = false →
    s.servedBy c = some e → e.pointOf c = some n → e.copy.points[n]? = some p →
    (partnerRole p.role).bind e.carriageOf = some d → d ≠ c → s.landing d = some m → m.slot = e.slot →
    m.attempt = e.attempts + 1 → m.elec ∉ [.owed, .queued, .running] →
    let needed : Prop := (s.cset c).method ≠ .force ∨ (m.elec = .waitingPartner ∧
      (m.method = .electrical ∨ m.method = .forceAndElectrical ∨
        (m.method = .forceOrElectrical ∧ m.force ≠ .qualified)))
    let pair : Pair := if p.role = .forceHi ∨ p.role = .forceLo then ⟨e.slot, c, d⟩ else ⟨e.slot, d, c⟩
    let owed := s.qual.owed ++ [pair]
    let room := 2 - s.mu.checkQueue.length
    let progress (x : Carriage) (q : ElecProgress) : ElecProgress :=
      if (owed.take room).any fun k => k.force == x || k.sense == x then .queued else q
    ∃ (u : State) (l : Landing), exec (.touched c depth) s = .next u.finish ∧ u.landing c = some l ∧
      (needed → u.qual.owed = owed.drop room ∧ u.mu.checkQueue = s.mu.checkQueue ++ owed.take room ∧
        l.elec = progress c .owed ∧ u.landing d = some { m with elec := progress d .owed } ∧
        ∀ x, x ≠ c → x ≠ d → u.landing x = (s.landing x).map fun k => { k with elec := progress x k.elec }) ∧
      (¬ needed → u.qual.owed = s.qual.owed ∧ u.mu.checkQueue = s.mu.checkQueue ∧ l.elec = .notUsed ∧
        u.landing d = some { m with
          elec := if m.elec = .waitingPartner ∧ m.method ≠ .force then .notUsed else m.elec } ∧
        ∀ x, x ≠ c → x ≠ d → u.landing x = s.landing x)

/-- NO_TOUCH, and TOUCHED beyond the z limit: the carriage lifts. Ended, with follow-on FREE. Otherwise a failed landing
is counted: with the next scrub position in field the follow-on lands there under the next scrub index; with the relands
spent the step it serves ends NOCONTACT with the failure kind NO_TOUCH. A scrub position out of field is passed over, each
one a failed landing of kind FIELD: the first in field after it is taken, and with none left, of the at most three relands
of R65, the step ends NOCONTACT, FIELD (R73). The partner, if any, has no record open. A pair check in hand goes on after a failed
landing that leaves a reland (R72); one of the step's own partner pairs, whether its partners stand in CHECK or not, is
abandoned when the step ends NOCONTACT (R75): the unit is free, and no record runs it still. -/
def Obligations.FailedTouchLifts : Prop :=
  let goesOn (s u : State) : Prop := u.mu.op = s.mu.op ∧ u.mu.pair = s.mu.pair ∧ u.mu.phase = s.mu.phase
  let freed (s u : State) (e : Entry) : Prop := ∀ p, s.mu.op = .pairCheck → s.mu.pair = some p → p.slot = e.slot →
    e.partnerOf p.force = some p.sense →
    (u.mu.op = .idle ∧ u.mu.pair = none ∧ u.mu.phase = none ∧ u.mu.source = .off ∧ u.mu.cls = .opened ∧
      u.mu.buses = .none ∧ u.mu.lastClass = none ∧ u.mu.lastRange = none) ∧
    ∀ x, x = p.force ∨ x = p.sense → (s.run.state ≠ .halted → (u.carr x).tip = tipFor (u.carr x).state) ∧
      ∀ l, u.landing x = some l → l.elec ≠ .running
  ∀ (s : State) (c : Carriage) (i : Instr), (s.carr c).state = .descend → (s.carr c).awaits .descend = true →
    s.pendingOf c = none → (i = .noTouch c ∨ ∃ depth, i = .touched c depth ∧ s.setup.zLimit < depth) →
    ∃ u : State, exec i s = .next u.finish ∧ u.setup = s.setup ∧
      (u.carr c).state = .lift ∧ (u.carr c).probeUp = false ∧ (u.carr c).request = some ⟨.lift, false⟩ ∧
      (u.carr c).timer = some s.setup.liftMs ∧
      ((s.carr c).ended = true → (u.carr c).followOn = some .free ∧ u.disp = s.disp ∧ u.qual = s.qual ∧
        u.claims = s.claims) ∧
      ((s.carr c).ended = false → ∀ e p, s.servedBy c = some e → e.nominalOf c = some p →
        (∀ d, e.partnerOf c = some d → s.landing d = none) →
        ((s.carr c).scrubIndex < s.setup.reland →
          s.setup.inField c (scrubPoint p s.setup.scrub ((s.carr c).scrubIndex + 1)) = true →
          (u.carr c).scrubIndex = (s.carr c).scrubIndex + 1 ∧ u.disp = s.disp ∧ u.claims = s.claims ∧ goesOn s u ∧
            (u.carr c).followOn =
              some (.landAt (scrubPoint p s.setup.scrub ((s.carr c).scrubIndex + 1)) .scrub)) ∧
        (s.setup.reland ≤ 3 → ∀ j, (s.carr c).scrubIndex < j → j ≤ s.setup.reland →
          s.setup.inField c (scrubPoint p s.setup.scrub j) = true →
          (∀ k, (s.carr c).scrubIndex < k → k < j → s.setup.inField c (scrubPoint p s.setup.scrub k) = false) →
          (u.carr c).scrubIndex = j ∧ u.disp = s.disp ∧ u.claims = s.claims ∧ goesOn s u ∧
            (u.carr c).followOn = some (.landAt (scrubPoint p s.setup.scrub j) .scrub)) ∧
        (s.setup.reland ≤ 3 → (s.carr c).scrubIndex < s.setup.reland →
          (∀ k, (s.carr c).scrubIndex < k → k ≤ s.setup.reland →
            s.setup.inField c (scrubPoint p s.setup.scrub k) = false) → e.outcome = none → s.entry e.slot = some e →
          (u.carr c).scrubIndex = s.setup.reland ∧ (u.carr c).followOn = some .free ∧ freed s u e ∧
            ∃ f o, u.entry e.slot = some f ∧ f.outcome = some o ∧ o.verdict = .nocontact ∧ o.cause = .landing .field ∧ o.value = 0 ∧
            o.attempts = e.attempts + 1) ∧
        (s.setup.reland ≤ (s.carr c).scrubIndex → e.outcome = none → s.entry e.slot = some e →
          (u.carr c).followOn = some .free ∧ freed s u e ∧ ∃ f o, u.entry e.slot = some f ∧ f.outcome = some o ∧
            o.verdict = .nocontact ∧ o.cause = .landing .noTouch ∧ o.value = 0 ∧ o.attempts = e.attempts + 1))

/-- LIFTED in LIFT: the probe is up. With follow-on FREE the carriage is IDLE and out of every assignment. With a landing
at a machine point to follow, it is back where it stands when the point is there, moves when the point is in its lane, and
otherwise asks for the sweep's lanes and does what the answer of the Claim Table says. With a scrub position to follow it
does the same, but its claim is a scrub claim: GRANTED, it takes the lanes and moves; otherwise NOT_GRANTED, it is no entry
and counts one failed landing, CLAIM: the next scrub position in field is tried under its scrub index, or with the
relands spent the step ends NOCONTACT. Positions out of field are passed over, each a failed landing of kind FIELD, and with
none left, of the at most three relands of R65, the step ends NOCONTACT, FIELD (R73). The partner, if any, has no record
open. A pair check in hand of the step's own partner pairs is abandoned when the step ends NOCONTACT (R75). -/
def Obligations.LiftedActsOnFollowOn : Prop :=
  let freed (s u : State) (e : Entry) : Prop := ∀ p, s.mu.op = .pairCheck → s.mu.pair = some p → p.slot = e.slot →
    e.partnerOf p.force = some p.sense → u.mu.op = .idle ∧ u.mu.phase = none ∧ u.mu.source = .off ∧
      u.mu.cls = .opened ∧ u.mu.lastClass = none ∧ u.mu.lastRange = none
  ∀ (s : State) (c : Carriage), (s.carr c).state = .lift → (s.carr c).awaits .lift = true →
    ∃ u : State, exec (.lifted c) s = .next u.finish ∧ (u.carr c).probeUp = true ∧ u.setup = s.setup ∧
      ((s.carr c).followOn = none ∨ (s.carr c).followOn = some .free →
        (u.carr c).state = .idle ∧ (u.carr c).service = none ∧ (u.carr c).request = none ∧ u.claims = s.claims ∧
          (∀ e ∈ u.disp.window, some c ∉ e.assignment) ∧ u.disp.scan = true) ∧
      (∀ p, (s.carr c).followOn = some (.landAt p .step) → (s.carr c).ended = false →
        let t := s.setup.target c p
        let i := s.setup.sweep c (s.laneNow c) (s.setup.laneFor c t.x)
        (u.carr c).scrubIndex = 0 ∧
        if (s.carr c).position = some t then
          (u.carr c).state = .descend ∧ (u.carr c).request = some ⟨.descend, false⟩ ∧ u.claims = s.claims
        else if s.setup.laneFor c t.x = s.laneNow c then
          (u.carr c).state = .travel ∧ (u.carr c).phase = some .moving ∧ (u.carr c).target = some t ∧
            (u.carr c).request = some ⟨.move, false⟩ ∧ u.claims = s.claims
        else
          match s.claimAnswer c i with
          | .granted => (u.carr c).state = .travel ∧ (u.carr c).phase = some .moving ∧
              (u.carr c).request = some ⟨.move, false⟩ ∧
              (u.table (sideOf c)).cells = paint (s.pendingInterval c i) (some c) (s.table (sideOf c)).cells
          | .pending => (u.carr c).state = .travel ∧ (u.carr c).phase = some .claimWait ∧
              (u.table (sideOf c)).pend = (s.table (sideOf c)).pend ++ [⟨c, .step, s.pendingInterval c i⟩]
          | .blocked | .denied => (u.carr c).state = .idle ∧ u.claims = s.claims) ∧
      ∀ p, (s.carr c).followOn = some (.landAt p .scrub) → (s.carr c).ended = false → s.pendingOf c = none →
        (∀ e d, s.servedBy c = some e → e.partnerOf c = some d → s.landing d = none) →
        let t := s.setup.target c p
        let i := s.setup.sweep c (s.laneNow c) (s.setup.laneFor c t.x)
        if (s.carr c).position = some t then
          (u.carr c).state = .descend ∧ (u.carr c).request = some ⟨.descend, false⟩ ∧ u.claims = s.claims
        else if s.setup.laneFor c t.x = s.laneNow c then
          (u.carr c).state = .travel ∧ (u.carr c).phase = some .moving ∧ (u.carr c).purpose = some .scrub ∧
            (u.carr c).request = some ⟨.move, false⟩ ∧ u.claims = s.claims
        else if s.claimAnswer c i = .granted then
          (u.carr c).state = .travel ∧ (u.carr c).phase = some .moving ∧ (u.carr c).purpose = some .scrub ∧
            (u.carr c).request = some ⟨.move, false⟩ ∧ (u.carr c).scrubIndex = (s.carr c).scrubIndex ∧
            (u.table (sideOf c)).cells = paint (s.pendingInterval c i) (some c) (s.table (sideOf c)).cells
        else u.pendingOf c = none ∧ ∀ e n, s.servedBy c = some e → e.nominalOf c = some n →
          (s.setup.reland ≤ (s.carr c).scrubIndex → e.outcome = none → s.entry e.slot = some e →
            (u.carr c).state = .idle ∧ freed s u e ∧
              ∃ f o, u.entry e.slot = some f ∧ f.outcome = some o ∧ o.verdict = .nocontact ∧
              o.cause = .landing .claim ∧ o.value = 0 ∧ o.attempts = e.attempts + 1) ∧
          (s.setup.reland ≤ 3 → (s.carr c).scrubIndex < s.setup.reland →
            (∀ k, (s.carr c).scrubIndex < k → k ≤ s.setup.reland →
              s.setup.inField c (scrubPoint n s.setup.scrub k) = false) → e.outcome = none → s.entry e.slot = some e →
            (u.carr c).state = .idle ∧ freed s u e ∧
              ∃ f o, u.entry e.slot = some f ∧ f.outcome = some o ∧ o.verdict = .nocontact ∧
              o.cause = .landing .field ∧ o.value = 0 ∧ o.attempts = e.attempts + 1) ∧
          (s.setup.reland ≤ 3 → ∀ j, (s.carr c).scrubIndex < j → j ≤ s.setup.reland →
            let q := scrubPoint n s.setup.scrub j
            s.setup.inField c q = true → s.setup.laneFor c (s.setup.target c q).x = s.laneNow c →
            (∀ k, (s.carr c).scrubIndex < k → k < j → s.setup.inField c (scrubPoint n s.setup.scrub k) = false) →
            (u.carr c).scrubIndex = j ∧ u.claims = s.claims ∧
            if (s.carr c).position = some (s.setup.target c q) then (u.carr c).state = .descend
            else (u.carr c).state = .travel ∧ (u.carr c).phase = some .moving ∧
              (u.carr c).target = some (s.setup.target c q)) ∧
          let q := scrubPoint n s.setup.scrub ((s.carr c).scrubIndex + 1)
          ((s.carr c).scrubIndex < s.setup.reland → s.setup.inField c q = true →
            s.setup.laneFor c (s.setup.target c q).x = s.laneNow c →
            (u.carr c).scrubIndex = (s.carr c).scrubIndex + 1 ∧ u.claims = s.claims ∧
            if (s.carr c).position = some (s.setup.target c q) then (u.carr c).state = .descend
            else (u.carr c).state = .travel ∧ (u.carr c).phase = some .moving ∧
              (u.carr c).target = some (s.setup.target c q))

/-- STARTING goes on as far as the carriages allow. While it waits for the answers, every carriage yet to be set that is OFF,
IDLE or in FAULT is set first: enabled, it is HOMING with QUERY sent and its timer started; else OFF; every other stays as it
is. In HOMING, POSITION answers QUERY: the answer and the probe are taken, and a probe that is down is lifted; LIFTED then
puts it up, and the carriage is IDLE if its side's claims are built. With every enabled carriage answered or in FAULT the
claims are built where the order check passes on both sides, and START is refused with ORDER_FAULT where it fails. An enabled
carriage that did not answer has the lanes between its answering neighbours. The order check: answering carriages' spans
disjoint and in index order; no two carriages next to each other in index order both silent, counted among the enabled alone
(AL 15); a silent one's lanes not none, and among them its span at its last position from before the START. After the build,
in the same answer where it can, each side, once none of its carriages is HOMING, is sent to its park positions, the top side
first (AL 55); STARTING ends in RUNNING once both have been and no enabled carriage is HOMING or in TRAVEL. That a fresh log
keeps a read of the drained count in progress is the model's choice (AL 53). ORDER_FAULT puts back the setup, the Claim Table
and the carriage records held before the START, each probe up flag as it now is; that a LIFT of HOMING still outstanding goes
with its timer, and that a carriage not at rest at the START comes back as it came to rest, at its last reported position
from before the START, is the model's choice (AL 16), and that the window and the log stay as STARTING left them, a step that
R82's test ended in it among them, is too (AL 62). The cut mark of a timer that stops is the model's own (AL 58). -/
def Obligations.HomingAnswers : Prop :=
  (∀ (s : State) (c : Carriage) (p : Pos) (up : Bool), (s.carr c).state = .homing → (s.carr c).awaits .query = true →
    ∃ u : State, exec (.position c p up) s = .next u.finish ∧
      u = { s with run := u.run, carriages := u.carriages, linkOut := u.linkOut } ∧
      u.run = { s.run with answers := s.run.answers.set c (some p) } ∧
      u.linkOut = (if up then s.linkOut else s.linkOut ++ [(c, .lift)]) ∧
      ∀ x, u.carr x = if x = c then { s.carr c with
          probeUp := up, request := if up then none else some ⟨.lift, false⟩
          timer := if up then none else some s.setup.liftMs
          timerCut := if (s.carr c).timer = none then (s.carr c).timerCut else some s.clock } else s.carr x) ∧
  (∀ s : State,
    let atRest (q : CarriageState) : Bool := q == .off || q == .idle || q == .fault
    let sets (c : Carriage) : Bool := s.run.unset.contains c && atRest (s.carr c).state
    let asks (c : Carriage) : Bool := (s.cset c).enabled
    ∃ (u : State) (asked : List Carriage), s.setRested = u ∧
      u = { s with run := u.run, carriages := u.carriages, linkOut := u.linkOut } ∧
      u.run = { s.run with saved := u.run.saved, unset := s.run.unset.filter fun c => !atRest (s.carr c).state } ∧
      (∀ c, u.carr c = if sets c then { s.carr c with
          state := if asks c then .homing else .off
          phase := none, purpose := none, service := none, ended := false, target := none, followOn := none
          request := if asks c then some ⟨.query, false⟩ else none
          timer := if asks c then some s.setup.liftMs else none
          tip := if asks c && s.run.state != .halted then .bleed else .isolated } else s.carr c) ∧
      u.linkOut = s.linkOut ++ asked.map (fun c => (c, .query)) ∧ asked.Nodup ∧ asked.Sublist s.run.unset ∧
      (∀ c, c ∈ asked ↔ sets c = true ∧ asks c = true) ∧
      (s.run.saved = none → u.run.saved = none) ∧
      ∀ v, s.run.saved = some v → ∃ w, u.run.saved = some w ∧ w.setup = v.setup ∧ w.claims = v.claims ∧
        ∀ c, let b := v.carriages.get c
          w.carriages.get c = if sets c && !atRest b.state then { s.carr c with position := b.position } else b) ∧
  (∀ (s : State) (c : Carriage), (s.carr c).state = .homing → (s.carr c).awaits .lift = true →
    ∃ u : State, exec (.lifted c) s = .next u.finish ∧ (u.carr c).probeUp = true ∧ (u.carr c).request = none ∧
      (u.carr c).state = (if s.run.stage = some .homing then .idle else .homing) ∧ u.claims = s.claims) ∧
  (∀ s : State, (∀ d, s.setup.fieldLanes d ≤ 128) → ∀ d : Side,
    let asked (c : Carriage) : Prop := sideOf c = d ∧ (s.cset c).enabled = true
    let answered (c : Carriage) (i : Interval) : Prop := asked c ∧
      ∃ p, s.run.answers.get c = some p ∧ i = s.setup.span c (s.setup.laneFor c p.x)
    let silent (c : Carriage) : Prop := asked c ∧ s.run.answers.get c = none
    let between (c : Carriage) (n : Nat) : Prop := n ≤ 127 ∧ ∀ x i, answered x i →
      (driveNumber x < driveNumber c → i.hi < n) ∧ (driveNumber c < driveNumber x → n < i.lo)
    (s.orderOk d = true ↔
      (∀ x y i j, answered x i → answered y j → driveNumber x < driveNumber y → i.hi < j.lo) ∧
      (∀ x y, silent x → silent y → driveNumber x < driveNumber y →
        ∃ z, asked z ∧ driveNumber x < driveNumber z ∧ driveNumber z < driveNumber y) ∧
      ∀ c, silent c → (∃ n, between c n) ∧ ∀ v p n, s.run.saved = some v → (v.carriages.get c).position = some p →
        (s.setup.span c (s.setup.laneFor c p.x)).lo ≤ n → n ≤ (s.setup.span c (s.setup.laneFor c p.x)).hi → between c n) ∧
    (s.orderOk d = true → ∀ (c : Carriage) (n : Nat), ((s.buildClaims.table d).cells[n]? = some (some c) ↔
      (∃ i, answered c i ∧ i.lo ≤ n ∧ n ≤ i.hi) ∨ (silent c ∧ between c n)))) ∧
  (∀ s : State, s.run.stage ≠ some .answers → s.run.stage ≠ some .homing → s.startLevel = s) ∧
  (∀ s : State, s.run.stage = some .answers →
    let v := s.setRested
    let answered : Prop := v.run.unset = [] ∧
      ∀ c, (s.cset c).enabled = true → s.run.answers.get c ≠ none ∨ (v.carr c).state = .fault
    let pass : Bool := v.orderOk .top && v.orderOk .bottom
    (¬ answered → s.startLevel = v) ∧
    (answered → s.startLevel = if pass then v.buildClaims.startLevel else v.refuseOrder)) ∧
  (∀ s : State, let u := s.buildClaims
    (∀ d, (u.table d).pend = []) ∧ u.run.stage = some .homing ∧ u.run.homeIssued = .both false ∧ u.run.saved = none ∧
    u.setup = s.setup ∧ u.linkOut = s.linkOut ∧
    ∀ c, (s.run.answers.get c = none → u.carr c = s.carr c) ∧
      ∀ p, s.run.answers.get c = some p → (u.carr c).position = some p ∧ (u.carr c).request = (s.carr c).request ∧
        (u.carr c).state = if (s.carr c).state = .homing ∧ (s.carr c).request = none then .idle else (s.carr c).state) ∧
  (∀ (s : State) (v : Saved), s.run.saved = some v →
    let u := s.refuseOrder
    u.run.orderFault = true ∧ u.run.last = .refused ∧ u.run.stage = none ∧
    u.run.state = (if s.run.ret = some .stopped then .stopped else .idle) ∧ u.setup = v.setup ∧ u.claims = v.claims ∧
    u.log = s.log ∧ u.disp = s.disp ∧ u.linkOut = s.linkOut ∧ ∀ c, u.carr c = { v.carriages.get c with
      probeUp := (s.carr c).probeUp
      timerCut := if (s.carr c).timer = none then (s.carr c).timerCut else some s.clock }) ∧
  (∀ (s : State) (d : Side),
    let due : Prop := s.run.stage = some .homing ∧ s.run.homeIssued.get d = false ∧
      ∀ c, sideOf c = d → (s.carr c).state ≠ .homing
    (due → s.issueHome d =
      State.batch d .home { s with run := { s.run with homeIssued := s.run.homeIssued.set d true } }) ∧
    (¬ due → s.issueHome d = s)) ∧
  ∀ s : State, s.run.stage = some .homing →
    let v := (s.issueHome .top).issueHome .bottom
    let finished : Prop := v.run.homeIssued = .both true ∧
      ∀ c, (s.cset c).enabled = true → (v.carr c).state ≠ .homing ∧ (v.carr c).state ≠ .travel
    (¬ finished → s.startLevel = v) ∧
    (finished →
      let u := s.startLevel
      u.run.state = .running ∧ u.run.chainBreak = false ∧ u.fetch.broken = false ∧ u.run.stage = none ∧
      u.run.origin = none ∧ u.run.ret = none ∧ u.disp.scan = true ∧ u.disp.window = v.disp.window ∧
      u.claims = v.claims ∧ u.carriages = v.carriages ∧ u.linkOut = v.linkOut ∧ u.setup = s.setup ∧
      (let n := s.disp.window.length + (if ∃ g, s.fetch.reading = some ⟨.record, false, g⟩ then 1 else 0);
        u.fetch.refill = if n < 12 then true else if 16 ≤ n then false else s.fetch.refill) ∧
      (∀ w, s.run.held = some w → s.run.origin = some .fromIdle →
        u.log = { s.log with
          published := 0, widx := 0, drained := 0, notified := 0, room := .ready, reread := false, results := []
          dropped := 0, base := w.base, capacity := w.capacity, notify := w.notify, started := true } ∧
        u.fetch.pos = some ⟨w.head, 0, .steps, 0, .header⟩ ∧ u.fetch.expected = none ∧ u.fetch.retire = [] ∧
        u.fetch.retiredSeq = 0 ∧ u.fetch.pollMs = w.pollMs ∧ ∀ o ∈ [0x24, 0x28], ∀ j < 4,
          u.hostByte (s.station + BitVec.ofNat 64 (o + j)).toNat = some 0) ∧
      (∀ w, s.run.held = some w → s.run.origin = some .fromStopped → u.disp.reach = true ∧
        u.log = { s.log with notify := w.notify } ∧ u.fetch.pollMs = w.pollMs ∧ u.fetch.pos = s.fetch.pos ∧
        u.fetch.expected = s.fetch.expected ∧ u.fetch.retire = s.fetch.retire))

/-! ## Contact -/

/-- The force lines: an assertion begins, once, for a landing that watches the line, and a drop ends it; a record that
does not watch is not touched, and nothing but the line's level and that record changes. -/
def Obligations.ForceLines : Prop :=
  ∀ (s : State) (c : Carriage),
    (∃ t, exec (.forceLineAsserted c) s = .next t ∧ t = { s with pins := t.pins, qual := t.qual } ∧
      t.pins = { s.pins with force := s.pins.force.set c true } ∧ t.qual.owed = s.qual.owed ∧
      (∀ d, d ≠ c → t.landing d = s.landing d) ∧
      ∀ l, s.landing c = some l → t.landing c = some { l with
        force := match l.force with
          | .watching since limit => if s.pins.force.get c then .watching since limit else .watching (some s.clock) limit
          | .notUsed | .qualified | .unqualified => l.force }) ∧
    ∃ t, exec (.forceLineDrops c) s = .next t ∧ t = { s with pins := t.pins, qual := t.qual } ∧
      t.pins = { s.pins with force := s.pins.force.set c false } ∧ t.qual.owed = s.qual.owed ∧
      (∀ d, d ≠ c → t.landing d = s.landing d) ∧
      ∀ l, s.landing c = some l → t.landing c = some { l with
        force := match l.force with
          | .watching _ limit => .watching none limit
          | .notUsed | .qualified | .unqualified => l.force }

/-- The times of force qualification. For a record that watches its line and whose electrical part is settled (method FORCE
with no check, FORCE_AND_ELECTRICAL with a check passed, FORCE_OR_ELECTRICAL with none requested), its partner, if any,
without a record: an assertion that lasts the filter time qualifies: the carriage is READY, its point marked ready, and with
every point ready an undecided step joins the measurement queue, which has a place for it and does not hold it (R107). At the
limit time the landing fails and the carriage lifts. Both close the record. With the partner's check still to come, the force
is QUALIFIED and the record stays. Beside a partner's open record that still watches its line, the same holds of a settled
record: the partner's record stays as it is, and after a failure that leaves a reland it waits again (R72, AL 21). While a
check of the pair is requested and not over, the filter time makes the force QUALIFIED and no more; the limit time makes that
of FORCE_OR_ELECTRICAL UNQUALIFIED and no more, and fails the landing of the other two methods: an owed or queued check is
withdrawn and the partner waits again, its own failed force or not (R72), a running one runs on. The limit time of a
FORCE_OR_ELECTRICAL landing whose partner has no record fails it too, but not while that partner has yet to land and its
method, as the model reads R70, asks for electrical evidence (AL 57): the force is UNQUALIFIED and the record waits. Without
an assertion in progress the filter time has no effect. -/
def Obligations.ForceTimes : Prop :=
  ∀ (s : State) (c : Carriage) (l : Landing), s.landing c = some l → s.pendingOf c = none →
    ((∀ d, l.partner = some d → s.landing d = none) →
      ((l.method = .force ∧ l.elec = .notUsed) ∨ (l.method = .forceAndElectrical ∧ l.elec = .passed) ∨
          (l.method = .forceOrElectrical ∧ l.elec ∈ [.notUsed, .waitingPartner]) →
        (∀ since limit, l.force = .watching (some since) limit →
          ∃ u : State, exec (.filterTimeComplete c) s = .next u.finish ∧ u.landing c = none ∧
            (u.carr c).state = .ready ∧ u.claims = s.claims ∧ (∀ x, x ≠ c → u.carr x = s.carr x) ∧
            ∀ e n, s.servedBy c = some e → e.pointOf c = some n → e.slot ∉ s.mu.measQueue → s.mu.measQueue.length < 3 →
              let all := (e.ready.set n true).all id
              u.mu = { s.mu with
                measQueue := if all ∧ e.outcome = none then s.mu.measQueue ++ [e.slot] else s.mu.measQueue } ∧
              ∀ f ∈ s.disp.window, f.slot = e.slot → ∃ g ∈ u.disp.window, g = { f with
                ready := e.ready.set n true, state := if all ∧ e.outcome = none then .measureQueued else f.state }) ∧
        let waits : Prop := l.method = .forceOrElectrical ∧
          ∃ d, l.partner = some d ∧ (s.carr d).state ≠ .ready ∧ (s.cset d).method ≠ .force
        ∀ since limit, l.force = .watching since limit →
          (¬ waits → ∃ u : State, exec (.limitTime c) s = .next u.finish ∧ u.landing c = none ∧
            (u.carr c).state = .lift ∧ (u.carr c).request = some ⟨.lift, false⟩ ∧
            (u.carr c).timer = some s.setup.liftMs) ∧
          (waits → ∃ u : State, exec (.limitTime c) s = .next u.finish ∧ u = { s with qual := u.qual } ∧
            u.landing c = some { l with force := .unqualified })) ∧
      (l.method = .forceAndElectrical → l.elec = .waitingPartner → ∀ since limit, l.force = .watching (some since) limit →
        ∃ u : State, exec (.filterTimeComplete c) s = .next u.finish ∧ u = { s with qual := u.qual } ∧
          u.landing c = some { l with force := .qualified })) ∧
    (∀ (d : Carriage) (m : Landing), l.partner = some d → d ≠ c → s.landing d = some m →
      let relands (e : Entry) : Prop := s.servedBy c = some e ∧ e.partnerOf c = some d ∧
        (s.carr c).scrubIndex < s.setup.reland ∧ ∃ p, e.nominalOf c = some p ∧
          s.setup.inField c (scrubPoint p s.setup.scrub ((s.carr c).scrubIndex + 1)) = true
      let fails : Prop := ∃ u : State, exec (.limitTime c) s = .next u.finish ∧ u.landing c = none ∧
        (u.carr c).state = .lift ∧ (u.carr c).request = some ⟨.lift, false⟩ ∧ ∀ e, relands e →
          u.landing d = some { m with elec := if m.elec = .running then .running else .waitingPartner } ∧
          (∀ p, p ∈ u.qual.owed ∨ p ∈ u.mu.checkQueue → p.force ≠ c ∧ p.sense ≠ c) ∧
          (u.carr c).scrubIndex = (s.carr c).scrubIndex + 1 ∧ u.carr d = s.carr d ∧ u.disp = s.disp
      ((l.method = .force ∧ l.elec ∈ [.notUsed, .passed]) ∨ (l.method = .forceAndElectrical ∧ l.elec = .passed) →
        m.method ∈ [.force, .forceAndElectrical] → m.elec ∈ [.notUsed, .passed] →
        (∃ since limit, m.force = .watching since limit) →
        (∀ since limit, l.force = .watching (some since) limit →
          ∃ u : State, exec (.filterTimeComplete c) s = .next u.finish ∧ u.landing c = none ∧
            (u.carr c).state = .ready ∧ u.landing d = some m ∧ u.claims = s.claims ∧
            ∀ x, x ≠ c → u.carr x = s.carr x) ∧
        ∀ since limit, l.force = .watching since limit → fails) ∧
      (l.elec ∈ [.owed, .queued, .running] →
        (∀ since limit, l.force = .watching (some since) limit →
          ∃ u : State, exec (.filterTimeComplete c) s = .next u.finish ∧ u = { s with qual := u.qual } ∧
            u.qual.owed = s.qual.owed ∧ u.landing c = some { l with force := .qualified } ∧
            ∀ x, x ≠ c → u.landing x = s.landing x) ∧
        ∀ since limit, l.force = .watching since limit →
          (l.method = .forceOrElectrical →
            ∃ u : State, exec (.limitTime c) s = .next u.finish ∧ u = { s with qual := u.qual } ∧
              u.qual.owed = s.qual.owed ∧ u.landing c = some { l with force := .unqualified } ∧
              ∀ x, x ≠ c → u.landing x = s.landing x) ∧
          (l.method ∈ [.force, .forceAndElectrical] →
            ((∃ since limit, m.force = .watching since limit) ∨ (m.method = .electrical ∧ m.force = .notUsed) ∨
              (m.method = .forceOrElectrical ∧ m.force = .unqualified)) →
            m.elec ∈ [.owed, .queued, .running] → fails))) ∧
    ∀ limit, l.force = .watching none limit → exec (.filterTimeComplete c) s = .next s

/-! ## Measurement -/

/-- The pre-check of 16 samples. With no raw code at an end (R129) and a mean at or below the limit, which for the sum A of
the corrected codes says |A| × 125 ≤ limit × 1,000 (the mean is A × 125 µV), the measurement goes on at the conversion's
gain: through a dummy conversion where a front-end transition is owed, else with the stimulus, CHARGE for CAP, and SETTLE,
SKIP or COUNT for the other kinds, whichever first has a length; that a settle or skip of no length is passed over is the
model's choice (AL 13). With a code at an end, or above the limit, RESIDUAL is raised, and under IGNORE alone it goes on. The
cut mark that the first hypothesis on it rules out, and that goes, is the model's own (AL 54). -/
def Obligations.PrecheckEnds : Prop :=
  ∀ (s : State) (codes : List Code) (e : Entry), s.mu.op = .measurement → s.mu.phase = some .precheck →
    s.inHand = some e → codes.length = 16 → s.mu.cut ≠ some (.precheck, s.clock) →
    let atEnd : Prop := ∃ k ∈ codes, k = 0x8000 ∨ k = 0x7FFF
    let mean := 125 * ((codes.map fun k => k.toInt - s.mu.z.z0).sum).natAbs
    (¬ atEnd → mean ≤ 1000 * s.setup.residualLimit →
      ∃ u : State, exec (.precheckEnd codes) s = .next u.finish ∧ u = { s with mu := u.mu, guard := u.guard } ∧
        u.mu.gain = s.mu.convGain ∧ u.mu.z = s.mu.z ∧ u.mu.op = .measurement ∧
        let owed : Prop := s.mu.lastClass ≠ some s.mu.cls ∨ s.mu.lastRange ≠ s.mu.range
        (owed → u.mu.phase = some .dummy ∧ u.mu.source = (if s.mu.range = none then .off else .load)) ∧
        (¬ owed → u.mu.source = (if e.copy.kind = .volt then .off else .board) ∧
          u.mu.phase = some (if e.copy.kind = .cap then .charge else if e.copy.settle ≠ 0 then .settle
            else if e.copy.skip ≠ 0 then .skip else .count))) ∧
    (atEnd ∨ 1000 * s.setup.residualLimit < mean →
      let raised := s.raiseCondition .residual
      let u := { raised with mu := { raised.mu with cut := none } }
      exec (.precheckEnd codes) s =
        .next (if s.setup.residualMode = .ignore then u.beginConversion e.copy else u).finish)

/-- A dummy conversion ends: last class and last range become the present ones, and the stimulus of the step or of the pair
check is applied; a calibration counts. The end of SETTLE gives SKIP or COUNT, the end of SKIP gives COUNT. That a settle or
skip of no length is passed over is the model's choice (AL 13). An end that reaches the unit after an abandonment or a
response that stopped its phase, together with it, has no effect (R119, R121); the cut mark that says so, and that such an
abandonment leaves, is the model's own (AL 54). And the arbiter's choice (R108): with no operation in hand, and not in
ABORTING (AL 20), it gives the unit the pair at the head of its queue, else the step at the head of its queue, at its gain
initial or, for a CAP step, whose gain is not read, at 0 (AL 44), else an ordered calibration; else, and with an operation in
hand, nothing. -/
def Obligations.PhasesAdvance : Prop :=
  (∀ (s : State) (e : Entry), s.mu.op = .measurement → s.mu.phase = some .dummy → s.inHand = some e →
    s.mu.cut ≠ some (.dummy, s.clock) →
    ∃ u : State, exec .dummyEnd s = .next u.finish ∧ u = { s with mu := u.mu, guard := u.guard } ∧
      u.mu.lastClass = some s.mu.cls ∧ u.mu.lastRange = s.mu.range ∧
      u.mu.source = (if e.copy.kind = .volt then .off else .board) ∧
      u.mu.phase = some (if e.copy.kind = .cap then .charge else if e.copy.settle ≠ 0 then .settle
        else if e.copy.skip ≠ 0 then .skip else .count)) ∧
  (∀ s : State, s.mu.op = .pairCheck → s.mu.phase = some .dummy → s.mu.cut ≠ some (.dummy, s.clock) →
    ∃ u : State, exec .dummyEnd s = .next u.finish ∧ u = { s with mu := u.mu, guard := u.guard } ∧
      u.mu = { s.mu with
        lastClass := some s.mu.cls, lastRange := s.mu.range, phase := some .settle, source := .board
        cut := none }) ∧
  (∀ s : State, s.mu.op = .calibration → s.mu.phase = some .dummy → s.mu.cut ≠ some (.dummy, s.clock) →
    exec .dummyEnd s = .next { s with mu := { s.mu with phase := some .count, cut := none } }) ∧
  (∀ (s : State) (e : Entry), s.mu.op = .measurement → s.mu.phase = some .settle → s.inHand = some e →
    s.mu.cut ≠ some (.settle, s.clock) →
    ∃ t, exec .settleEnd s = .next t ∧ t = { s with mu := t.mu, guard := t.guard } ∧
      t.mu = { s.mu with phase := some (if e.copy.skip = 0 then .count else .skip), cut := none } ∧
      (s.mu.source = .board → t.guard = s.guard)) ∧
  (∀ s : State, s.mu.op = .pairCheck → s.mu.phase = some .settle → s.mu.cut ≠ some (.settle, s.clock) →
    ∃ t, exec .settleEnd s = .next t ∧ t = { s with mu := t.mu, guard := t.guard } ∧
      t.mu = { s.mu with phase := some .count, cut := none } ∧ (s.mu.source = .board → t.guard = s.guard)) ∧
  (∀ s : State, s.mu.op = .measurement → s.mu.phase = some .skip →
    ∃ t, exec .skipEnd s = .next t ∧ t = { s with mu := t.mu, guard := t.guard } ∧
      t.mu = { s.mu with phase := some .count } ∧ (s.mu.source = .board → t.guard = s.guard)) ∧
  (∀ s : State,
    let gone : Host.Outcome State Fault Refusal := .next { s with mu := { s.mu with cut := none } }
    (s.mu.cut = some (.precheck, s.clock) → ∀ codes, exec (.precheckEnd codes) s = gone) ∧
    (s.mu.cut = some (.dummy, s.clock) → exec .dummyEnd s = gone) ∧
    (s.mu.cut = some (.settle, s.clock) → exec .settleEnd s = gone) ∧
    (s.mu.cut = some (.dwell, s.clock) → exec .dwellEnd s = gone) ∧
    (s.mu.cut = some (.guardDwell, s.clock) → exec .guardDwellEnd s = gone)) ∧
  (∀ (s : State) (p : Phase), s.mu.phase = some p → (∀ q, s.mu.cut ≠ some (q, s.clock)) →
    (s.mu.op = .measurement → s.abandonMeasure.mu.cut = some (p, s.clock)) ∧
    (s.mu.op = .pairCheck → s.mu.pair ≠ none → s.abandonCheck.mu.cut = some (p, s.clock))) ∧
  ∀ s : State, let t := s.arbiter
    (s.mu.op ≠ .idle ∨ s.run.state = .aborting → t = s) ∧
    (s.mu.op = .idle → s.run.state ≠ .aborting →
      (∀ p rest, s.mu.checkQueue = p :: rest →
        t.mu.op = .pairCheck ∧ t.mu.pair = some p ∧ t.mu.cls = .twoWire ∧ t.mu.range = some 3 ∧ t.mu.gain = 1 ∧
        t.mu.buses = ⟨some p.force, some p.sense, some p.force, some p.sense⟩ ∧ t.mu.measQueue = s.mu.measQueue ∧
        (∃ more, t.mu.checkQueue = rest ++ more) ∧ t.disp = s.disp ∧ t.claims = s.claims ∧
        (let owed : Prop := s.mu.lastClass ≠ some .twoWire ∨ s.mu.lastRange ≠ some 3;
          (owed → t.mu.phase = some .dummy ∧ t.mu.source = .load) ∧
          (¬ owed → t.mu.phase = some .settle ∧ t.mu.source = .board)) ∧
        ∀ c, c = p.force ∨ c = p.sense → (s.carr c).state = .check → s.run.state ≠ .halted → (t.carr c).tip = .matrix) ∧
      (∀ k rest e, s.mu.checkQueue = [] → s.mu.measQueue = k :: rest → s.entry k = some e →
        t.mu.op = .measurement ∧ t.mu.step = some k ∧ t.mu.measQueue = rest ∧ t.mu.checkQueue = [] ∧
        t.mu.cls = classOf e.copy.kind ∧ t.mu.buses = e.buses ∧ t.guard.retries = 0 ∧
        t.mu.range = (if e.copy.kind = .volt then none else some e.copy.range) ∧
        t.mu.convGain = (if e.copy.kind = .cap then 0 else e.copy.gainInit) ∧
        (e.copy.kind ≠ .volt → t.mu.phase = some .precheck ∧ t.mu.source = .off ∧ t.mu.gain = 0) ∧
        (∃ f, t.entry k = some f ∧ f.state = .measuring ∧ f.outcome = e.outcome ∧ f.copy = e.copy ∧
          ∃ r, f.eval = some r ∧ r.attempt = e.attempts + 1 ∧ r.conversions = 0 ∧ r.clippedGains = [] ∧
            r.clippedRanges = []) ∧
        (∀ c, (t.carr c).state = if c ∈ e.serving ∧ (s.carr c).state = .ready then .engaged else (s.carr c).state) ∧
        t.claims = s.claims) ∧
      (s.mu.checkQueue = [] → s.mu.measQueue = [] →
        (s.mu.calOrder = false → t = s) ∧
        (s.mu.calOrder = true → t = { s with mu := t.mu } ∧ t.mu.op = .calibration ∧ t.mu.phase = some .dummy ∧
          t.mu.gain = 0 ∧ t.mu.calOrder = false ∧ t.mu.cls = .opened ∧ t.mu.source = .off ∧ t.mu.lastClass = none ∧
          t.mu.z = s.mu.z ∧ t.mu.zAge = s.mu.zAge ∧ t.mu.calRange = s.mu.calRange)))

/-- The counted samples of a conversion end, with the n samples of R9. The value v is R132's or R133's of the sum A of the
corrected codes, or the clip value when a raw code met an end or, for a kind other than VOLT, the compliance level was
asserted. AUTORANGE may ask for a neighbouring gain (R136), and the conversion is made again at it; else it stands: FINAL
decides the outcome with the verdict of v, RETEST is held, and for a kind that owes no dwell the unit releases the step.
That the Evaluator's answer is taken in the same step, and that a settle or skip of no length is passed over in the repeat,
are the model's choices (AL 12, AL 13). -/
def Obligations.CountEnds : Prop :=
  ∀ (s : State) (e : Entry) (samples : List Sample), s.mu.op = .measurement → s.mu.phase = some .count →
    s.inHand = some e → e.outcome = none → e.copy.kind ≠ .cap → samples.length = e.copy.counted →
    let range := s.mu.range.getD e.copy.range
    let a := (samples.map fun q => q.code.toInt - s.mu.z.at_ s.mu.gain).sum
    let clipped := samples.any fun q => q.code == 0x8000 || q.code == 0x7FFF || (q.compliance && e.copy.kind != .volt)
    let clipEnd : Option ClipEnd := if clipped then some (clipEndOf e.copy.kind a) else none
    let v := match clipEnd with
      | some k => clipValue e.copy.kind range s.mu.gain 1 k
      | none => sampledValue e.copy.kind a e.copy.counted range s.mu.gain (s.pairSum e (·.lead))
    let r := (e.eval.getD e.openEval).report false ⟨v, clipEnd, s.mu.gain, range⟩
    let again := if e.copy.autorange ∧ r.conversions < 4 then
      nextGain clipped a e.copy.counted s.mu.gain e.copy.gainMin e.copy.gainMax r.clippedGains else none
    ∃ u : State, exec (.countEnd samples) s = .next u.finish ∧ u.setup = s.setup ∧ u.hostMem = s.hostMem ∧
      u.log = s.log ∧ u.mu.lastClass = some s.mu.cls ∧ u.mu.lastRange = s.mu.range ∧
      match again with
      | some g => u.mu.gain = g ∧ u.mu.convGain = g ∧ u.mu.op = .measurement ∧ u.mu.source = s.mu.source ∧
          u.mu.phase = some (if e.copy.settle ≠ 0 then .settle else if e.copy.skip ≠ 0 then .skip else .count) ∧
          ∃ f, u.entry e.slot = some f ∧ f = { e with eval := some { r with ranged := true } }
      | none =>
        let w := verdictOf e.copy.loPresent e.copy.hiPresent e.copy.lo e.copy.hi clipEnd v
        ∃ f, u.entry e.slot = some f ∧
          (if w = .pass ∨ e.copy.retest < r.attempt then
            ∃ o, f.outcome = some o ∧ o.verdict = w ∧ o.cause = .none ∧ o.value = v ∧ o.clipped = clipped ∧
              o.ranged = r.ranged ∧ o.passOnRetest = (w == .pass && decide (2 ≤ r.attempt)) ∧
              o.gain = s.mu.gain ∧ o.attempts = e.attempts + 1
          else f.outcome = none) ∧
          (e.copy.kind ∈ [.res2, .cont, .res4, .volt] ∨ s.setup.dwell = 0 →
            u.mu.op = .idle ∧ u.mu.cls = .opened ∧ u.mu.source = .off ∧
            (if w = .pass ∨ e.copy.retest < r.attempt then f.state = .lifting
              else f.state = .moving ∧ f.attempts = e.attempts + 1)) ∧
          (e.copy.kind ∈ [.iso, .diode] → s.setup.dwell ≠ 0 →
            u.mu.op = .measurement ∧ u.mu.phase = some .dwell ∧ u.mu.source = .off ∧ f.state = .discharging)

/-- A CAP charge ends by its threshold, its timer limit or compliance: the source is OFF. A threshold stop has R134's
value, the other two the clip value. AUTORANGE may ask for a neighbouring range (R137), through a discharge dwell where
one is set; else the conversion stands: FINAL decides the outcome, RETEST is held, and the dwell or the release follows.
That the Evaluator's answer is taken in the step that ends the charge is the model's choice (AL 12). -/
def Obligations.ChargeEnds : Prop :=
  ∀ (s : State) (e : Entry) (i : Instr) (stop : StopKind) (ticks : Nat), s.mu.op = .measurement →
    s.mu.phase = some .charge → s.inHand = some e → e.outcome = none → e.copy.kind = .cap →
    ((∃ k : Ticks, i = .chargeThreshold k ∧ stop = .threshold ∧ ticks = k.toNat) ∨
      (i = .timerLimit ∧ stop = .timerLimit ∧ ticks = 16777215) ∨
      ∃ k : Ticks, i = .chargeCompliance k ∧ stop = .compliance ∧ ticks = k.toNat) →
    let range := s.mu.range.getD e.copy.range
    let clipEnd : Option ClipEnd := if stop = .threshold then none else some .positive
    let v := if stop = .threshold then capacitanceValue ticks range e.copy.threshold (s.pairSum e (·.stray))
      else capacitanceClip range e.copy.threshold
    let r := (e.eval.getD e.openEval).report true ⟨v, clipEnd, s.mu.gain, range⟩
    let again := if e.copy.autorange ∧ r.conversions < 4 then nextRange stop ticks range r.clippedRanges else none
    ∃ u : State, exec i s = .next u.finish ∧ u.setup = s.setup ∧ u.hostMem = s.hostMem ∧ u.log = s.log ∧
      u.mu.source = .off ∧ u.mu.charge = ticks ∧
      match again with
      | some k => u.mu.op = .measurement ∧
          (∃ f, u.entry e.slot = some f ∧ f.eval = some { r with ranged := true } ∧ f.outcome = none) ∧
          (if s.setup.dwell = 0 then u.mu.phase = some .precheck ∧ u.mu.range = some k
            else u.mu.phase = some .dwell ∧ u.mu.dwellNext = .repeatAt k)
      | none =>
        let w := verdictOf e.copy.loPresent e.copy.hiPresent e.copy.lo e.copy.hi clipEnd v
        ∃ f, u.entry e.slot = some f ∧
          (if w = .pass ∨ e.copy.retest < r.attempt then
            ∃ o, f.outcome = some o ∧ o.verdict = w ∧ o.cause = .none ∧ o.value = v ∧ o.clipped = clipEnd.isSome ∧
              o.ranged = r.ranged ∧ o.range = range ∧ o.attempts = e.attempts + 1
          else f.outcome = none) ∧
          (if s.setup.dwell ≠ 0 then u.mu.op = .measurement ∧ u.mu.phase = some .dwell ∧
              u.mu.dwellNext = .release ∧ f.state = .discharging
            else u.mu.op = .idle ∧ u.mu.cls = .opened ∧ f.state =
              (if w = .pass ∨ e.copy.retest < r.attempt then .lifting else .moving))

/-- A dwell ends. A discharge dwell with nothing held leads to LIFTING; with a RETEST held the next attempt begins, MOVING
with its marks clear; in both the unit is free, the matrix OPEN and the source OFF, and the engaged carriages lift. A CAP
repeat and a guard dwell take the measurement up again at PRECHECK, the CAP repeat at its range. The cut mark that the
hypotheses rule out, and that goes, is the model's own (AL 54). -/
def Obligations.DwellsEnd : Prop :=
  (∀ (s : State) (e : Entry), s.mu.op = .measurement → s.mu.phase = some .dwell → s.inHand = some e →
    s.mu.dwellNext = .release → s.mu.cut ≠ some (.dwell, s.clock) →
    ∃ u : State, exec .dwellEnd s = .next u.finish ∧ u.claims = s.claims ∧ u.log = s.log ∧ u.setup = s.setup ∧
      u.mu = { s.mu.released with cut := none } ∧ u.mu.op = .idle ∧ u.mu.cls = .opened ∧ u.mu.source = .off ∧
      (∃ f, u.entry e.slot = some f ∧ f = if e.outcome = none ∧ e.retestHeld = true then
          { e with
            attempts := e.attempts + 1, arrived := List.replicate e.copy.points.length false
            ready := List.replicate e.copy.points.length false, state := .moving, retestHeld := false }
        else { e with state := .lifting }) ∧
      ∀ c, (s.carr c).state = .engaged → c ∈ e.serving → (u.carr c).state = .lift ∧
        (u.carr c).request = some ⟨.lift, false⟩ ∧ (u.carr c).timer = some s.setup.liftMs ∧
        (e.outcome ≠ none ∨ e.retestHeld = false → (u.carr c).followOn = some .free) ∧
        ∀ n p, e.outcome = none → e.retestHeld = true → e.pointOf c = some n → e.copy.points[n]? = some p →
          (u.carr c).followOn = some (.landAt p.at_ .step)) ∧
  (∀ (s : State) (e : Entry) (r : Nat), s.mu.op = .measurement → s.mu.phase = some .dwell → s.inHand = some e →
    s.mu.dwellNext = .repeatAt r → e.copy.kind = .cap → s.mu.cut ≠ some (.dwell, s.clock) →
    ∃ u : State, exec .dwellEnd s = .next u.finish ∧ u.mu.phase = some .precheck ∧ u.mu.range = some r ∧
      u.mu.source = .off ∧ u.mu.gain = 0 ∧ u.mu.dwellNext = .release ∧ u.entry e.slot = some { e with state := .measuring } ∧
      ∀ c ∈ e.serving, (s.carr c).state = .engaged → s.run.state ≠ .halted → (u.carr c).tip = .matrix) ∧
  ∀ (s : State) (e : Entry), s.mu.op = .measurement → s.mu.phase = some .guardDwell → s.inHand = some e →
    e.copy.kind ≠ .volt → s.mu.cut ≠ some (.guardDwell, s.clock) →
    ∃ u : State, exec .guardDwellEnd s = .next u.finish ∧ u.mu.phase = some .precheck ∧ u.mu.range = s.mu.range ∧
      u.mu.source = .off ∧ u.mu.gain = 0 ∧ u.entry e.slot = some { e with state := .measuring } ∧
      ∀ c ∈ e.serving, (s.carr c).state = .engaged → s.run.state ≠ .halted → (u.carr c).tip = .matrix

/-- The 16 samples of a pair check end. With A the sum of the corrected codes at gain 1, the check passes when no sample
clips and A × 3,906.25 µΩ, rounded, or 0 for a negative A, is at or below the contact limit. The unit is free, with TWO_WIRE
and range 3 as last class and range. Two partners in CHECK whose records run the check under method ELECTRICAL are both READY
after a pass; after a failure both lift. Where a partner has failed and landed again while the check ran, under method FORCE
with its force not yet decided, a failed check fails the other alone (AL 22): that one goes to its next scrub position, and
each position passed over out of field, a failed landing of kind FIELD, puts the fresh record to WAITING_PARTNER. -/
def Obligations.PairCheckEnds : Prop :=
  (∀ (s : State) (p : Pair) (samples : List Sample) (l m : Landing), s.mu.op = .pairCheck → s.mu.phase = some .count →
    s.mu.pair = some p → samples.length = 16 → s.mu.cls = .twoWire → s.mu.range = some 3 → p.force ≠ p.sense →
    s.landing p.force = some l → s.landing p.sense = some m → l.method = .electrical → m.method = .electrical →
    l.elec = .running → m.elec = .running → l.partner = some p.sense → m.partner = some p.force →
    (s.carr p.force).state = .check → (s.carr p.sense).state = .check →
    s.pendingOf p.force = none → s.pendingOf p.sense = none → s.setup.contactLimit ≤ 100000000 →
    let a := (samples.map fun q => q.code.toInt - s.mu.z.z1).sum
    let clipped := samples.any fun q => q.code == 0x8000 || q.code == 0x7FFF || q.compliance
    ∃ u : State, exec (.pairCheckCountEnd samples) s = .next u.finish ∧ u.setup = s.setup ∧ u.mu.op = .idle ∧
      u.mu.cls = .opened ∧ u.mu.source = .off ∧ u.mu.lastClass = some .twoWire ∧ u.mu.lastRange = some 3 ∧
      u.landing p.force = none ∧ u.landing p.sense = none ∧
      (if clipped = false ∧ (a < 0 ∨ divRound (a * 390625) 100 ≤ s.setup.contactLimit) then
        (u.carr p.force).state = .ready ∧ (u.carr p.sense).state = .ready
      else (u.carr p.force).state = .lift ∧ (u.carr p.sense).state = .lift ∧
        (u.carr p.force).request = some ⟨.lift, false⟩ ∧ (u.carr p.sense).request = some ⟨.lift, false⟩)) ∧
  ∀ (s : State) (p : Pair) (samples : List Sample) (x y : Carriage) (l m : Landing) (e : Entry) (q : Pos) (j : Nat),
    s.mu.op = .pairCheck → s.mu.phase = some .count → s.mu.pair = some p → samples.length = 16 →
    samples.any (·.compliance) = true → x ≠ y → (p.force = x ∧ p.sense = y) ∨ (p.force = y ∧ p.sense = x) →
    (s.carr x).state = .check → s.landing x = some l → l.elec = .running → l.method = .electrical → l.partner = some y →
    s.landing y = some m → m.elec = .notUsed → m.method = .force → (∃ a b, m.force = .watching a b) →
    s.servedBy x = some e → e.nominalOf x = some q → e.partnerOf x = some y →
    (s.carr x).scrubIndex < j → j ≤ s.setup.reland → j ≤ 3 → s.setup.inField x (scrubPoint q s.setup.scrub j) = true →
    (∀ k, (s.carr x).scrubIndex < k → k < j → s.setup.inField x (scrubPoint q s.setup.scrub k) = false) →
    ∃ u : State, exec (.pairCheckCountEnd samples) s = .next u.finish ∧ u.landing x = none ∧ (u.carr x).state = .lift ∧
      (u.carr x).scrubIndex = j ∧ (u.carr x).followOn = some (.landAt (scrubPoint q s.setup.scrub j) .scrub) ∧
      u.landing y = some { m with elec := if j = (s.carr x).scrubIndex + 1 then .notUsed else .waitingPartner }

/-- The count of one gain of a calibration. Its offset is the mean of the 1,024 codes, rounded, kept within −2,048..2,047.
Below gain 4 the next gain follows with its dummy conversion; at gain 4 the five offsets replace the Z table, the Z age is
0, cal_range says whether one was clamped, CAL is raised, and POWERUP_CAL ends in IDLE, CALIBRATING with no calibration
ordered in the state to return to. A CAL_RANGE note is offered for each clamped gain, in increasing order, and then, with a
frame open or closing, a CAL_DONE note: they join the held notes in that order where the list has room for all. -/
def Obligations.CalibrationCounts : Prop :=
  ∀ (s : State) (codes : List Code), s.mu.op = .calibration → s.mu.phase = some .count → codes.length = 1024 →
    let v := divRound (codes.map fun k => k.toInt).sum 1024
    let z := max (-2048) (min 2047 v)
    (s.mu.gain < 4 → exec (.calCountEnd codes) s = .next { s with mu := { s.mu with
      gain := s.mu.gain + 1, phase := some .dummy, newZ := s.mu.newZ ++ [z]
      newClamped := s.mu.newClamped ++ [decide (z ≠ v)] } }) ∧
    ∀ z0 z1 z2 z3, s.mu.gain = 4 → s.mu.newZ = [z0, z1, z2, z3] →
      ∃ u : State, exec (.calCountEnd codes) s = .next u.finish ∧ u.mu.op = .idle ∧ u.mu.phase = none ∧
        u.mu.z = ⟨z0, z1, z2, z3, z⟩ ∧ u.mu.zAge = 0 ∧ u.mu.calRange = (s.mu.newClamped.any id || decide (z ≠ v)) ∧
        u.regs = { s.regs with intStatus := s.regs.intStatus ||| 32 } ∧ u.setup = s.setup ∧ u.claims = s.claims ∧
        u.carriages = s.carriages ∧ u.frame = s.frame ∧ u.nets = s.nets ∧
        (s.run.state = .powerupCal → u.run.state = .idle) ∧
        (s.run.state = .calibrating → s.mu.calOrder = false → s.run.ret = some .stopped → u.run.state = .stopped) ∧
        (s.run.state = .calibrating → s.mu.calOrder = false → s.run.ret = some .idle → u.run.state = .idle) ∧
        (∀ c0 c1 c2 c3, s.mu.newClamped = [c0, c1, c2, c3] →
          let clamped := [c0, c1, c2, c3, decide (z ≠ v)]
          let notes : List Note :=
            ((List.range 5).filter fun g => clamped.getD g false).map (fun g => ⟨.calRange, none, g, 0, 0, 0⟩) ++
              if s.frame.state = .none then [] else [⟨.calDone, none, 0, 0, 0, 0⟩]
          s.log.notes.length + notes.length ≤ 8 → u.log = { s.log with
            notes := s.log.notes ++ notes.mapIdx fun i n => ⟨n, s.log.offers + i⟩
            offers := s.log.offers + notes.length }) ∧
        (s.run.state ∉ [.powerupCal, .calibrating] → u.run = s.run)

/-! ## The Source Guard -/

/-- The overload comparators: a comparator that is watched starts its timer when it is asserted, and a fall stops the timer
and clears the raised mark. The deglitch time, completing while the timer runs, sets the mark, stops the timer and raises the
comparator's condition; with no timer running it has no effect of its own. A completion taken together with the end of the
watching it timed in has none either (R148, R156); the cut mark that says so is the model's own (AL 46).

The watch: both comparators while the source is in BOARD, the sense comparator alone in DWELL and GUARD_DWELL. A change of
the unit from BOARD to BOARD leaves the run as it is. At any other change both timers stop and both raised marks are cleared,
and a comparator asserted and watched then starts its timer afresh. A timer so stopped leaves its cut mark; one from before a
PRECHECK or DUMMY, in which nothing is watched, goes at that phase's end (AL 46). So it is at the ends of SETTLE, SKIP,
DUMMY, COUNT and CHARGE: the end of COUNT of a conversion that is made again keeps the run, that of a pair check ends it. -/
def Obligations.Comparators : Prop :=
  let dwells (q : Option Phase) : Bool := q == some .dwell || q == some .guardDwell
  let after (s : State) (m : MeasUnit) : Guard :=
    let cut (timer mark : Option Nat) : Option Nat := if timer ≠ none then some s.clock
      else if s.mu.phase = some .precheck ∨ s.mu.phase = some .dummy then none else mark
    if s.mu.source = .board ∧ m.source = .board then s.guard else { s.guard with
      senseTimer := if (m.source = .board ∨ dwells m.phase = true) ∧ s.pins.sense = true then some s.clock else none
      sourceTimer := if m.source = .board ∧ s.pins.source = true then some s.clock else none
      senseRaised := false, sourceRaised := false
      senseCut := cut s.guard.senseTimer s.guard.senseCut, sourceCut := cut s.guard.sourceTimer s.guard.sourceCut }
  (∀ u : MeasUnit, (u.watchesSense = true ↔ u.source = .board ∨ dwells u.phase = true) ∧
    (u.watchesSource = true ↔ u.source = .board)) ∧
  (∀ (s : State) (f : MeasUnit → MeasUnit), s.muStep f = { s with mu := f s.mu, guard := after s (f s.mu) }) ∧
  (∀ (s : State) (i : Instr), (∀ q, s.mu.cut ≠ some (q, s.clock)) →
    s.mu.op = .pairCheck ∨ (s.mu.op = .measurement ∧ s.inHand ≠ none) →
    (i = .settleEnd ∧ s.mu.phase = some .settle) ∨ (i = .skipEnd ∧ s.mu.phase = some .skip ∧ s.mu.op = .measurement) →
    ∃ u : State, exec i s = .next u ∧ u.guard = after s u.mu ∧ u.mu.source = s.mu.source ∧ u.mu.phase ≠ s.mu.phase) ∧
  (∀ (s : State) (i : Instr), (∀ q, s.mu.cut ≠ some (q, s.clock)) →
    (s.mu.op = .pairCheck ∧ ((i = .dummyEnd ∧ s.mu.phase = some .dummy) ∨
      ((∃ q, i = .pairCheckCountEnd q) ∧ s.mu.phase = some .count ∧ s.mu.pair ≠ none))) ∨
    (s.mu.op = .measurement ∧ ∃ e, s.inHand = some e ∧ ((i = .dummyEnd ∧ s.mu.phase = some .dummy) ∨
      ((∃ q, i = .countEnd q) ∧ s.mu.phase = some .count) ∨
      ((∃ k, i = .chargeThreshold k) ∧ s.mu.phase = some .charge ∧ e.copy.kind = .cap))) →
    ∃ u : State, exec i s = .next u.finish ∧ u.guard = after s u.mu) ∧
  (∀ s : State, exec (.comparatorAsserted .sense) s = .next { s with
    pins := { s.pins with sense := true }
    guard := { s.guard with
      senseTimer := if s.mu.watchesSense = true ∧ s.pins.sense = false then some s.clock else s.guard.senseTimer } }) ∧
  (∀ s : State, exec (.comparatorAsserted .source) s = .next { s with
    pins := { s.pins with source := true }
    guard := { s.guard with
      sourceTimer := if s.mu.watchesSource = true ∧ s.pins.source = false then some s.clock
        else s.guard.sourceTimer } }) ∧
  (∀ s : State, exec (.comparatorFalls .sense) s = .next { s with
    pins := { s.pins with sense := false }
    guard := { s.guard with senseTimer := none, senseRaised := false, senseCut := none } }) ∧
  (∀ s : State, exec (.comparatorFalls .source) s = .next { s with
    pins := { s.pins with source := false }
    guard := { s.guard with sourceTimer := none, sourceRaised := false, sourceCut := none } }) ∧
  (∀ (s : State) (n : Nat), s.guard.senseTimer = some n → s.guard.senseCut ≠ some s.clock →
    exec (.deglitchComplete .sense) s = .next (State.raiseCondition .senseOver { s with
      guard := { s.guard with senseTimer := none, senseRaised := true } }).finish) ∧
  (∀ (s : State) (n : Nat), s.guard.sourceTimer = some n → s.guard.sourceCut ≠ some s.clock →
    exec (.deglitchComplete .source) s = .next (State.raiseCondition .sourceOver { s with
      guard := { s.guard with sourceTimer := none, sourceRaised := true } }).finish) ∧
  (∀ s : State, s.guard.senseTimer = none → s.guard.senseCut ≠ some s.clock →
    exec (.deglitchComplete .sense) s = .next s.finish) ∧
  (∀ s : State, s.guard.sourceTimer = none → s.guard.sourceCut ≠ some s.clock →
    exec (.deglitchComplete .source) s = .next s.finish) ∧
  (∀ s : State, s.guard.senseCut = some s.clock → exec (.deglitchComplete .sense) s = .next
    (State.finish { s with guard := { s.guard with senseCut := none } })) ∧
  ∀ s : State, s.guard.sourceCut = some s.clock → exec (.deglitchComplete .source) s = .next
    (State.finish { s with guard := { s.guard with sourceCut := none } })

/-- A condition raised in a phase of a measurement that is no dwell: its flag is set; a GUARD_EVENT note carries the
condition and the response, with the step's tag and sequence, when the held-note list has a place; and the response acts.
IGNORE marks the step and goes on. RETRY counts, puts the step in DISCHARGING and dwells; with three retries spent it acts as
REPORT, under code 4. REPORT ends the step ERROR with cause GUARD. LATCH does so too, halts the controller, raises FAULT,
isolates every tip and empties both pending lists, freeing no lane. In a dwell IGNORE sets no mark, RETRY begins the dwell in
hand again, leaving the mark by which an end of the stopped one has no effect (AL 54), and REPORT lets a discharge dwell run
on to the release, a step already decided keeping its outcome. In a pair check, answered by the overload mode and not
retried, IGNORE lets the check run on, RETRY and REPORT abandon it and fail both partners whose records run it, LATCH halts.
With neither in hand nothing is raised. Any response but IGNORE clears both raised marks.

Under LATCH, from either, with no pending entry of the carriages of the step in measurement: every other step in MOVING,
LANDING or MEASURE_QUEUED without an outcome ends ERROR, HALTED, and leaves the measurement queue; every other step keeps its
state and outcome. A carriage in CHECK, READY or ENGAGED lifts with follow-on FREE, the landing record of one in CHECK
removed; one in CLAIM_WAIT is IDLE; one that moves or descends goes on, marked ended; one in LIFT goes on with follow-on
FREE; one OFF, HOMING, IDLE or in FAULT stays. No park of STOP is owed; that one of a BOARD_END not yet issued goes too is AL
27. -/
def Obligations.GuardResponses : Prop :=
  (∀ (s : State) (k : Condition), s.mu.op ≠ .measurement → s.mu.op ≠ .pairCheck → s.raiseCondition k = s) ∧
  (∀ (s : State) (k : Condition) (p : Pair) (ph : Phase) (l m : Landing), s.mu.op = .pairCheck →
    s.mu.phase = some ph → s.mu.pair = some p → p.force ≠ p.sense →
    s.landing p.force = some l → s.landing p.sense = some m → l.elec = .running → m.elec = .running →
    l.partner = some p.sense → m.partner = some p.force →
    (s.carr p.force).state = .check → (s.carr p.sense).state = .check →
    s.pendingOf p.force = none → s.pendingOf p.sense = none →
    let base := match k with
      | .residual => 16
      | .senseOver => 32
      | .sourceOver => 48
    let code := match s.setup.overloadMode with
      | .ignore => 0
      | .retry => 1
      | .report => 2
      | .latch => 3
    let u := s.raiseCondition k
    (match k with
      | .residual => u.guard.residual
      | .senseOver => u.guard.senseOver
      | .sourceOver => u.guard.sourceOver) = true ∧
    (s.log.notes.length < 8 → ∀ e, s.entry p.slot = some e → u.log.notes = s.log.notes ++
      [⟨⟨.guardEvent, none, base + code, e.copy.tag, e.copy.seq, 0⟩, s.log.offers⟩]) ∧
    u.guard.retries = s.guard.retries ∧ u.setup = s.setup ∧ u.nets = s.nets ∧
    (code = 0 → u = { s with guard := u.guard, log := u.log }) ∧
    (1 ≤ code → u.guard.senseRaised = false ∧ u.guard.sourceRaised = false ∧ u.guard.senseTimer = none ∧
      u.guard.sourceTimer = none ∧
      u.mu.op = .idle ∧ u.mu.cls = .opened ∧ u.mu.source = .off ∧ u.mu.lastClass = none ∧
      u.landing p.force = none ∧ u.landing p.sense = none ∧
      (u.carr p.force).state = .lift ∧ (u.carr p.sense).state = .lift) ∧
    (code = 1 ∨ code = 2 → u.run = s.run) ∧ (code = 3 → u.run.state = .halted ∧ ∀ c, (u.carr c).tip = .isolated)) ∧
  (∀ (s : State) (k : Condition) (e : Entry) (ph : Phase), s.mu.op = .measurement → s.mu.phase = some ph →
    ph = .dwell ∨ ph = .guardDwell → s.inHand = some e → (ph = .guardDwell → e.retestHeld = false) →
    let mode := match k with
      | .residual => s.setup.residualMode
      | .senseOver | .sourceOver => s.setup.overloadMode
    let u := s.raiseCondition k
    (mode = .ignore → u = { s with guard := u.guard, log := u.log }) ∧
    (mode ≠ .ignore → u.guard.senseRaised = false ∧ u.guard.sourceRaised = false ∧ u.guard.sourceTimer = none) ∧
    (mode = .retry → s.guard.retries < 3 → u.mu.phase = some ph ∧ u.mu.op = .measurement ∧ u.mu.source = .off ∧
      u.guard.retries = s.guard.retries + 1 ∧ u.run = s.run ∧ u.entry e.slot = some { e with state := .discharging } ∧
      (ph = .dwell → u.mu.dwellNext = s.mu.dwellNext) ∧
      ((∀ q, s.mu.cut ≠ some (q, s.clock)) → u.mu.cut = some (ph, s.clock))) ∧
    ((mode = .retry ∧ 3 ≤ s.guard.retries) ∨ mode = .report → u.run = s.run ∧ u.guard.retries = s.guard.retries ∧
      ∃ f, u.entry e.slot = some f ∧ (e.outcome ≠ none → f.outcome = e.outcome) ∧
        (e.outcome = none → f.retestHeld = false ∧ ∃ o, f.outcome = some o ∧ o.verdict = .error ∧ o.cause = .guard ∧
          o.value = 0 ∧ o.attempts = e.attempts + 1) ∧
        (ph = .dwell → u.mu.op = .measurement ∧ u.mu.phase = some .dwell ∧ u.mu.dwellNext = .release ∧
          u.mu.step = s.mu.step ∧ u.mu.source = s.mu.source ∧ f.state = e.state) ∧
        (ph = .guardDwell → if s.setup.dwell ≠ 0 then u.mu.phase = some .dwell ∧ u.mu.dwellNext = .release ∧
          f.state = .discharging else u.mu.op = .idle ∧ f.state = .lifting)) ∧
    (mode = .latch → u.run.state = .halted ∧ u.mu.op = .idle ∧ u.mu.cls = .opened ∧ ∀ c, (u.carr c).tip = .isolated)) ∧
  (∀ (s : State) (k : Condition), (s.disp.window.map (·.slot)).Nodup → s.mu.phase ≠ none →
    (let mode := match k with
        | .residual => s.setup.residualMode
        | .senseOver | .sourceOver => s.setup.overloadMode;
      (s.mu.op = .pairCheck ∧ s.mu.pair ≠ none ∧ s.setup.overloadMode = .latch) ∨
      (s.mu.op = .measurement ∧ mode = .latch ∧
        ∃ e, s.inHand = some e ∧ ∀ c, some c ∈ e.assignment → s.pendingOf c = none)) →
    let held (n : Nat) : Prop := s.mu.op = .measurement ∧ s.mu.step = some n
    let u := s.raiseCondition k
    let lifts (c : Carriage) : Prop := (u.carr c).state = .lift ∧ (u.carr c).followOn = some .free ∧
      (u.carr c).request = some ⟨.lift, false⟩ ∧ (u.carr c).timer = some s.setup.liftMs
    (∀ f ∈ s.disp.window, ¬ held f.slot →
      ∃ g, u.entry f.slot = some g ∧ g.copy = f.copy ∧ g.overtake = f.overtake ∧
        if f.outcome = none ∧ f.state ∈ [.moving, .landing, .measureQueued] then
          g.state = .lifting ∧ f.slot ∉ u.mu.measQueue ∧ ∃ o, g.outcome = some o ∧ o.verdict = .error ∧
            o.cause = .halted ∧ o.value = 0 ∧ o.attempts = f.attempts + 1 ∧ o.carriages = f.lastCarriages ∧
            o.duration = f.duration s.clock
        else g.state = f.state ∧ g.outcome = f.outcome) ∧
    (∀ c, match (s.carr c).state with
      | .off | .homing | .idle | .fault =>
        (u.carr c).state = (s.carr c).state ∧ (u.carr c).request = (s.carr c).request
      | .travel => match (s.carr c).phase with
        | some .claimWait => (u.carr c).state = .idle ∧ (u.carr c).service = none
        | some .moving | some .halting | none => u.carr c = { s.carr c with ended := true, tip := .isolated }
      | .descend => u.carr c = { s.carr c with ended := true, tip := .isolated }
      | .check => lifts c ∧ u.landing c = none
      | .ready | .engaged => lifts c
      | .lift => u.carr c = { s.carr c with followOn := some .free, tip := .isolated }) ∧
    u.run.runPark = .both .none ∧
    ∀ d, u.run.framePark.get d = if s.run.framePark.get d = .due then .none else s.run.framePark.get d) ∧
  ∀ (s : State) (k : Condition) (e : Entry) (ph : Phase), s.mu.op = .measurement → s.mu.phase = some ph →
    ph ≠ .dwell → ph ≠ .guardDwell → s.inHand = some e → e.outcome = none → e.retestHeld = false →
    let mode := match k with
      | .residual => s.setup.residualMode
      | .senseOver | .sourceOver => s.setup.overloadMode
    let base := match k with
      | .residual => 16
      | .senseOver => 32
      | .sourceOver => 48
    let code := match mode with
      | .ignore => 0
      | .retry => if s.guard.retries < 3 then 1 else 4
      | .report => 2
      | .latch => 3
    let u := s.raiseCondition k
    (match k with
      | .residual => u.guard.residual
      | .senseOver => u.guard.senseOver
      | .sourceOver => u.guard.sourceOver) = true ∧
    (s.log.notes.length < 8 → u.log.notes = s.log.notes ++
      [⟨⟨.guardEvent, none, base + code, e.copy.tag, e.copy.seq, 0⟩, s.log.offers⟩]) ∧
    (∀ (d : Side) (n : Nat) (x : Carriage), (s.table d).cells[n]? = some (some x) → (u.table d).cells[n]? = some (some x)) ∧
    u.setup = s.setup ∧ u.nets = s.nets ∧
    (code ≠ 0 → u.guard.senseRaised = false ∧ u.guard.sourceRaised = false ∧ u.guard.sourceTimer = none) ∧
    ∃ f, u.entry e.slot = some f ∧
      (code = 0 → u.mu = s.mu ∧ u.run = s.run ∧
        f = { e with eval := e.eval.map fun v => { v with guardIgnored := true } }) ∧
      (code = 1 → u.mu.phase = some .guardDwell ∧ u.mu.source = .off ∧ u.guard.retries = s.guard.retries + 1 ∧
        u.run = s.run ∧ f = { e with state := .discharging }) ∧
      (2 ≤ code → ∃ o, f.outcome = some o ∧ o.verdict = .error ∧ o.cause = .guard ∧ o.value = 0 ∧
        o.attempts = e.attempts + 1) ∧
      (code = 2 ∨ code = 4 → u.run = s.run ∧ u.mu.source = .off ∧ if s.setup.dwell ≠ 0 then u.mu.phase = some .dwell ∧
        f.state = .discharging else u.mu.op = .idle ∧ f.state = .lifting) ∧
      (code = 3 → u.run.state = .halted ∧ u.mu.op = .idle ∧ u.mu.cls = .opened ∧ u.mu.source = .off ∧
        u.regs = { s.regs with intStatus := s.regs.intStatus ||| 8 } ∧ (∀ c, (u.carr c).tip = .isolated) ∧
        ∀ d, (u.table d).pend = [])

/-! ## Host memory: START's reads, the chain -/

/-- START's two reads. The Station Block's values are taken with the corrections of R173. The setup record's are taken with
those of R200: a record that fails a field or park test refuses the START, back in the return state with the setup in force
and the carriages as they were; one that passes takes force, and every carriage waits to be set. That a link wait ends with
the change back to the return state is AL 25. The tests: R21's four, and R37's, that every park x lies in the field and the
park spans are disjoint and rise with the carriage, for the enabled carriages of each side. -/
def Obligations.StartReads : Prop :=
  (∀ t : Setup, t.valid = true ↔ ∀ d : Side,
    let f := t.fields.get d
    let w := 250 * t.laneFactor
    let on (c : Carriage) : Bool := sideOf c == d && (t.carriages.get c).enabled
    let park (c : Carriage) : Nat := (t.carriages.get c).parkX
    let span (c : Carriage) : Interval := t.span c ((park c - f.start) / w)
    f.start % w = 0 ∧ (f.start < f.stop ∧ f.stop ≤ 655360) ∧
    w * ((allCarriages.filter on).map fun c => 2 * (t.carriages.get c).guard + 1).sum ≤ f.stop - f.start ∧
    f.stop ≤ f.start + 128 * w ∧
    (∀ c, on c = true → f.start ≤ park c ∧ park c < f.stop) ∧
    ∀ c x, on c = true → on x = true → driveNumber c < driveNumber x → (span c).hi < (span x).lo) ∧
  ∀ (s : State) (b : List Byte), s.run.state = .starting →
    (s.run.stage = some .stationBlock → ∃ v : StationValues,
      exec (.stationBlockRead b) s = .next { s with run := { s.run with held := some v, stage := some .setupRecord } } ∧
      v.head = BitVec.ofNat 64 (fieldAt b 0x00 8) &&& ~~~7 ∧ v.setupAddr = BitVec.ofNat 64 (fieldAt b 0x08 8) &&& ~~~7 ∧
      v.base = BitVec.ofNat 64 (fieldAt b 0x10 8) &&& ~~~31 ∧
      v.capacity = max 64 (min 1048576 (fieldAt b 0x18 4)) ∧ v.notify = max 1 (min 256 (fieldAt b 0x20 2)) ∧
      v.pollMs = byteAt b 0x22) ∧
    (s.run.stage = some .setupRecord → (parseSetup b).valid = true → exec (.setupRecordRead b) s = .next
      (State.finish { s with
        setup := parseSetup b
        run := { s.run with stage := some .answers, unset := allCarriages, answers := .all none } })) ∧
    (s.run.stage = some .setupRecord → (parseSetup b).valid = false → ∃ t, exec (.setupRecordRead b) s = .next t ∧
      t = { s with run := t.run, hostMem := s.mirrored t, fetch := { s.fetch with waiting := false } } ∧
      t.run = { s.run with
        state := t.run.state, setupInvalid := true, last := .refused, ret := none, origin := none, saved := none
        stage := none, held := none, unset := [], answers := .all none, homeIssued := .both false } ∧
      t.run.state = (if s.run.ret = some .stopped then .stopped else .idle))

/-- Every value of a corrected setup record is its field's, little-endian at its offset, in its range (R200): a value in
range as it is, one below or above as the nearer bound, a code not listed as the default. The lane factor, the timeouts, the
z limit, relands and scrub, filter times, limits, dwells, response modes and the two fields, which no correction touches,
from the global part; and, from the carriage's block of 32 bytes, in the order of the drive numbers from 0x40 on, its tip
offset, park point, guard, method, filter, lead and stray, with its enable bit from the global part. -/
def Obligations.SetupValuesInRange : Prop :=
  (∀ b : List Byte, let t := parseSetup b
    let near (lo hi n : Nat) : Nat := if n < lo then lo else if hi < n then hi else n
    let nearInt (lo hi n : Int) : Int := if n < lo then lo else if hi < n then hi else n
    let mode (n : Nat) : GuardMode := if n = 1 then .retry else if n = 2 then .report else if n = 3 then .ignore else .latch
    t.laneFactor = near 1 20 (byteAt b 0x00) ∧ t.moveMs = near 1 4000 (fieldAt b 0x02 2) ∧
    t.descendMs = near 1 1000 (fieldAt b 0x04 2) ∧ t.liftMs = near 1 1000 (fieldAt b 0x06 2) ∧
    t.zLimit = near 0 3000 (fieldAt b 0x08 2) ∧ t.reland = near 0 3 (byteAt b 0x0A) ∧ t.scrub = near 0 200 (byteAt b 0x0B) ∧
    t.filter0 = near 1 255 (byteAt b 0x0C) ∧ t.filter1 = near 1 255 (byteAt b 0x0D) ∧
    t.filter2 = near 1 255 (byteAt b 0x0E) ∧ t.filter3 = near 1 255 (byteAt b 0x0F) ∧
    t.contactLimit = near 100000 100000000 (fieldAt b 0x10 4) ∧ t.dwell = near 0 1000 (fieldAt b 0x14 2) ∧
    t.residualLimit = near 100 10000 (fieldAt b 0x16 2) ∧ t.residualMode = mode (byteAt b 0x18) ∧
    t.overloadMode = mode (byteAt b 0x19) ∧
    t.deglitch = (match byteAt b 0x1A with
      | 0 => 2
      | 1 => 5
      | 2 => 10
      | _ => 50) ∧
    t.retryDwell = (if byteAt b 0x1B = 0 then 1000 else 20000) ∧
    t.fields.top = ⟨fieldAt b 0x20 4, fieldAt b 0x24 4⟩ ∧ t.fields.bottom = ⟨fieldAt b 0x28 4, fieldAt b 0x2C 4⟩ ∧
    ∀ c, let k := t.carriages.get c
      let o := 0x40 + 32 * (driveNumber c - 1)
      k.enabled = Nat.testBit (byteAt b 0x01) (driveNumber c - 1) ∧
      k.tipOffset = nearInt (-20000) 20000 (signedAt b o 4) ∧ k.parkX = fieldAt b (o + 0x04) 4 ∧
      (k.parkY : Int) = nearInt 0 500000 (signedAt b (o + 0x08) 4) ∧ k.guard = near 0 7 (byteAt b (o + 0x0C)) ∧
      k.method = (match byteAt b (o + 0x0D) with
        | 1 => .electrical
        | 2 => .forceAndElectrical
        | 3 => .forceOrElectrical
        | _ => .force) ∧
      k.filter = byteAt b (o + 0x0E) % 4 ∧
      t.filterTime c = (if k.filter = 0 then t.filter0 else if k.filter = 1 then t.filter1
        else if k.filter = 2 then t.filter2 else t.filter3) ∧
      k.lead = near 0 10000000 (fieldAt b (o + 0x10) 4) ∧ k.stray = near 0 100000 (fieldAt b (o + 0x14) 4)) ∧
  ∀ b : List Byte, let t := parseSetup b
    (1 ≤ t.laneFactor ∧ t.laneFactor ≤ 20) ∧ (1 ≤ t.moveMs ∧ t.moveMs ≤ 4000) ∧
    (1 ≤ t.descendMs ∧ t.descendMs ≤ 1000) ∧ (1 ≤ t.liftMs ∧ t.liftMs ≤ 1000) ∧ t.zLimit ≤ 3000 ∧ t.reland ≤ 3 ∧
    t.scrub ≤ 200 ∧ (100000 ≤ t.contactLimit ∧ t.contactLimit ≤ 100000000) ∧ t.dwell ≤ 1000 ∧
    (100 ≤ t.residualLimit ∧ t.residualLimit ≤ 10000) ∧ t.deglitch ∈ [2, 5, 10, 50] ∧ t.retryDwell ∈ [1000, 20000] ∧
    ∀ c, (1 ≤ t.filterTime c ∧ t.filterTime c ≤ 255) ∧
      let k := t.carriages.get c
      (-20000 ≤ k.tipOffset ∧ k.tipOffset ≤ 20000) ∧ k.parkY ≤ 500000 ∧ k.guard ≤ 7 ∧ k.filter ≤ 3 ∧
      k.lead ≤ 10000000 ∧ k.stray ≤ 100000 ∧ k.enabled = Nat.testBit (byteAt b 1) (driveNumber c - 1)

/-- A header read completes; one that an ABORT has voided has no effect of its own, and with no header read in progress there
is nothing to complete (AL 1). Not voided: the first check it fails breaks the chain with its code: wrong sequence, unknown
kind, STEPS with no frame open. Accepted, it joins the retire list with what it owes, the fetch sequence is written, the
expected sequence is one more, and the phase follows its kind and count; a BOARD_BEGIN's FRAME_START is due, closing an open
frame first; a BOARD_END closes an open frame with its PARK flag. A board segment holds the Fetcher for the frame entry it
closes or opens with; a BOARD_END with no frame open, for the park that its PARK flag makes at once in RUNNING or DRAINING.
Of the body of a BOARD_BEGIN the board serial, plan tag and net image address are taken as they stand; the net count, of 0 as
1 and above 4,096 as 4,096; each of the four offsets, outside ±5,000 µm, as the nearer bound, with its mark, 1, 2, 4 or 8, in
the code of the OFFSET_CLAMPED note; and the sequence is the header's. -/
def Obligations.HeaderChecked : Prop :=
  (∀ b : List Byte, let n := parseBoardBegin b
    let near (v : Int) : Int := if v < -5000 then -5000 else if 5000 < v then 5000 else v
    let mark (v : Int) (m : Nat) : Nat := if v < -5000 ∨ 5000 < v then m else 0
    let nets := fieldAt b 0x1C 2
    n.serial = BitVec.ofNat 64 (fieldAt b 0x10 8) ∧ n.planTag = BitVec.ofNat 32 (fieldAt b 0x18 4) ∧
    n.netCount = (if nets = 0 then 1 else if 4096 < nets then 4096 else nets) ∧
    n.offsets.top = ⟨near (signedAt b 0x20 4), near (signedAt b 0x24 4)⟩ ∧
    n.offsets.bottom = ⟨near (signedAt b 0x28 4), near (signedAt b 0x2C 4)⟩ ∧
    n.imageAddr = BitVec.ofNat 64 (fieldAt b 0x30 8) ∧ n.seq = BitVec.ofNat 32 (fieldAt b 0x00 4) ∧
    n.clampMarks = mark (signedAt b 0x20 4) 1 + mark (signedAt b 0x24 4) 2 + mark (signedAt b 0x28 4) 4 +
      mark (signedAt b 0x2C 4) 8) ∧
  (∀ (s : State) (b : List Byte),
    (∀ g, s.fetch.reading = some ⟨.header, true, g⟩ → exec (.headerRead b) s = .next
      (State.finish { s with fetch := { s.fetch with reading := none } })) ∧
    ((∀ v g, s.fetch.reading ≠ some ⟨.header, v, g⟩) → exec (.headerRead b) s = .next s)) ∧
  ∀ (s : State) (b : List Byte) (p : FetchPos) (g : Bool), s.fetch.reading = some ⟨.header, false, g⟩ →
    s.fetch.pos = some p →
    let seq : Word32 := BitVec.ofNat 32 (fieldAt b 0 4)
    let kind := segmentKindOf (byteAt b 4)
    let code := if s.fetch.expected ≠ none ∧ s.fetch.expected ≠ some seq then 1 else if kind = none then 2
      else if kind = some .steps ∧ s.frame.state ≠ .opened then 3 else 0
    ∃ u : State, exec (.headerRead b) s = .next u.finish ∧ u.setup = s.setup ∧ u.claims = s.claims ∧
      u.carriages = s.carriages ∧ u.disp = s.disp ∧ u.nets = s.nets ∧ u.fetch.reading = none ∧
      (code ≠ 0 → u.fetch.broken = true ∧ u.fetch.pos = some { p with phase := .header } ∧
        u.fetch.expected = s.fetch.expected ∧ u.fetch.retire = s.fetch.retire ∧ u.run.chainBreak = true ∧
        u.regs.intStatus = s.regs.intStatus ||| 8 ∧
        u.run.state = (if s.run.state = .running then .draining else s.run.state) ∧
        (s.log.notes.length < 8 → u.log.notes = s.log.notes ++
          [⟨⟨.chainBreak, none, code, 0, seq, 0⟩, s.log.offers⟩])) ∧
      (code = 0 → ∃ k, kind = some k ∧ u.fetch.expected = some (seq + 1) ∧
        u.fetch.pos = some { p with
          seq := seq, kind := k, count := if k = .steps then byteAt b 5 else 0
          phase := if k = .steps ∧ byteAt b 5 ≠ 0 then .records 0 else .link } ∧
        u.fetch.retire = s.fetch.retire ++ [⟨seq, k, false, match k with
          | .steps => byteAt b 5
          | .boardBegin => 1
          | .boardEnd => if s.frame.state = .opened then 1 else 0⟩] ∧
        (∀ j < 4, u.hostByte (s.station + 0x2C + BitVec.ofNat 64 j).toNat = some (seq.extractLsb' (8 * j) 8)) ∧
        match k with
        | .steps => u.frame = s.frame ∧ u.log = s.log ∧ u.fetch.hold = none
        | .boardBegin => u.log = { s.log with due := some (parseBoardBegin b) } ∧ u.fetch.hold = some .frameStart ∧
            u.frame = (if s.frame.state = .opened then
              { s.frame with state := .closing, reason := some .nextBegin, parkOnClose := false } else s.frame) ∧
            (s.frame.state = .none → u.mu.calOrder = (s.mu.calOrder || s.run.pendingCal) ∧ u.run.pendingCal = false)
        | .boardEnd => u.log = s.log ∧
            u.frame = (if s.frame.state = .opened then { s.frame with
              state := .closing, reason := some .boardEnd, parkOnClose := Nat.testBit (byteAt b 0x10) 0 } else s.frame) ∧
            (s.frame.state = .opened → u.fetch.hold = some .frameEnd ∧ u.run.framePark = s.run.framePark) ∧
            (s.frame.state ≠ .opened →
              let parks : Prop := Nat.testBit (byteAt b 0x10) 0 = true ∧ s.run.state ∈ [.running, .draining]
              (parks → u.fetch.hold = some .park ∧ u.run.framePark = .both .due) ∧
              (¬ parks → u.fetch.hold = none ∧ u.run.framePark = s.run.framePark)))

/-- A record read completes; one that an ABORT has voided has no effect of its own, and with no record read in progress there
is nothing to complete (AL 1). Not voided, with a free slot: the step takes the lowest free slot as the admitted copy, with
its segment's sequence and the open frame's offsets and net count. With every check passed it is WAITING with overtake count
0; else it is HELD, ERROR, with the cause of the failed check, the value 256 × its number + the slot of its first failing
point, or 0, and the gain and range as read. The copy holds the record's fields, each point as its machine point, the board
point moved by its side's offset of the open frame, and, with checks 1 to 9 passed, the four clamps of R16, with the mark
STEP_CLAMPED if one changed a field. Check 10 fails at the first point in slot order that is in field for no carriage of its
side, enabled or not; check 11 is the reachability test. The index advances, or the phase becomes LINK after the last record.
Refill, by the slots then occupied, becomes active below 12, inactive at 16, and stays between. -/
def Obligations.RecordAdmitted : Prop :=
  (∀ (s : State) (b : List Byte),
    (∀ g, s.fetch.reading = some ⟨.record, true, g⟩ → exec (.recordRead b) s = .next
      (State.finish { s with fetch := { s.fetch with reading := none } })) ∧
    ((∀ v g, s.fetch.reading ≠ some ⟨.record, v, g⟩) → exec (.recordRead b) s = .next s)) ∧
  (∀ (s : State) (r : RawStep) (seq : Word32),
    let j := s.judge r seq
    let c := r.copy true seq s.frame.offsets s.frame.netCount
    let out (i : Nat) : Prop := ∃ p, c.points[i]? = some p ∧ ∀ x, sideOf x = p.side →
      let field := s.setup.fields.get p.side
      let gantry := p.at_.x - (s.cset x).tipOffset
      ¬ (field.start ≤ p.at_.x ∧ p.at_.x < field.stop ∧ field.start ≤ gantry ∧ gantry < field.stop ∧
        0 ≤ p.at_.y ∧ p.at_.y ≤ 500000)
    (∀ n i, r.failing s.frame.netCount = some (n, i) →
      j = (r.copy false seq s.frame.offsets s.frame.netCount, some (.badStep, 256 * (n : Int) + i))) ∧
    (r.failing s.frame.netCount = none → j.1 = c ∧
      (∀ i, out i → (∀ h < i, ¬ out h) → j.2 = some (.outOfField, 256 * 10 + (i : Int))) ∧
      ((∀ i, ¬ out i) → (∀ k, s.unreachable c = some k → j.2 = some (k, 256 * 11)) ∧
        (s.unreachable c = none → j.2 = none)))) ∧
  (∀ (r : RawStep) (clamps : Bool) (seq : Word32) (offsets : Sides Pos) (nets : Nat),
    let c := r.copy clamps seq offsets nets
    (c.tag = r.tag ∧ c.kindCode = r.kind ∧ (∀ k, kindOf r.kind.toNat = some k → c.kind = k) ∧ c.autorange = r.flag 0 ∧
      c.barrier = r.flag 1 ∧ c.skipIfNetFailed = r.flag 2 ∧ c.loPresent = r.flag 3 ∧ c.hiPresent = r.flag 4 ∧
      c.retest = r.retest ∧ c.range = r.range ∧ c.gainRead = r.gainInit ∧ c.gainMin = r.gainMin ∧ c.gainMax = r.gainMax ∧
      c.window = r.window ∧ c.extension = r.extension ∧ c.lo = r.lo ∧ c.hi = r.hi ∧ c.seq = seq ∧ c.offsets = offsets ∧
      c.netCount = nets) ∧
    ((∀ p ∈ r.used, sideCode p.side ≠ none ∧ roleOf p.role ≠ none) → c.points.length = r.used.length ∧
      ∀ (i : Nat) (p : RawPoint) (d : Side) (q : Role), r.used[i]? = some p → sideCode p.side = some d →
        roleOf p.role = some q →
        c.points[i]? = some ⟨d, q, p.net, ⟨p.x + (offsets.get d).x, p.y + (offsets.get d).y⟩⟩) ∧
    (clamps = false → c.skip = r.skip ∧ c.gainInit = r.gainInit ∧ c.settle = r.settle ∧ c.threshold = r.threshold ∧
      c.clamped = false) ∧
    (clamps = true → r.failing nets = none →
      (∀ p ∈ r.used, sideCode p.side ≠ none ∧ roleOf p.role ≠ none) ∧
      (c.kind ≠ .cap → c.skip = (if r.window ≤ r.skip then r.window - 1 else r.skip) ∧
        c.gainInit = (if r.gainInit < r.gainMin then r.gainMin
          else if r.gainMax < r.gainInit then r.gainMax else r.gainInit) ∧
        c.settle = (if 1023 < r.settle then 1023 else r.settle) ∧ c.threshold = r.threshold ∧
        (c.clamped = true ↔ r.window ≤ r.skip ∨ r.gainInit < r.gainMin ∨ r.gainMax < r.gainInit ∨ 1023 < r.settle)) ∧
      (c.kind = .cap → c.skip = r.skip ∧ c.gainInit = r.gainInit ∧ c.settle = r.settle ∧
        c.threshold = (if r.threshold < 100 then 100 else r.threshold) ∧ (c.clamped = true ↔ r.threshold < 100)))) ∧
  ∀ (s : State) (b : List Byte) (p : FetchPos) (i k : Nat) (g : Bool), s.fetch.reading = some ⟨.record, false, g⟩ →
    s.fetch.pos = some p → p.phase = .records i → s.freeSlot = some k →
    ∃ u : State, exec (.recordRead b) s = .next u.finish ∧ u.setup = s.setup ∧ u.claims = s.claims ∧
      u.carriages = s.carriages ∧ u.nets = s.nets ∧ u.fetch.reading = none ∧
      u.fetch.pos = some { p with phase := if i + 1 < p.count then .records (i + 1) else .link } ∧
      (∀ e ∈ s.disp.window, e ∈ u.disp.window) ∧ u.disp.window.length = s.disp.window.length + 1 ∧
      u.fetch.refill = (if s.disp.window.length + 1 < 12 then true else if 16 ≤ s.disp.window.length + 1 then false
        else s.fetch.refill) ∧
      ∃ f, u.entry k = some f ∧ f.slot = k ∧ f.overtake = 0 ∧ f.assignment = [] ∧ f.dispatchTime = none ∧
        f.copy = (s.judge (parseStep b) p.seq).1 ∧
        f.copy.tag = BitVec.ofNat 32 (fieldAt b 0 4) ∧ f.copy.kindCode = b.getD 4 0 ∧
        f.copy.gainRead = (parseStep b).gainInit ∧ f.copy.seq = p.seq ∧
        f.copy.offsets = s.frame.offsets ∧ f.copy.netCount = s.frame.netCount ∧
        match (s.judge (parseStep b) p.seq).2 with
        | none => f.state = .waiting ∧ f.outcome = none ∧ u.log = s.log
        | some (cause, value) => f.state = .held ∧ ∃ o, f.outcome = some o ∧ o.verdict = .error ∧ o.cause = cause ∧
            o.value = value ∧ o.stepClamped = f.copy.clamped ∧ o.duration = 0 ∧ o.attempts = 1 ∧ o.gain = (parseStep b).gainInit ∧
            o.range = (parseStep b).range ∧ (∀ x ∈ o.carriages, x = none) ∧
            (s.log.results.length < 3 → u.log.results = s.log.results ++ [⟨k, s.log.offers⟩]) ∧
            (3 ≤ s.log.results.length → u.disp.refused = s.disp.refused ++ [k])

/-- Checks 1 to 9 in their order: the first that fails is reported with its number, and with the slot of the first failing
point for checks 3 and 8 (R12). That a role given twice fails check 3 at the later slot is the model's choice (AL 42). -/
def Obligations.AdmissionChecks : Prop :=
  ∀ (r : RawStep) (n : Nat),
    match kindOf r.kind.toNat with
    | none => r.failing n = some (1, 0)
    | some k =>
      let ok2 : Prop := r.probes = k.roles.length
      let bad3 (i : Nat) : Prop := ∃ p, r.used[i]? = some p ∧ (sideCode p.side = none ∨ ∀ q, roleOf p.role = some q →
        q ∉ k.roles ∨ ∃ j < i, ∃ o, r.used[j]? = some o ∧ roleOf o.role = some q)
      let ok4 : Prop := ∀ a b, k.ranges = some (a, b) → a ≤ r.range ∧ r.range ≤ b
      let ok5 : Prop := k = .cap ∨ (r.gainMin ≤ r.gainMax ∧ r.gainMax ≤ 4)
      let ok6 : Prop := 1 ≤ r.window ∧ r.window ≤ 4096 ∧ r.retest ≤ 3
      let ok7 : Prop := r.flag 3 = true → r.flag 4 = true → r.lo ≤ r.hi
      let bad8 (i : Nat) : Prop := ∃ p, r.used[i]? = some p ∧ n ≤ p.net
      let ok9 : Prop := k = .cap → r.threshold ≤ 5000 ∧ 1000 * r.threshold < compliance r.range
      let ok3 : Prop := ∀ i, ¬ bad3 i
      let ok8 : Prop := ∀ i, ¬ bad8 i
      (¬ ok2 → r.failing n = some (2, 0)) ∧
      (ok2 → ∀ i, bad3 i → (∀ j < i, ¬ bad3 j) → r.failing n = some (3, i)) ∧
      (ok2 ∧ ok3 → ¬ ok4 → r.failing n = some (4, 0)) ∧
      (ok2 ∧ ok3 ∧ ok4 → ¬ ok5 → r.failing n = some (5, 0)) ∧
      (ok2 ∧ ok3 ∧ ok4 ∧ ok5 → ¬ ok6 → r.failing n = some (6, 0)) ∧
      (ok2 ∧ ok3 ∧ ok4 ∧ ok5 ∧ ok6 → ¬ ok7 → r.failing n = some (7, 0)) ∧
      (ok2 ∧ ok3 ∧ ok4 ∧ ok5 ∧ ok6 ∧ ok7 → ∀ i, bad8 i → (∀ j < i, ¬ bad8 j) → r.failing n = some (8, i)) ∧
      (ok2 ∧ ok3 ∧ ok4 ∧ ok5 ∧ ok6 ∧ ok7 ∧ ok8 → ¬ ok9 → r.failing n = some (9, 0)) ∧
      (ok2 ∧ ok3 ∧ ok4 ∧ ok5 ∧ ok6 ∧ ok7 ∧ ok8 ∧ ok9 → r.failing n = none)

/-- A link read completes; one that an ABORT has voided has no effect of its own, and with no link read in progress there is
nothing to complete (AL 1). Not voided, its low three bits are ignored, before the test against 0 (R175, AL 34). Other than 0
it is the next address: the segment is left, the left segments at the head of the retire list that owe nothing leave it, the
last one's sequence becoming the retired sequence, and the Fetcher goes to the next header or holds. A first link of 0 puts
the chain in CHAIN_WAIT and raises the cause, with RESULTS when p differs from the notified count; a link read again at 0,
which in RUNNING is one read in CHAIN_WAIT, raises nothing, and out of RUNNING puts no wait (a first one there does: AL 25).
The poll timer is started when its interval is above 0. With a re-read owed in RUNNING the link is read again at once.

Every answer `u.finish` ends with the Fetcher going on, its poll timer last (AL 24). A hold that is over leads to the next
header. Then, in RUNNING, with no read in progress and the chain not broken, the position starts the read it calls for: its
header while the retire list holds fewer than 32, and WAIT_LIST while it holds 32; a record while refill is active; its link
while no re-read of it waits for the poll timer or a WAKE. Refill becomes active below 12 occupied slots, counting a record
read in progress that no ABORT has voided, inactive at 16, and stays between. With nothing waiting the poll timer stops; the
wait of a FRAME_START that ABORT has dropped counts until the next read of the drained count (AL 64). -/
def Obligations.LinkTaken : Prop :=
  (∀ s : State,
    let v := s.leaveHold
    ((∀ p, s.fetch.pos = some p → p.phase = .hold → s.fetch.hold ≠ none ∨ s.fetch.next = none) → v = s) ∧
    (∀ p a, s.fetch.pos = some p → p.phase = .hold → s.fetch.hold = none → s.fetch.next = some a →
      v = { s with fetch := { s.fetch with pos := some ⟨a, 0, .steps, 0, .header⟩, next := none } }) ∧
    (s.run.state = .running → s.fetch.reading = none → s.fetch.broken = false → s.fetchKick = v.startReads) ∧
    (s.run.state ≠ .running ∨ s.fetch.reading ≠ none ∨ s.fetch.broken = true → s.fetchKick = v) ∧
    (s.fetch.waiting = true ∨ s.log.room = .roomWait → s.tidyPoll = s) ∧
    (s.fetch.waiting = false → s.log.room = .ready →
      s.tidyPoll = { s with fetch := { s.fetch with pollOn := false } }) ∧
    let n := s.disp.window.length + if ∃ g, s.fetch.reading = some ⟨.record, false, g⟩ then 1 else 0
    s.updateRefill = { s with fetch := { s.fetch with
      refill := if n < 12 then true else if 16 ≤ n then false else s.fetch.refill } }) ∧
  (∀ s : State, s.fetch.pos = none → s.startReads = s) ∧
  (∀ (s : State) (p : FetchPos), s.fetch.pos = some p →
    (p.phase = .header ∨ p.phase = .waitList →
      (s.fetch.retire.length < 32 → s.startReads = { s with fetch := { s.fetch with
        pos := some { p with phase := .header }, reading := some ⟨.header, false, false⟩ } }) ∧
      (32 ≤ s.fetch.retire.length → s.startReads = { s with fetch := { s.fetch with
        pos := some { p with phase := .waitList } } })) ∧
    (∀ i, p.phase = .records i →
      (s.fetch.refill = true → s.startReads = { s with fetch := { s.fetch with
        reading := some ⟨.record, false, false⟩, refill := decide (s.disp.window.length + 1 < 16) } }) ∧
      (s.fetch.refill = false → s.startReads = s)) ∧
    (p.phase = .link →
      (s.fetch.waiting = false → s.startReads = { s with fetch := { s.fetch with
        reading := some ⟨.link, false, false⟩ } }) ∧
      (s.fetch.waiting = true → s.startReads = s)) ∧
    (p.phase = .hold → s.startReads = s)) ∧
  (∀ (s : State) (link : Word64),
    (∀ g, s.fetch.reading = some ⟨.link, true, g⟩ → exec (.linkRead link) s = .next
      (State.finish { s with fetch := { s.fetch with reading := none } })) ∧
    ((∀ v g, s.fetch.reading ≠ some ⟨.link, v, g⟩) → exec (.linkRead link) s = .next s)) ∧
  ∀ (s : State) (link : Word64) (p : FetchPos) (g : Bool), s.fetch.reading = some ⟨.link, false, g⟩ →
    s.fetch.pos = some p →
    let a := link &&& ~~~7
    ∃ u : State, exec (.linkRead link) s = .next u.finish ∧
      u = { s with fetch := u.fetch, regs := u.regs, log := u.log, hostMem := u.hostMem } ∧ u.fetch.reread = false ∧
      (a ≠ 0 → u.fetch.waiting = false ∧ u.fetch.reading = none ∧ u.regs = s.regs ∧ u.log = s.log ∧
        (s.fetch.hold = none → u.fetch.pos = some ⟨a, 0, .steps, 0, .header⟩ ∧ u.fetch.next = none) ∧
        (s.fetch.hold ≠ none → u.fetch.pos = some { p with phase := .hold } ∧ u.fetch.next = some a) ∧
        (∀ e ∈ u.fetch.retire, e.seq = p.seq → e.left = true) ∧
        let list := s.fetch.retire.map fun q => if q.seq = p.seq then { q with left := true } else q
        let gone := list.takeWhile fun q => q.left && q.owes == 0
        u.fetch.retire = (list.dropWhile fun q => q.left && q.owes == 0) ∧
        (gone = [] → u.fetch.retiredSeq = s.fetch.retiredSeq ∧ u.hostMem = s.hostMem) ∧
        ∀ q, gone.getLast? = some q → u.fetch.retiredSeq = q.seq ∧ ∀ j < 4,
          u.hostByte (s.station + 0x28 + BitVec.ofNat 64 j).toNat = some (q.seq.extractLsb' (8 * j) 8)) ∧
      (a = 0 →
        let running : Bool := s.run.state == .running
        let again : Bool := s.fetch.waiting || (g && !running)
        u.fetch = { s.fetch with
          waiting := s.fetch.waiting || running || !again, reread := false
          reading := if s.fetch.reread && running then some ⟨.link, false, true⟩ else none
          pollOn := decide (s.fetch.pollMs ≠ 0) } ∧ u.hostMem = s.hostMem ∧
        (again = true → u.regs = s.regs ∧ u.log = s.log) ∧
        (again = false → u.regs = { s.regs with
          intStatus := s.regs.intStatus ||| 4 ||| (if s.log.published = s.log.notified then 0 else 1) } ∧
          u.log = { s.log with notified := s.log.published }))

/-- The drained count is read, and the poll timer expires. A value behind d is taken as d and one ahead of p as p, by signed
32-bit differences; any other becomes d; with a re-read owed the count is read again. After each read an entry whose room
test fails puts the room state in ROOM_WAIT and starts the poll timer; that a read begun for a WAKE serves that test is AL
36. An expiry reads again what each of the Fetcher and the Log Writer waits on, and finds nothing when the timer does not run
(AL 1). The next entry is a FRAME_START that is due, then a FRAME_END whose close conditions hold, then of the heads of the
two held lists the one offered earlier, a note only in a frame. A FRAME_END needs one free place of the log, every other
entry two. With no entry in progress the next one's write starts when its room test passes, with its bytes as they are then
(AL 31), and its list loses its head with that start (AL 18), the oldest refused outcome being offered again (its place is AL
56); with the test failed the drained count is read, in ROOM_WAIT not before a WAKE or an expiry. The net image starts when a
closing frame finds every step DONE (AL 19). -/
def Obligations.PollAndDrained : Prop :=
  (∀ (s : State) (v : Word32), s.log.reading = true → ∃ u : State, exec (.drainedRead v) s = .next u.finish ∧
    u = { s with log := u.log, fetch := { s.fetch with pollOn := u.fetch.pollOn } } ∧
    u.log.drained = (if (v - s.log.drained).slt 0 then s.log.drained
      else if BitVec.slt 0 (v - s.log.published) then s.log.published else v) ∧
    u.log.reading = s.log.reread ∧ u.log.reread = false ∧ u.log.published = s.log.published ∧
    u.log.results = s.log.results ∧ u.log.notes = s.log.notes ∧
    (∀ k, s.log.writing = none → u.nextEntry = some k → u.log.hasRoom k = false →
      u.log.room = .roomWait ∧ u.fetch.pollOn = decide (s.fetch.pollMs ≠ 0))) ∧
  (∀ s : State, s.fetch.pollOn = true → exec .pollExpiry s = .next { s with
    fetch := { s.fetch with
      pollOn := false
      reading := if s.run.state = .running ∧ s.fetch.waiting = true ∧ s.fetch.reading = none then
          some ⟨.link, false, true⟩
        else s.fetch.reading }
    log := { s.log with
      reading := s.log.reading || (s.log.started && s.log.room == .roomWait) } }) ∧
  (∀ s : State, s.fetch.pollOn = false → exec .pollExpiry s = .next s) ∧
  (∀ s : State,
    let start (b : BoardBegin) : Prop :=
      s.log.due = some b ∧ s.frame.state = .none ∧ s.mu.calOrder = false ∧ s.mu.op ≠ .calibration
    let close : Prop := s.frame.state ≠ .none ∧ (s.frame.abortDiscards ≠ none ∨
      (s.frame.state = .closing ∧ (∀ e ∈ s.disp.window, e.state = .done) ∧
        (s.frame.imageAddr = 0 ∨ s.frame.imageWritten = true)))
    let note (n : HeldNote) : Prop := s.frame.state ≠ .none ∧ s.log.notes.head? = some n
    (∀ b, start b → s.nextEntry = some (.frameStart b)) ∧
    ((∀ b, ¬ start b) → close → s.nextEntry = some .frameEnd) ∧
    ((∀ b, ¬ start b) → ¬ close →
      (∀ r, s.log.results.head? = some r → (∀ n, note n → r.offer < n.offer) →
        s.nextEntry = some (.result r.slot)) ∧
      (∀ n, note n → (∀ r, s.log.results.head? = some r → n.offer < r.offer) → s.nextEntry = some .note) ∧
      (s.log.results = [] → (∀ n, ¬ note n) → s.nextEntry = none))) ∧
  (∀ (l : LogWriter) (k : EntryKind),
    let free : Int := l.capacity - (l.published - l.drained).toNat
    (free ≤ 0 → l.hasRoom k = false) ∧ (free = 1 → (l.hasRoom k = true ↔ k = .frameEnd)) ∧
    (2 ≤ free → l.hasRoom k = true)) ∧
  ∀ s : State,
    let image : Prop := s.frame.state = .closing ∧ s.frame.abortDiscards = none ∧
      (∀ e ∈ s.disp.window, e.state = .done) ∧ s.frame.imageAddr ≠ 0 ∧ s.frame.imageWritten = false
    ∃ v : State, v = { s with frame := { s.frame with imageBusy := v.frame.imageBusy } } ∧
      (v.frame.imageBusy = true ↔ s.frame.imageBusy = true ∨ image) ∧
      (s.log.writing ≠ none ∨ s.nextEntry = none → s.logKick = v) ∧
      ∀ k, s.log.writing = none → s.nextEntry = some k →
        (s.log.hasRoom k = false →
          (s.log.room = .ready → s.logKick = { v with log := { s.log with reading := true } }) ∧
          (s.log.room = .roomWait → s.logKick = v)) ∧
        (s.log.hasRoom k = true →
          let u := s.logKick
          u = { v with log := u.log, disp := { s.disp with refused := u.disp.refused } } ∧
          u.log = { s.log with writing := some ⟨k, s.entryBytes k, .bytes⟩, room := .ready, due := u.log.due
                               notes := u.log.notes, results := u.log.results, offers := u.log.offers } ∧
          ((∃ b, k = .frameStart b) → u.log.due = none) ∧ ((∀ b, k ≠ .frameStart b) → u.log.due = s.log.due) ∧
          u.log.notes = (if k = .note then s.log.notes.drop 1 else s.log.notes) ∧
          ((∀ n, k ≠ .result n) → u.log.results = s.log.results ∧ u.disp = s.disp ∧ u.log.offers = s.log.offers) ∧
          ∀ n, k = .result n →
            (s.disp.refused = [] → u.log.results = s.log.results.drop 1 ∧ u.disp = s.disp) ∧
            ∀ m rest, s.disp.refused = m :: rest → s.log.results.length ≤ 3 →
              u.log.results = s.log.results.drop 1 ++ [⟨m, s.log.offers⟩] ∧ u.disp.refused = rest ∧
              u.log.offers = s.log.offers + 1)

/-! ## The result log and the frame -/

/-- The bytes of an entry, of any kind, are in host memory, at the log base plus 32 times the write index, and its
publication follows; where a FRAME_START or FRAME_END retires segments in the same step, the retired-sequence field of the
Station Block is the exception. A RESULT is counted and its step DONE. A FRAME_START clears every net record, sets the counts
to 0, opens the frame, raises the Z age, and offers the OFFSET_CLAMPED note that its BOARD_BEGIN owes, which the held-note
list takes below 8 and otherwise drops, the dropped-note count, just cleared, then being 1; its BOARD_BEGIN segment owes one
less and the hold for it ends. A FRAME_END leaves no frame, and after a close by BOARD_END the BOARD_END segment owes one
less. After each of the two the left segments at the head of the retire list that owe nothing leave it, and the last one's
sequence is the retired sequence and in the Station Block (R182). The net image, once written, is in host memory byte by
byte: verdict in bits 1:0, fail count, at most 63, in bits 7:2. With no such write in progress there is nothing to complete
(AL 1). -/
def Obligations.EntriesWritten : Prop :=
  (∀ s : State, (∀ k b, s.log.writing ≠ some ⟨k, b, .bytes⟩) → exec .entryWritten s = .next s) ∧
  (∀ s : State, s.frame.imageBusy = false → exec .netImageWritten s = .next s) ∧
  (∀ (s : State) (k : EntryKind) (bytes : List Byte), s.log.writing = some ⟨k, bytes, .bytes⟩ → bytes.length = 32 →
    ∃ u : State, exec .entryWritten s = .next u.finish ∧ u.setup = s.setup ∧ u.claims = s.claims ∧
      u.carriages = s.carriages ∧ u.regs = s.regs ∧
      u.log.writing = some ⟨k, bytes, .publish⟩ ∧ u.log.published = s.log.published ∧ u.log.widx = s.log.widx ∧
      (∀ (j : Nat) (v : Byte), bytes[j]? = some v →
        let a := s.log.base + BitVec.ofNat 64 (32 * s.log.widx) + BitVec.ofNat 64 j
        ((∃ b, k = .frameStart b) ∨ k = .frameEnd → ∀ i < 4, a ≠ s.station + BitVec.ofNat 64 (0x28 + i)) →
        u.hostByte a.toNat = some v) ∧
      (∀ a : Nat, (∀ j < 32, a ≠ (s.log.base + BitVec.ofNat 64 (32 * s.log.widx) + BitVec.ofNat 64 j).toNat) →
        ((∃ b, k = .frameStart b) ∨ k = .frameEnd → ∀ i < 4, a ≠ (s.station + BitVec.ofNat 64 (0x28 + i)).toNat) →
        u.hostByte a = s.hostByte a) ∧
      let retires (kind : SegmentKind) (which : Word32 → Bool) : Prop :=
        let list := s.fetch.retire.map fun q => if q.kind = kind ∧ which q.seq = true then { q with owes := q.owes - 1 } else q
        let gone := list.takeWhile fun q => q.left && q.owes == 0
        u.fetch.retire = (list.dropWhile fun q => q.left && q.owes == 0) ∧
        (gone = [] → u.fetch.retiredSeq = s.fetch.retiredSeq) ∧
        ∀ q, gone.getLast? = some q → u.fetch.retiredSeq = q.seq ∧ ∀ j < 4,
          u.hostByte (s.station + 0x28 + BitVec.ofNat 64 j).toNat = some (q.seq.extractLsb' (8 * j) 8)
      match k with
      | .note => u = { s with log := u.log, hostMem := u.hostMem }
      | .result n => u.nets = s.nets ∧ ∀ e o, s.entry n = some e → e.outcome = some o →
          u.entry n = some { e with state := .done } ∧ u.frame = { s.frame with counts := s.frame.counts.count o.verdict }
      | .frameStart b => (∀ n, u.nets.get n = ⟨.untested, 0, none⟩) ∧ u.nets.inUse = b.netCount ∧
          u.frame.state = .opened ∧ u.frame.counts = ⟨0, 0, 0, 0, 0⟩ ∧ u.frame.imageWritten = false ∧
          u.frame.serial = b.serial ∧ u.frame.planTag = b.planTag ∧ u.frame.offsets = b.offsets ∧
          u.frame.netCount = b.netCount ∧ u.frame.imageAddr = b.imageAddr ∧
          u.mu.zAge = min 65535 (s.mu.zAge + 1) ∧
          (b.clampMarks = 0 → u.log.notes = s.log.notes ∧ u.log.dropped = 0) ∧
          (b.clampMarks ≠ 0 → s.log.notes.length < 8 → u.log.dropped = 0 ∧ u.log.notes = s.log.notes ++
            [⟨⟨.offsetClamped, none, b.clampMarks, 0, b.seq, 0⟩, s.log.offers⟩]) ∧
          (b.clampMarks ≠ 0 → 8 ≤ s.log.notes.length → u.log.notes = s.log.notes ∧ u.log.dropped = 1) ∧
          u.fetch = { s.fetch with
            hold := if s.fetch.hold = some .frameStart then none else s.fetch.hold
            retire := u.fetch.retire, retiredSeq := u.fetch.retiredSeq } ∧ retires .boardBegin (fun q => q == b.seq)
      | .frameEnd => u.frame.state = .none ∧ u.nets = s.nets ∧ u.frame.abortDiscards = none ∧
          u.fetch = { s.fetch with
            hold := u.fetch.hold, retire := u.fetch.retire, retiredSeq := u.fetch.retiredSeq } ∧
          (s.frame.reason = some .boardEnd → retires .boardEnd fun _ => true) ∧
          (s.frame.reason ≠ some .boardEnd → u.fetch.retire = s.fetch.retire ∧
            u.fetch.retiredSeq = s.fetch.retiredSeq)) ∧
  ∀ s : State, s.frame.imageBusy = true → s.nets.inUse ≤ 4096 →
    ∃ u : State, exec .netImageWritten s = .next u.finish ∧
      u = { s with frame := { s.frame with imageWritten := true, imageBusy := false }, hostMem := u.hostMem } ∧
      (∀ n < s.nets.inUse, ∃ v : Byte, u.hostByte (s.frame.imageAddr + BitVec.ofNat 64 n).toNat = some v ∧
        v.extractLsb' 2 6 = BitVec.ofNat 6 (min 63 (s.nets.get n).fails) ∧
        v.extractLsb' 0 2 = (match (s.nets.get n).verdict with
          | .untested => 0
          | .pass => 1
          | .fail => 2)) ∧
      ∀ a : Nat, (∀ n < s.nets.inUse, a ≠ (s.frame.imageAddr + BitVec.ofNat 64 n).toNat) → u.hostByte a = s.hostByte a

/-- The publication of an entry: p and the write index advance, and p + 1 is in the Station Block. A RESULT's slot is free
and a scan is owed; refill, by the slots then occupied, becomes active below 12, inactive at 16, and stays between. RESULTS
is raised, with the notified count at p, when p has reached the notify threshold beyond it, when the last slot is freed in
CHAIN_WAIT, and with FRAME for a FRAME_END. A RESULT's STEPS segment owes one less, and the retired sequence passes over the
left segments at the head of the retire list that owe nothing: they leave it, and the last one's sequence is the retired
sequence and in the Station Block (R182). -/
def Obligations.PublicationCompletes : Prop :=
  ∀ (s : State) (k : EntryKind) (bytes : List Byte), s.log.writing = some ⟨k, bytes, .publish⟩ →
    ∃ u : State, exec .publication s = .next u.finish ∧ u.setup = s.setup ∧ u.claims = s.claims ∧
      u.carriages = s.carriages ∧ u.nets = s.nets ∧ u.frame = s.frame ∧ u.mu = s.mu ∧
      u.log.published = s.log.published + 1 ∧ u.log.widx = (s.log.widx + 1) % s.log.capacity ∧ u.log.writing = none ∧
      u.log.drained = s.log.drained ∧
      (∀ j < 4, u.hostByte (s.station + 0x24 + BitVec.ofNat 64 j).toNat =
        some ((s.log.published + 1).extractLsb' (8 * j) 8)) ∧
      ((∀ n, k ≠ .result n) → u.disp = s.disp ∧ u.fetch = s.fetch) ∧
      (∀ n, k = .result n → s.entry n = none → u.disp = s.disp ∧ u.fetch = s.fetch) ∧
      (∀ n e, k = .result n → s.entry n = some e → u.entry n = none ∧ u.disp.scan = true ∧
        u.disp.window = (s.disp.window.filter fun f => f.slot ≠ n) ∧
        (let m := u.disp.window.length + (if ∃ g, s.fetch.reading = some ⟨.record, false, g⟩ then 1 else 0);
          u.fetch = { s.fetch with
            retire := u.fetch.retire, retiredSeq := u.fetch.retiredSeq
            refill := if m < 12 then true else if 16 ≤ m then false else s.fetch.refill }) ∧
        let list := s.fetch.retire.map fun q =>
          if q.kind = .steps ∧ q.seq = e.copy.seq then { q with owes := q.owes - 1 } else q
        let gone := list.takeWhile fun q => q.left && q.owes == 0
        u.fetch.retire = (list.dropWhile fun q => q.left && q.owes == 0) ∧
        (gone = [] → u.fetch.retiredSeq = s.fetch.retiredSeq) ∧
        ∀ q, gone.getLast? = some q → u.fetch.retiredSeq = q.seq ∧ ∀ j < 4,
          u.hostByte (s.station + 0x28 + BitVec.ofNat 64 j).toNat = some (q.seq.extractLsb' (8 * j) 8)) ∧
      let raised : Prop := k = .frameEnd ∨ s.log.notify ≤ (s.log.published + 1 - s.log.notified).toNat ∨
        ((∃ n, k = .result n) ∧ s.fetch.waiting = true ∧ u.disp.window = [])
      (raised → u.log.notified = s.log.published + 1 ∧ u.regs = { s.regs with
        intStatus := s.regs.intStatus ||| (if k = .frameEnd then 3 else 1) }) ∧
      (¬ raised → u.log.notified = s.log.notified ∧ u.regs = s.regs)

/-- An entry is 32 bytes with each field at its offset. RESULT (R170): kind, verdict and cause codes, tag, sequence, the
48-bit value, flags, gain, range, attempts, carriages and duration. FRAME_START and NOTE (R171): net count, board serial,
plan tag, offsets, Z age and BOARD_BEGIN's sequence; note kind, carriage, code, tag, sequence and detail. FRAME_END (R172):
board verdict, flags, that of NEXT_BEGIN clear where ABORT closes a closing frame (AL 45), the five counts, discarded and
dropped-note counts and the first failing tag, which is that of the lowest-numbered net in use whose verdict is FAIL. -/
def Obligations.ResultLayout : Prop :=
  (∀ (n : BoardBegin) (age : Nat), let b := frameStartBytes n age
    b.length = 32 ∧ byteAt b 0x00 = 1 ∧ byteAt b 0x01 = 0 ∧ (n.netCount < 65536 → fieldAt b 0x02 2 = n.netCount) ∧
    fieldAt b 0x04 8 = n.serial.toNat ∧ fieldAt b 0x0C 4 = n.planTag.toNat ∧
    (∀ q ∈ [(0x10, n.offsets.top.x), (0x12, n.offsets.top.y), (0x14, n.offsets.bottom.x), (0x16, n.offsets.bottom.y)],
      -32768 ≤ q.2 → q.2 < 32768 → signedAt b q.1 2 = q.2) ∧
    (age ≤ 65535 → fieldAt b 0x18 2 = age) ∧ fieldAt b 0x1A 4 = n.seq.toNat ∧ byteAt b 0x1E = 0 ∧ byteAt b 0x1F = 0) ∧
  (∀ n : Note, let b := noteBytes n
    b.length = 32 ∧ byteAt b 0x00 = 3 ∧ byteAt b 0x01 = noteCode n.kind ∧ byteAt b 0x02 = carriageCode n.carriage ∧
    (n.code < 256 → byteAt b 0x03 = n.code) ∧ fieldAt b 0x04 4 = n.tag.toNat ∧ fieldAt b 0x08 4 = n.seq.toNat ∧
    (n.detail < 256 → byteAt b 0x0C = n.detail) ∧ ∀ j < 19, byteAt b (0x0D + j) = 0) ∧
  [NoteKind.offsetClamped, .lateResponse, .carriageFault, .calDone, .calRange, .guardEvent, .chainBreak].map noteCode =
    [1, 2, 3, 4, 5, 6, 7] ∧
  (∀ (f : FrameRec) (t : NetTable) (dropped : Nat) (discarded : Option Nat), keysRise t.recs = true →
    let b := frameEndBytes f t dropped discarded
    b.length = 32 ∧ byteAt b 0x00 = 4 ∧ byteAt b 0x03 = 0 ∧
    byteAt b 0x01 = (match discarded with
      | some _ => 4
      | none => match boardVerdict f t with
        | .pass => 1
        | .fail => 2
        | .incomplete => 3
        | .aborted => 4) ∧
    (Nat.testBit (byteAt b 0x02) 0 = f.imageWritten ∧
      Nat.testBit (byteAt b 0x02) 1 = (discarded.isNone && f.reason == some .nextBegin) ∧ byteAt b 0x02 < 4) ∧
    (∀ q ∈ [(0x04, f.counts.pass), (0x08, f.counts.failing), (0x0C, f.counts.nocontact), (0x10, f.counts.skipped),
      (0x14, f.counts.error)], q.2 < 4294967296 → fieldAt b q.1 4 = q.2) ∧
    (discarded = none → fieldAt b 0x18 2 = 0) ∧ (∀ n, discarded = some n → n < 65536 → fieldAt b 0x18 2 = n) ∧
    (dropped < 65536 → fieldAt b 0x1A 2 = dropped) ∧
    (discarded ≠ none → fieldAt b 0x1C 4 = 0) ∧
    (discarded = none → (∀ n < t.inUse, (t.get n).verdict ≠ .fail) → fieldAt b 0x1C 4 = 0) ∧
    ∀ n tag, discarded = none → n < t.inUse → (t.get n).verdict = .fail → (∀ m < n, (t.get m).verdict ≠ .fail) →
      (t.get n).firstTag = some tag → fieldAt b 0x1C 4 = tag.toNat) ∧
  ∀ (c : StepCopy) (o : Outcome), let b := resultBytes c o
    b.length = 32 ∧ byteAt b 0x00 = 2 ∧ byteAt b 0x01 = c.kindCode.toNat ∧ byteAt b 0x02 = verdictCode o.verdict ∧
    byteAt b 0x03 = causeCode o.cause ∧ fieldAt b 0x04 4 = c.tag.toNat ∧ fieldAt b 0x08 4 = c.seq.toNat ∧
    (-140737488355328 ≤ o.value → o.value < 140737488355328 → signedAt b 0x0C 6 = o.value) ∧
    (Nat.testBit (byteAt b 0x12) 0 = o.clipped ∧ Nat.testBit (byteAt b 0x12) 1 = o.ranged ∧
      Nat.testBit (byteAt b 0x12) 2 = o.guardIgnored ∧ Nat.testBit (byteAt b 0x12) 3 = o.passOnRetest ∧
      Nat.testBit (byteAt b 0x12) 4 = o.stepClamped ∧ Nat.testBit (byteAt b 0x12) 5 = o.elecFallback ∧
      byteAt b 0x12 < 64) ∧
    (o.gain < 256 → byteAt b 0x13 = o.gain) ∧ (o.range < 256 → byteAt b 0x14 = o.range) ∧
    (o.attempts < 256 → byteAt b 0x15 = o.attempts) ∧
    (∀ n < 4, byteAt b (0x16 + n) = carriageCode (o.carriages.getD n none)) ∧
    (o.duration ≤ 16777215 → fieldAt b 0x1A 3 = o.duration) ∧ (∀ n < 3, byteAt b (0x1D + n) = 0) ∧
    [Verdict.pass, .low, .high, .unresolved, .nocontact, .skipped, .error].map verdictCode = [1, 2, 3, 4, 5, 6, 7] ∧
    [Cause.none, .badStep, .outOfField, .unreachable, .noCarriages, .carriageFault, .guard, .halted, .landing .noTouch,
      .landing .force, .landing .pair, .landing .claim, .landing .field].map causeCode =
      [0x00, 0x10, 0x11, 0x12, 0x13, 0x14, 0x15, 0x16, 0x20, 0x21, 0x22, 0x23, 0x24]

/-- HELD, the net records after an outcome, and the board verdict. A step in LIFTING with no carriage left in its service
enters HELD at the next round of the Dispatcher, several of one event in plan order, which is the model's choice (AL 49): the
net table takes its verdict, its outcome joins the held-result list or, with 3 there, is refused, and a scan is owed. A step
with no outcome stays. A failing verdict makes each net the step names FAIL, its fail count one more, at most 255, its first
failing tag set if absent; a PASS makes an UNTESTED one PASS; the others, and every net not named, stay. A board is
INCOMPLETE when the next BOARD_BEGIN closes it, else FAIL with a FAIL net in use, else INCOMPLETE with a NOCONTACT or ERROR
result, else PASS. -/
def Obligations.NetAndBoardVerdicts : Prop :=
  (∀ (t : NetTable) (c : StepCopy) (v : Verdict) (n : Nat),
    ((∀ p ∈ c.points, p.net ≠ n) → (t.update c v).get n = t.get n) ∧
    ((∃ p ∈ c.points, p.net = n) → (t.update c v).get n = match v with
      | .low | .high | .unresolved =>
        ⟨.fail, min 255 ((t.get n).fails + 1), if (t.get n).firstTag = none then some c.tag else (t.get n).firstTag⟩
      | .pass => if (t.get n).verdict = .untested then { t.get n with verdict := .pass } else t.get n
      | .nocontact | .skipped | .error => t.get n)) ∧
  (∀ (s : State) (slot : Nat), (∀ e, s.entry slot = some e → e.outcome = none) → s.enterHeld slot = s) ∧
  (∀ (s : State) (slot : Nat) (e : Entry) (o : Outcome), s.entry slot = some e → e.outcome = some o →
    let u := s.enterHeld slot
    u = { s with disp := u.disp, nets := s.nets.update e.copy o.verdict, log := u.log } ∧
    u.disp = { s.disp with
      window := s.disp.window.map fun f => if f.slot = slot then { f with state := .held } else f
      refused := if s.log.results.length < 3 then s.disp.refused else s.disp.refused ++ [slot]
      scan := true } ∧
    u.log = (if s.log.results.length < 3 then
      { s.log with results := s.log.results ++ [⟨slot, s.log.offers⟩], offers := s.log.offers + 1 } else s.log)) ∧
  (∀ s : State, (s.disp.window.map (·.slot)).Nodup →
    let done (e : Entry) : Bool := e.state == .lifting && e.assignment.all (·.isNone)
    let u := s.holdLifted
    u = ((s.disp.window.filter done).map (·.slot)).foldl (fun v k => v.enterHeld k) s ∧
    u.disp.window = (s.disp.window.map fun e => if done e && e.outcome.isSome then { e with state := .held } else e) ∧
    u.nets = (s.disp.window.filter done).foldl
      (fun t e => match e.outcome with
        | some o => t.update e.copy o.verdict
        | none => t) s.nets) ∧
  ∀ (f : FrameRec) (t : NetTable), keysRise t.recs = true →
    let failed : Prop := ∃ n < t.inUse, (t.get n).verdict = .fail
    (f.reason = some .nextBegin → boardVerdict f t = .incomplete) ∧
    (f.reason ≠ some .nextBegin → failed → boardVerdict f t = .fail) ∧
    (f.reason ≠ some .nextBegin → ¬ failed → (0 < f.counts.nocontact ∨ 0 < f.counts.error) →
      boardVerdict f t = .incomplete) ∧
    (f.reason ≠ some .nextBegin → ¬ failed → f.counts.nocontact = 0 → f.counts.error = 0 → boardVerdict f t = .pass)

/-! ## Lanes, claims and assignments -/

/-- The span at a lane is the lanes no further than the guard from it, the sweep of a move those no further from the lanes
between its ends, both cut to 0..127. The sweep holds the spans at both ends and every lane between; with equal ends it is
the span. A guard is at most 7. -/
def Obligations.SpanAndSweep : Prop :=
  (∀ (t : Setup) (c : Carriage) (l0 l1 n : Nat),
    let g := (t.carriages.get c).guard
    ((t.span c l0).lo ≤ n ∧ n ≤ (t.span c l0).hi ↔ l0 ≤ n + g ∧ n ≤ l0 + g ∧ n ≤ 127) ∧
    ((t.sweep c l0 l1).lo ≤ n ∧ n ≤ (t.sweep c l0 l1).hi ↔ min l0 l1 ≤ n + g ∧ n ≤ max l0 l1 + g ∧ n ≤ 127) ∧
    ((t.sweep c l0 l1).lo ≤ (t.span c l0).lo ∧ (t.span c l0).hi ≤ (t.sweep c l0 l1).hi) ∧
    ((t.sweep c l0 l1).lo ≤ (t.span c l1).lo ∧ (t.span c l1).hi ≤ (t.sweep c l0 l1).hi) ∧
    (min l0 l1 ≤ n → n ≤ max l0 l1 → n ≤ 127 → (t.sweep c l0 l1).lo ≤ n ∧ n ≤ (t.sweep c l0 l1).hi) ∧
    t.sweep c l0 l0 = t.span c l0) ∧
  (∀ (b : List Byte) (c : Carriage), ((parseSetup b).carriages.get c).guard =
    min 7 (byteAt b (0x40 + 0x20 * (driveNumber c - 1) + 0x0C))) ∧
  spanAt 2 1 = ⟨0, 3⟩ ∧ sweepAt 2 30 48 = ⟨28, 50⟩

/-- The answer to a claim request, by the first case of R27 that applies, and what it does to the table and to the
carriage that asks with a target set. -/
def Obligations.ClaimAnswers : Prop :=
  ∀ (s : State) (c : Carriage) (q : Purpose) (i : Interval) (p : Pos), (s.carr c).target = some p →
    let t := s.table (sideOf c)
    let j := match s.claimOf c with
      | some k => (⟨min k.lo i.lo, max k.hi i.hi⟩ : Interval)
      | none => i
    let denied : Prop := (∀ n : Nat, t.cells[n]? ≠ some (some c)) ∨ (s.carr c).state = .fault ∨ ∃ e ∈ t.pend, e.carriage = c
    let frozen : Prop := ∃ (n : Nat) (f : Carriage), j.lo ≤ n ∧ n ≤ j.hi ∧ t.cells[n]? = some (some f) ∧
      (s.carr f).state = .fault
    let open_ : Prop := (∀ (n : Nat) (x : Carriage), j.lo ≤ n → n ≤ j.hi → t.cells[n]? = some (some x) → x = c) ∧
      ∀ e ∈ t.pend, ¬ (e.span.lo ≤ j.hi ∧ j.lo ≤ e.span.hi)
    let u := s.requestClaim c q i
    (∀ d, d ≠ sideOf c → u.table d = s.table d) ∧
    (denied ∨ frozen → u.claims = s.claims ∧ ((s.carr c).state ≠ .fault → (u.carr c).state = .idle)) ∧
    (¬ denied → ¬ frozen → open_ → u.table (sideOf c) = { t with cells := paint j (some c) t.cells } ∧
      (u.carr c).phase = some .moving ∧ (u.carr c).request = some ⟨.move, false⟩ ∧
      u.linkOut = s.linkOut ++ [(c, .move p)]) ∧
    (¬ denied → ¬ frozen → ¬ open_ → u = s.modTable (sideOf c) fun t => { t with pend := t.pend ++ [⟨c, q, j⟩] })

/-- A review leaves no entry that could be granted: each entry that stays has a lane of another carriage in its interval or
meets an older entry that stays. The entries that stay keep their order; each that leaves owns its interval; no lane that
has an owner changes; and the other side is untouched. -/
def Obligations.ReviewGrants : Prop :=
  ∀ (s : State) (d : Side), s.ClaimLaws →
    let t := s.table d
    let v := (s.review d).table d
    (∀ (older younger : List ClaimEntry) (e : ClaimEntry), v.pend = older ++ e :: younger →
      (∃ (n : Nat) (x : Carriage), e.span.lo ≤ n ∧ n ≤ e.span.hi ∧ v.cells[n]? = some (some x) ∧ x ≠ e.carriage) ∨
        ∃ o ∈ older, o.span.lo ≤ e.span.hi ∧ e.span.lo ≤ o.span.hi) ∧
    v.pend.Sublist t.pend ∧
    (∀ e ∈ t.pend, e ∉ v.pend → ∀ n : Nat, e.span.lo ≤ n → n ≤ e.span.hi → n < 128 →
      v.cells[n]? = some (some e.carriage)) ∧
    (∀ (n : Nat) (x : Carriage), t.cells[n]? = some (some x) → v.cells[n]? = some (some x)) ∧
    ∀ b, b ≠ d → (s.review d).table b = s.table b

/-- The reachability test, as R81 words it. A side with points passes when there is an injective assignment of the points to
carriages in service, with a lane for every carriage in service, such that targets are in field in the lanes of their
targets, other lanes are lanes of the side, spans are disjoint and increase with the index, and the spans of the carriages
below and above a carriage in FAULT lie wholly below and above its frozen claim; a side without points passes. A step fails
with NO_CARRIAGES when a side has more points than carriages in service, else with UNREACHABLE when a side does not pass.
The test reads the setup, the carriages' states and the frozen claims alone. A field has at most 128 lanes (R21). A WAITING
step that fails it later is HELD with verdict ERROR, that cause, the value 2,816, its gain initial as read, its last carriage
list, and the time since its dispatch, or 0, as duration (R13, R17, R82); no carriage and no lane is touched. -/
def Obligations.ReachabilityRule : Prop :=
  (∀ (s : State) (d : Side) (points : List Point), points ≠ [] → s.setup.fieldLanes d ≤ 128 →
    (s.sideReaches d points = true ↔
      ∃ (a : List Carriage) (lane : Carriage → Nat), a.length = points.length ∧ a.Nodup ∧
        (∀ c ∈ a, sideOf c = d ∧ (s.carr c).inService = true) ∧
        (∀ (n : Nat) (p : Point) (c : Carriage), points[n]? = some p → a[n]? = some c →
          s.setup.inField c p.at_ = true ∧ lane c = s.setup.laneFor c (p.at_.x - (s.cset c).tipOffset)) ∧
        (∀ c, sideOf c = d → (s.carr c).inService = true → c ∉ a → lane c < s.setup.fieldLanes d) ∧
        (∀ x y, sideOf x = d → sideOf y = d → (s.carr x).inService = true → (s.carr y).inService = true →
          driveNumber x < driveNumber y → (s.setup.span x (lane x)).hi < (s.setup.span y (lane y)).lo) ∧
        ∀ f k x, sideOf f = d → (s.carr f).state = .fault → s.claimOf f = some k → sideOf x = d →
          (s.carr x).inService = true →
          (driveNumber x < driveNumber f → (s.setup.span x (lane x)).hi < k.lo) ∧
          (driveNumber f < driveNumber x → k.hi < (s.setup.span x (lane x)).lo))) ∧
  (∀ (s : State) (d : Side), s.sideReaches d [] = true) ∧
  (∀ (s : State) (c : StepCopy),
    let short : Prop := ∃ d, (s.inService d).length < (c.pointsOn d).length
    let reached : Prop := ∀ d, s.sideReaches d (c.pointsOn d) = true
    (short → s.unreachable c = some .noCarriages) ∧ (¬ short → ¬ reached → s.unreachable c = some .unreachable) ∧
    (¬ short → reached → s.unreachable c = none)) ∧
  (∀ (s : State) (e : Entry), s.entry e.slot = some e →
    (e.state ≠ .waiting ∨ e.outcome ≠ none ∨ s.unreachable e.copy = none → s.testReach e = s) ∧
    ∀ k, e.state = .waiting → e.outcome = none → s.unreachable e.copy = some k →
      ∃ u : State, s.testReach e = u ∧ u = { s with disp := u.disp, log := u.log } ∧
        ∃ f o, u.entry e.slot = some f ∧ f.state = .held ∧ f.outcome = some o ∧ f.copy = e.copy ∧
          o.verdict = .error ∧ o.cause = k ∧ o.value = 2816 ∧ o.gain = e.copy.gainRead ∧ o.range = e.copy.range ∧
          o.carriages = e.lastCarriages ∧ o.attempts = e.attempts + 1 ∧
          o.duration = (match e.dispatchTime with
            | some t => min 16777215 (s.clock - t)
            | none => 0)) ∧
  ∀ (s t : State) (c : StepCopy), t.setup = s.setup → (∀ x, (t.carr x).state = (s.carr x).state) →
    (∀ x, (s.carr x).state = .fault → t.claimOf x = s.claimOf x) → t.unreachable c = s.unreachable c

/-- Among the feasible assignments of a side the one with the least total travel wins, and at a tie the one whose list of
carriage indices, in point order, comes first; with none feasible there is no choice (R91). An assignment is feasible as R88
to R90 say: every target in field; every assigned carriage IDLE, its target span and its sweep inside its corridor, the run
of lanes between the committed intervals of the nearest busy carriages; target spans disjoint and rising with the index;
every IDLE unassigned carriage between assigned ones clear of the sweeps and between the target spans; and the packing of
the idle carriages outward, each in turn from the nearest, succeeds. The cost is the distance in lanes of all that move. A
side without points has the empty assignment at no cost. A field has at most 128 lanes (R21). -/
def Obligations.LeastTravelWins : Prop :=
  ∀ (s : State) (d : Side) (points : List Point), s.setup.fieldLanes d ≤ 128 →
    let all := injections points (s.inService d)
    (∀ a : List Carriage, a ∈ all ↔ a.length = points.length ∧ a.Nodup ∧
      ∀ c ∈ a, sideOf c = d ∧ (s.carr c).inService = true) ∧
    (s.choose d points = none ↔ ∀ a ∈ all, s.choiceOf d points a = none) ∧
    (∀ h, s.choose d points = some h → ∃ a ∈ all, s.choiceOf d points a = some h ∧
      ∀ b ∈ all, ∀ k, s.choiceOf d points b = some k →
        h.cost < k.cost ∨ (h.cost = k.cost ∧ a.map driveNumber ≤ b.map driveNumber)) ∧
    s.choiceOf d [] [] = some ⟨[], [], 0⟩ ∧
    ∀ a ∈ all, ∀ lane : Carriage → Nat, points ≠ [] →
      (∀ (n : Nat) (p : Point) (c : Carriage), points[n]? = some p → a[n]? = some c →
        lane c = s.setup.laneFor c (p.at_.x - (s.cset c).tipOffset)) →
      let busy (c : Carriage) : Prop := (s.carr c).state ≠ .off ∧ (s.carr c).state ≠ .idle
      let holds (c : Carriage) (i : Interval) : Prop :=
        (∃ e, s.pendingOf c = some e ∧ i = e.span) ∨ (s.pendingOf c = none ∧ s.claimOf c = some i)
      let corridor (c : Carriage) (i : Interval) : Prop := ∀ b k, sideOf b = d → busy b → holds b k →
        (driveNumber b < driveNumber c →
          (∀ x, sideOf x = d → driveNumber b < driveNumber x → driveNumber x < driveNumber c → ¬ busy x) → k.hi < i.lo) ∧
        (driveNumber c < driveNumber b →
          (∀ x, sideOf x = d → driveNumber c < driveNumber x → driveNumber x < driveNumber b → ¬ busy x) → i.hi < k.lo)
      let sweep (q : Carriage × Nat) : Interval := s.setup.sweep q.1 (s.laneNow q.1) q.2
      let targets := a.map fun c => (c, lane c)
      let fits : Prop :=
        (∀ (n : Nat) (p : Point) (c : Carriage), points[n]? = some p → a[n]? = some c →
          s.setup.inField c p.at_ = true) ∧
        (∀ c ∈ a, (s.carr c).state = .idle ∧ corridor c (s.setup.span c (lane c)) ∧ corridor c (sweep (c, lane c))) ∧
        (∀ x ∈ a, ∀ y ∈ a, driveNumber x < driveNumber y →
          (s.setup.span x (lane x)).hi < (s.setup.span y (lane y)).lo) ∧
        ∀ c, sideOf c = d → (s.carr c).state = .idle → c ∉ a → (∃ x ∈ a, driveNumber x < driveNumber c) →
          (∃ y ∈ a, driveNumber c < driveNumber y) → ∀ x ∈ a,
            ((sweep (x, lane x)).hi < (s.spanNow c).lo ∨ (s.spanNow c).hi < (sweep (x, lane x)).lo) ∧
            (driveNumber x < driveNumber c → (s.setup.span x (lane x)).hi < (s.spanNow c).lo) ∧
            (driveNumber c < driveNumber x → (s.spanNow c).hi < (s.setup.span x (lane x)).lo)
      let below (c : Carriage) : Prop := sideOf c = d ∧ ∀ x ∈ a, driveNumber c < driveNumber x
      let above (c : Carriage) : Prop := sideOf c = d ∧ ∀ x ∈ a, driveNumber x < driveNumber c
      let packed (l : YieldPlan) : Prop :=
        (l.map (·.1)).Nodup ∧ (∀ q : Carriage × Nat, q ∈ l → below q.1 ∨ above q.1) ∧
        (∀ c b, below c →
          let passed (q : Carriage × Nat) : Prop := q ∈ targets ∨ (q ∈ l ∧ below q.1 ∧ driveNumber c < driveNumber q.1)
          (∃ q : Carriage × Nat, passed q ∧ (sweep q).lo = b) → (∀ q, passed q → b ≤ (sweep q).lo) →
          (c ∈ l.map (·.1) ↔ (s.carr c).state = .idle ∧ b ≤ (s.spanNow c).hi ∧
            ∀ x, below x → driveNumber c < driveNumber x → (s.carr x).state = .off ∨ x ∈ l.map (·.1)) ∧
          ∀ k, (c, k) ∈ l → k + 1 + (s.cset c).guard = b ∧ corridor c (s.setup.span c k)) ∧
        ∀ c t, above c →
          let passed (q : Carriage × Nat) : Prop := q ∈ targets ∨ (q ∈ l ∧ above q.1 ∧ driveNumber q.1 < driveNumber c)
          (∃ q : Carriage × Nat, passed q ∧ (sweep q).hi = t) → (∀ q, passed q → (sweep q).hi ≤ t) →
          (c ∈ l.map (·.1) ↔ (s.carr c).state = .idle ∧ (s.spanNow c).lo ≤ t ∧
            ∀ x, above x → driveNumber x < driveNumber c → (s.carr x).state = .off ∨ x ∈ l.map (·.1)) ∧
          ∀ k, (c, k) ∈ l → k = t + 1 + (s.cset c).guard ∧ k < s.setup.fieldLanes d ∧ corridor c (s.setup.span c k)
      (∀ h, s.choiceOf d points a = some h → fits ∧ h.lanes = targets ∧ packed h.yields ∧
        h.cost = ((targets ++ h.yields).map fun (q : Carriage × Nat) => ((s.laneNow q.1 : Int) - q.2).natAbs).sum) ∧
      (∀ l, fits → packed l → s.choiceOf d points a ≠ none)

/-- The dispatch scan. A WAITING step is eligible by R83's list, its in-flight steps those of R80; a SKIP_IF_NET_FAILED step
with a FAIL net is ended SKIPPED, and no carriage moves for it; any other is dispatched when both sides have a choice, and
passed over when one has none. A walk acts on the first entry, in plan order, that there is anything to do for, and walks
follow until one finds nothing. A dispatch records the assignment, as the last carriage list too, with the yields, clears
the marks, keeps or sets the dispatch time and raises the overtake counts of the older WAITING steps alone, up to 8; then a
side's orders go, yields before the step's, right-movers from the highest index down, then left-movers from the lowest index
up. That the top side's go first is the model's choice (AL 48). An order to an IDLE carriage completes at its position,
moves within its lane, and otherwise asks for its sweep; to any other carriage it does nothing. With nothing but a scan owed,
the Dispatcher's stage of an answer `u.finish` (AL 24) begins with this scan, and ends with it when it leaves nothing owed;
CarriageFaults says what a round of that stage does beside, and when there is another. -/
def Obligations.DispatchScan : Prop :=
  (∀ e : Entry, e.inFlight = true ↔ e.dispatchTime ≠ none ∧ e.state ≠ .waiting) ∧
  (∀ (s : State) (older : List Entry) (e : Entry),
    let joined (o : Entry) : Prop := ∃ p ∈ o.copy.points, ∃ q ∈ e.copy.points, p.net = q.net
    let eligible : Prop := s.run.state = .running ∧ e.state = .waiting ∧
      (s.disp.window.countP fun o => o.inFlight) < 3 ∧
      (∀ o ∈ older, o.state = .waiting → o.overtake < 8 ∧ o.copy.barrier = false) ∧
      (e.copy.barrier = true → ∀ o ∈ older, o.state = .held ∨ o.state = .done) ∧
      (e.copy.skipIfNetFailed = true → ∀ o ∈ older, joined o → o.state ≠ .waiting ∧ o.inFlight = false)
    let skipped : Prop := e.copy.skipIfNetFailed = true ∧ ∃ p ∈ e.copy.points, (s.nets.get p.net).verdict = .fail
    (¬ eligible → s.scanEntry older e = none) ∧
    (eligible → skipped → s.scanEntry older e = some (s.endWaiting e.slot (e.skippedOutcome s.clock))) ∧
    (eligible → ¬ skipped → ∀ a b, s.choose .top (e.copy.pointsOn .top) = some a →
      s.choose .bottom (e.copy.pointsOn .bottom) = some b → s.scanEntry older e = some (s.dispatch e a b)) ∧
    (eligible → ¬ skipped → (∃ d, s.choose d (e.copy.pointsOn d) = none) → s.scanEntry older e = none)) ∧
  (∀ (s : State) (older younger : List Entry) (e : Entry), s.disp.window = older ++ e :: younger →
    (∀ o ∈ older ++ younger, o.slot ≠ e.slot) →
    (let o := e.skippedOutcome s.clock;
      let u := s.endWaiting e.slot o;
      o.verdict = .skipped ∧ o.cause = .none ∧ o.value = 0 ∧ o.duration = 0 ∧
      o.carriages = List.replicate e.copy.points.length none ∧
      u = { s with disp := u.disp, log := u.log } ∧ u.disp.scan = true ∧
      u.disp.window = older ++ { e with state := .held, outcome := some o, assignment := [], yields := [] } :: younger) ∧
    ∀ a b, s.choose .top (e.copy.pointsOn .top) = some a → s.choose .bottom (e.copy.pointsOn .bottom) = some b →
      ∃ m : List (Option Carriage), m.length = e.copy.points.length ∧ none ∉ m ∧
        (let on (d : Side) := (e.copy.points.zip m).filterMap fun q => if q.1.side = d then q.2 else none;
          on .top = a.lanes.map (·.1) ∧ on .bottom = b.lanes.map (·.1)) ∧
        let f := { e with
          state := .moving, assignment := m, lastCarriages := m
          yields := (a.yields ++ b.yields).map fun q => ⟨q.1, q.2, false⟩
          arrived := List.replicate e.copy.points.length false, ready := List.replicate e.copy.points.length false
          dispatchTime := some (e.dispatchTime.getD s.clock) }
        s.dispatch e a b = (State.issueOrders { e with assignment := m } a { s with disp := { s.disp with
            window := (older.map fun o => if o.state = .waiting then { o with overtake := min 8 (o.overtake + 1) } else o) ++
              f :: younger } }).issueOrders { e with assignment := m } b) ∧
  (∀ (s : State) (e : Entry) (h : Choice) (lane : Carriage → Nat) (point : Carriage → Point),
    (h.yields.map (·.1)).Nodup → (h.lanes.map (·.1)).Nodup → (∀ q ∈ h.yields, lane q.1 = q.2) →
    (∀ q ∈ h.lanes, ∃ n, e.pointOf q.1 = some n ∧ e.copy.points[n]? = some (point q.1)) →
    let ordered (q : List (Carriage × Nat)) (l : List Carriage) : Prop := l.Nodup ∧
      (∀ c, c ∈ l ↔ c ∈ q.map (·.1)) ∧
      l.Pairwise fun x y => ∀ m n, (x, m) ∈ q → (y, n) ∈ q →
        (s.laneNow x < m → n ≤ s.laneNow y ∨ driveNumber y < driveNumber x) ∧
        (m < s.laneNow x → n ≤ s.laneNow y ∧ (n < s.laneNow y → driveNumber x < driveNumber y)) ∧
        (m = s.laneNow x → n = s.laneNow y)
    ∃ yields steps, ordered h.yields yields ∧ ordered h.lanes steps ∧ s.issueOrders e h =
      steps.foldl (fun u c => u.orderTravel c .step (some ⟨e.slot, (point c).role⟩)
          (s.setup.target c (point c).at_))
        (yields.foldl (fun u c => u.orderTravel c .yield none
          ⟨s.setup.lanePos (sideOf c) (lane c), (u.carr c).pos.y⟩) s)) ∧
  (∀ (s : State) (c : Carriage) (q : Purpose) (v : Option Service) (p : Pos),
    ((s.carr c).state ≠ .idle → s.orderTravel c q v p = s) ∧
    ((s.carr c).state = .idle → ∃ u : State, u = { s with carriages := u.carriages } ∧
      (∀ x, u.carr x = if x = c then { s.carr c with
          state := .travel, phase := some .claimWait, purpose := some q, target := some p, followOn := none, ended := false
          service := v, scrubIndex := if v = none then (s.carr c).scrubIndex else 0
          tip := if s.run.state = .halted then .isolated else .bleed } else s.carr x) ∧
      s.orderTravel c q v p =
        if (s.carr c).position = some p then u.travelDone c
        else if s.setup.laneFor c p.x = s.laneNow c then u.deliverGrant c
        else u.requestClaim c q (s.setup.sweep c (s.laneNow c) (s.setup.laneFor c p.x)))) ∧
  (∀ s : State, s.disp.scan = true → s.disp.withdraw = [] → s.disp.reach = false →
    (∀ e ∈ s.disp.window, e.state = .lifting → ∃ c, some c ∈ e.assignment) →
    let u := State.scan 17 { s with disp := { s.disp with scan := false } }
    s.dispatchRound = u ∧ (u.dispatchOwed = false → s.dispatcherStage = u) ∧
    (u.dispatchOwed = true → ∃ k, s.dispatcherStage = State.dispatchRound^[k] u)) ∧
  (∀ (s u : State), s.walk [] s.disp.window = some u ↔ ∃ older e younger, s.disp.window = older ++ e :: younger ∧
    s.scanEntry older e = some u ∧ ∀ o x y, older = o ++ x :: y → s.scanEntry o x = none) ∧
  ∀ s : State, s.disp.window.length ≤ 16 → (s.disp.window.map (·.slot)).Nodup →
    let u := s.scan 17
    u.walk [] u.disp.window = none ∧ (s.walk [] s.disp.window = none → u = s) ∧
    ∀ v, s.walk [] s.disp.window = some v → u = v.scan 17

/-! ## Arithmetic -/

/-- Values are rounded to the nearest integer, halves away from zero (R131). A clipped conversion is at the clip value of its
kind, range and gain, by the table of R135; and every resistance and capacitance lies between 0 and its clip value. -/
def Obligations.ValuesAndClips : Prop :=
  (∀ (num : Int) (den : Nat), 0 < den → 2 * |divRound num den * den - num| ≤ den ∧
    (2 * |divRound num den * den - num| = den → |num| ≤ |divRound num den * den|)) ∧
  (∀ k a n range gain leads, sampledConversion k a true n range gain leads =
    ⟨clipValue k range gain 1 (clipEndOf k a), some (clipEndOf k a), gain, range⟩) ∧
  (∀ stop ticks range gain threshold strays, stop ≠ .threshold →
    chargeConversion stop ticks range gain threshold strays =
      ⟨divRound (5 * rangeCurrent range * 16777215 : Nat) threshold, some .positive, gain, range⟩) ∧
  (∀ k range gain threshold e, clipValue k range gain threshold e = match k with
    | .res2 | .cont | .res4 | .iso =>
      divRound (min (gainSpan gain) (compliance range) * 1000000000 : Nat) (rangeCurrent range)
    | .volt | .diode => match e with
      | .positive => (gainSpan gain : Int)
      | .negative => -(gainSpan gain : Int)
    | .cap => divRound (5 * rangeCurrent range * 16777215 : Nat) threshold) ∧
  ((List.range 5).map gainSpan = [65536000, 2048000, 512000, 128000, 32000] ∧
    (List.range 6).map rangeCurrent = [1000, 10000, 100000, 1000000, 10000000, 100000000] ∧
    (List.range 6).map compliance = [40000000, 40000000, 10000000, 10000000, 10000000, 10000000]) ∧
  ((List.range 6).map fun r => (List.range 5).map fun g => resistanceClip r g) =
    [[40000000000000, 2048000000000, 512000000000, 128000000000, 32000000000],
      [4000000000000, 204800000000, 51200000000, 12800000000, 3200000000],
      [100000000000, 20480000000, 5120000000, 1280000000, 320000000],
      [10000000000, 2048000000, 512000000, 128000000, 32000000],
      [1000000000, 204800000, 51200000, 12800000, 3200000],
      [100000000, 20480000, 5120000, 1280000, 320000]] ∧
  (capacitanceClip 3 100 = 838860750000 ∧ ∀ r threshold, r ≤ 3 → 100 ≤ threshold →
    capacitanceClip r threshold ≤ capacitanceClip 3 100) ∧
  (∀ a n range gain leads, 0 ≤ resistanceValue a n range gain leads ∧
    resistanceValue a n range gain leads ≤ resistanceClip range gain) ∧
  ∀ ticks range threshold strays, ticks ≤ 16777215 → 0 ≤ capacitanceValue ticks range threshold strays ∧
    capacitanceValue ticks range threshold strays ≤ capacitanceClip range threshold

/-- The verdict of an attempt. Unclipped, the reported value is LOW below a present lo, HIGH above a present hi, else PASS;
the three cases do not overlap, since admission refuses lo above hi. Clipped, it is given by the clip end and the limits
present, and the value reported is the clip value with the CLIPPED flag; the negative end is that of a clipped voltage with
A below 0, the positive end that of every other clipped conversion. -/
def Obligations.AttemptVerdicts : Prop :=
  (∀ (loP hiP : Bool) (lo hi v : Int), (loP = true → hiP = true → lo ≤ hi) →
    (verdictOf loP hiP lo hi none v = .low ↔ loP = true ∧ v < lo) ∧
    (verdictOf loP hiP lo hi none v = .high ↔ hiP = true ∧ hi < v) ∧
    (verdictOf loP hiP lo hi none v = .pass ↔ (loP = true → lo ≤ v) ∧ (hiP = true → v ≤ hi))) ∧
  (∀ (r : RawStep) (n : Nat), r.failing n = none → r.flag 3 = true → r.flag 4 = true → r.lo ≤ r.hi) ∧
  (∀ (lo hi v : Int),
    (∀ p, verdictOf p true lo hi (some .positive) v = .high) ∧
    verdictOf false false lo hi (some .positive) v = .pass ∧
    verdictOf true false lo hi (some .positive) v = (if lo ≤ v then .pass else .unresolved) ∧
    (∀ p, verdictOf true p lo hi (some .negative) v = .low) ∧
    verdictOf false false lo hi (some .negative) v = .pass ∧
    verdictOf false true lo hi (some .negative) v = (if v ≤ hi then .pass else .unresolved)) ∧
  (∀ k a, clipEndOf k a = if (k = .volt ∨ k = .diode) ∧ a < 0 then .negative else .positive) ∧
  (∀ (e : Entry) (r : EvalRec) (clock : Nat) (a : Int) (n range gain leads : Nat),
    let o := e.finalOutcome r (sampledConversion e.copy.kind a true n range gain leads) clock
    o.value = clipValue e.copy.kind range gain 1 (clipEndOf e.copy.kind a) ∧ o.clipped = true) ∧
  (∀ (e : Entry) (r : EvalRec) (clock : Nat) (stop : StopKind) (ticks range gain threshold strays : Nat), stop ≠ .threshold →
    let o := e.finalOutcome r (chargeConversion stop ticks range gain threshold strays) clock
    o.value = clipValue .cap range gain threshold .positive ∧ o.clipped = true) ∧
  ∀ (e : Entry) (r : EvalRec) (v : Conversion) (clock : Nat), let o := e.finalOutcome r v clock
    o.verdict = verdictOf e.copy.loPresent e.copy.hiPresent e.copy.lo e.copy.hi v.clip v.value ∧ o.value = v.value ∧
    o.clipped = v.clip.isSome ∧ o.cause = .none
end

