-- ==== Sys2Proof/Laws/State.lean ====
section
/-! SUPPORT. One lemma per field per update of State, true by rfl, so that no later proof unfolds a record update; then
the same for the named updates of Ops.lean, and the readers of one carriage, one side and one entry. -/

namespace Sys2Proof.Machine

set_option Elab.async false

variable (s : State)

/-! ## Block updates -/

section
variable (f : Nat → Nat)
@[simp] theorem State.updFree_pending : (s.updFree f).pending = s.pending := rfl
@[simp] theorem State.updFree_clock : (s.updFree f).clock = s.clock := rfl
@[simp] theorem State.updFree_free : (s.updFree f).free = f s.free := rfl
@[simp] theorem State.updFree_linkOut : (s.updFree f).linkOut = s.linkOut := rfl
@[simp] theorem State.updFree_hostMem : (s.updFree f).hostMem = s.hostMem := rfl
@[simp] theorem State.updFree_regs : (s.updFree f).regs = s.regs := rfl
@[simp] theorem State.updFree_run : (s.updFree f).run = s.run := rfl
@[simp] theorem State.updFree_setup : (s.updFree f).setup = s.setup := rfl
@[simp] theorem State.updFree_claims : (s.updFree f).claims = s.claims := rfl
@[simp] theorem State.updFree_carriages : (s.updFree f).carriages = s.carriages := rfl
@[simp] theorem State.updFree_pins : (s.updFree f).pins = s.pins := rfl
@[simp] theorem State.updFree_qual : (s.updFree f).qual = s.qual := rfl
@[simp] theorem State.updFree_disp : (s.updFree f).disp = s.disp := rfl
@[simp] theorem State.updFree_mu : (s.updFree f).mu = s.mu := rfl
@[simp] theorem State.updFree_guard : (s.updFree f).guard = s.guard := rfl
@[simp] theorem State.updFree_nets : (s.updFree f).nets = s.nets := rfl
@[simp] theorem State.updFree_frame : (s.updFree f).frame = s.frame := rfl
@[simp] theorem State.updFree_log : (s.updFree f).log = s.log := rfl
@[simp] theorem State.updFree_fetch : (s.updFree f).fetch = s.fetch := rfl
end

section
variable (f : List (Carriage × AxisRequest) → List (Carriage × AxisRequest))
@[simp] theorem State.updLinkOut_pending : (s.updLinkOut f).pending = s.pending := rfl
@[simp] theorem State.updLinkOut_clock : (s.updLinkOut f).clock = s.clock := rfl
@[simp] theorem State.updLinkOut_free : (s.updLinkOut f).free = s.free := rfl
@[simp] theorem State.updLinkOut_linkOut : (s.updLinkOut f).linkOut = f s.linkOut := rfl
@[simp] theorem State.updLinkOut_hostMem : (s.updLinkOut f).hostMem = s.hostMem := rfl
@[simp] theorem State.updLinkOut_regs : (s.updLinkOut f).regs = s.regs := rfl
@[simp] theorem State.updLinkOut_run : (s.updLinkOut f).run = s.run := rfl
@[simp] theorem State.updLinkOut_setup : (s.updLinkOut f).setup = s.setup := rfl
@[simp] theorem State.updLinkOut_claims : (s.updLinkOut f).claims = s.claims := rfl
@[simp] theorem State.updLinkOut_carriages : (s.updLinkOut f).carriages = s.carriages := rfl
@[simp] theorem State.updLinkOut_pins : (s.updLinkOut f).pins = s.pins := rfl
@[simp] theorem State.updLinkOut_qual : (s.updLinkOut f).qual = s.qual := rfl
@[simp] theorem State.updLinkOut_disp : (s.updLinkOut f).disp = s.disp := rfl
@[simp] theorem State.updLinkOut_mu : (s.updLinkOut f).mu = s.mu := rfl
@[simp] theorem State.updLinkOut_guard : (s.updLinkOut f).guard = s.guard := rfl
@[simp] theorem State.updLinkOut_nets : (s.updLinkOut f).nets = s.nets := rfl
@[simp] theorem State.updLinkOut_frame : (s.updLinkOut f).frame = s.frame := rfl
@[simp] theorem State.updLinkOut_log : (s.updLinkOut f).log = s.log := rfl
@[simp] theorem State.updLinkOut_fetch : (s.updLinkOut f).fetch = s.fetch := rfl
end

section
variable (f : List Host.Cell → List Host.Cell)
@[simp] theorem State.updHostMem_pending : (s.updHostMem f).pending = s.pending := rfl
@[simp] theorem State.updHostMem_clock : (s.updHostMem f).clock = s.clock := rfl
@[simp] theorem State.updHostMem_free : (s.updHostMem f).free = s.free := rfl
@[simp] theorem State.updHostMem_linkOut : (s.updHostMem f).linkOut = s.linkOut := rfl
@[simp] theorem State.updHostMem_hostMem : (s.updHostMem f).hostMem = f s.hostMem := rfl
@[simp] theorem State.updHostMem_regs : (s.updHostMem f).regs = s.regs := rfl
@[simp] theorem State.updHostMem_run : (s.updHostMem f).run = s.run := rfl
@[simp] theorem State.updHostMem_setup : (s.updHostMem f).setup = s.setup := rfl
@[simp] theorem State.updHostMem_claims : (s.updHostMem f).claims = s.claims := rfl
@[simp] theorem State.updHostMem_carriages : (s.updHostMem f).carriages = s.carriages := rfl
@[simp] theorem State.updHostMem_pins : (s.updHostMem f).pins = s.pins := rfl
@[simp] theorem State.updHostMem_qual : (s.updHostMem f).qual = s.qual := rfl
@[simp] theorem State.updHostMem_disp : (s.updHostMem f).disp = s.disp := rfl
@[simp] theorem State.updHostMem_mu : (s.updHostMem f).mu = s.mu := rfl
@[simp] theorem State.updHostMem_guard : (s.updHostMem f).guard = s.guard := rfl
@[simp] theorem State.updHostMem_nets : (s.updHostMem f).nets = s.nets := rfl
@[simp] theorem State.updHostMem_frame : (s.updHostMem f).frame = s.frame := rfl
@[simp] theorem State.updHostMem_log : (s.updHostMem f).log = s.log := rfl
@[simp] theorem State.updHostMem_fetch : (s.updHostMem f).fetch = s.fetch := rfl
end

section
variable (f : Regs → Regs)
@[simp] theorem State.updRegs_pending : (s.updRegs f).pending = s.pending := rfl
@[simp] theorem State.updRegs_clock : (s.updRegs f).clock = s.clock := rfl
@[simp] theorem State.updRegs_free : (s.updRegs f).free = s.free := rfl
@[simp] theorem State.updRegs_linkOut : (s.updRegs f).linkOut = s.linkOut := rfl
@[simp] theorem State.updRegs_hostMem : (s.updRegs f).hostMem = s.hostMem := rfl
@[simp] theorem State.updRegs_regs : (s.updRegs f).regs = f s.regs := rfl
@[simp] theorem State.updRegs_run : (s.updRegs f).run = s.run := rfl
@[simp] theorem State.updRegs_setup : (s.updRegs f).setup = s.setup := rfl
@[simp] theorem State.updRegs_claims : (s.updRegs f).claims = s.claims := rfl
@[simp] theorem State.updRegs_carriages : (s.updRegs f).carriages = s.carriages := rfl
@[simp] theorem State.updRegs_pins : (s.updRegs f).pins = s.pins := rfl
@[simp] theorem State.updRegs_qual : (s.updRegs f).qual = s.qual := rfl
@[simp] theorem State.updRegs_disp : (s.updRegs f).disp = s.disp := rfl
@[simp] theorem State.updRegs_mu : (s.updRegs f).mu = s.mu := rfl
@[simp] theorem State.updRegs_guard : (s.updRegs f).guard = s.guard := rfl
@[simp] theorem State.updRegs_nets : (s.updRegs f).nets = s.nets := rfl
@[simp] theorem State.updRegs_frame : (s.updRegs f).frame = s.frame := rfl
@[simp] theorem State.updRegs_log : (s.updRegs f).log = s.log := rfl
@[simp] theorem State.updRegs_fetch : (s.updRegs f).fetch = s.fetch := rfl
end

section
variable (f : RunCtl → RunCtl)
@[simp] theorem State.updRun_pending : (s.updRun f).pending = s.pending := rfl
@[simp] theorem State.updRun_clock : (s.updRun f).clock = s.clock := rfl
@[simp] theorem State.updRun_free : (s.updRun f).free = s.free := rfl
@[simp] theorem State.updRun_linkOut : (s.updRun f).linkOut = s.linkOut := rfl
@[simp] theorem State.updRun_hostMem : (s.updRun f).hostMem = s.hostMem := rfl
@[simp] theorem State.updRun_regs : (s.updRun f).regs = s.regs := rfl
@[simp] theorem State.updRun_run : (s.updRun f).run = f s.run := rfl
@[simp] theorem State.updRun_setup : (s.updRun f).setup = s.setup := rfl
@[simp] theorem State.updRun_claims : (s.updRun f).claims = s.claims := rfl
@[simp] theorem State.updRun_carriages : (s.updRun f).carriages = s.carriages := rfl
@[simp] theorem State.updRun_pins : (s.updRun f).pins = s.pins := rfl
@[simp] theorem State.updRun_qual : (s.updRun f).qual = s.qual := rfl
@[simp] theorem State.updRun_disp : (s.updRun f).disp = s.disp := rfl
@[simp] theorem State.updRun_mu : (s.updRun f).mu = s.mu := rfl
@[simp] theorem State.updRun_guard : (s.updRun f).guard = s.guard := rfl
@[simp] theorem State.updRun_nets : (s.updRun f).nets = s.nets := rfl
@[simp] theorem State.updRun_frame : (s.updRun f).frame = s.frame := rfl
@[simp] theorem State.updRun_log : (s.updRun f).log = s.log := rfl
@[simp] theorem State.updRun_fetch : (s.updRun f).fetch = s.fetch := rfl
end

section
variable (f : Setup → Setup)
@[simp] theorem State.updSetup_pending : (s.updSetup f).pending = s.pending := rfl
@[simp] theorem State.updSetup_clock : (s.updSetup f).clock = s.clock := rfl
@[simp] theorem State.updSetup_free : (s.updSetup f).free = s.free := rfl
@[simp] theorem State.updSetup_linkOut : (s.updSetup f).linkOut = s.linkOut := rfl
@[simp] theorem State.updSetup_hostMem : (s.updSetup f).hostMem = s.hostMem := rfl
@[simp] theorem State.updSetup_regs : (s.updSetup f).regs = s.regs := rfl
@[simp] theorem State.updSetup_run : (s.updSetup f).run = s.run := rfl
@[simp] theorem State.updSetup_setup : (s.updSetup f).setup = f s.setup := rfl
@[simp] theorem State.updSetup_claims : (s.updSetup f).claims = s.claims := rfl
@[simp] theorem State.updSetup_carriages : (s.updSetup f).carriages = s.carriages := rfl
@[simp] theorem State.updSetup_pins : (s.updSetup f).pins = s.pins := rfl
@[simp] theorem State.updSetup_qual : (s.updSetup f).qual = s.qual := rfl
@[simp] theorem State.updSetup_disp : (s.updSetup f).disp = s.disp := rfl
@[simp] theorem State.updSetup_mu : (s.updSetup f).mu = s.mu := rfl
@[simp] theorem State.updSetup_guard : (s.updSetup f).guard = s.guard := rfl
@[simp] theorem State.updSetup_nets : (s.updSetup f).nets = s.nets := rfl
@[simp] theorem State.updSetup_frame : (s.updSetup f).frame = s.frame := rfl
@[simp] theorem State.updSetup_log : (s.updSetup f).log = s.log := rfl
@[simp] theorem State.updSetup_fetch : (s.updSetup f).fetch = s.fetch := rfl
end

section
variable (f : Sides ClaimTable → Sides ClaimTable)
@[simp] theorem State.updClaims_pending : (s.updClaims f).pending = s.pending := rfl
@[simp] theorem State.updClaims_clock : (s.updClaims f).clock = s.clock := rfl
@[simp] theorem State.updClaims_free : (s.updClaims f).free = s.free := rfl
@[simp] theorem State.updClaims_linkOut : (s.updClaims f).linkOut = s.linkOut := rfl
@[simp] theorem State.updClaims_hostMem : (s.updClaims f).hostMem = s.hostMem := rfl
@[simp] theorem State.updClaims_regs : (s.updClaims f).regs = s.regs := rfl
@[simp] theorem State.updClaims_run : (s.updClaims f).run = s.run := rfl
@[simp] theorem State.updClaims_setup : (s.updClaims f).setup = s.setup := rfl
@[simp] theorem State.updClaims_claims : (s.updClaims f).claims = f s.claims := rfl
@[simp] theorem State.updClaims_carriages : (s.updClaims f).carriages = s.carriages := rfl
@[simp] theorem State.updClaims_pins : (s.updClaims f).pins = s.pins := rfl
@[simp] theorem State.updClaims_qual : (s.updClaims f).qual = s.qual := rfl
@[simp] theorem State.updClaims_disp : (s.updClaims f).disp = s.disp := rfl
@[simp] theorem State.updClaims_mu : (s.updClaims f).mu = s.mu := rfl
@[simp] theorem State.updClaims_guard : (s.updClaims f).guard = s.guard := rfl
@[simp] theorem State.updClaims_nets : (s.updClaims f).nets = s.nets := rfl
@[simp] theorem State.updClaims_frame : (s.updClaims f).frame = s.frame := rfl
@[simp] theorem State.updClaims_log : (s.updClaims f).log = s.log := rfl
@[simp] theorem State.updClaims_fetch : (s.updClaims f).fetch = s.fetch := rfl
end

section
variable (f : Six CarriageRec → Six CarriageRec)
@[simp] theorem State.updCarriages_pending : (s.updCarriages f).pending = s.pending := rfl
@[simp] theorem State.updCarriages_clock : (s.updCarriages f).clock = s.clock := rfl
@[simp] theorem State.updCarriages_free : (s.updCarriages f).free = s.free := rfl
@[simp] theorem State.updCarriages_linkOut : (s.updCarriages f).linkOut = s.linkOut := rfl
@[simp] theorem State.updCarriages_hostMem : (s.updCarriages f).hostMem = s.hostMem := rfl
@[simp] theorem State.updCarriages_regs : (s.updCarriages f).regs = s.regs := rfl
@[simp] theorem State.updCarriages_run : (s.updCarriages f).run = s.run := rfl
@[simp] theorem State.updCarriages_setup : (s.updCarriages f).setup = s.setup := rfl
@[simp] theorem State.updCarriages_claims : (s.updCarriages f).claims = s.claims := rfl
@[simp] theorem State.updCarriages_carriages : (s.updCarriages f).carriages = f s.carriages := rfl
@[simp] theorem State.updCarriages_pins : (s.updCarriages f).pins = s.pins := rfl
@[simp] theorem State.updCarriages_qual : (s.updCarriages f).qual = s.qual := rfl
@[simp] theorem State.updCarriages_disp : (s.updCarriages f).disp = s.disp := rfl
@[simp] theorem State.updCarriages_mu : (s.updCarriages f).mu = s.mu := rfl
@[simp] theorem State.updCarriages_guard : (s.updCarriages f).guard = s.guard := rfl
@[simp] theorem State.updCarriages_nets : (s.updCarriages f).nets = s.nets := rfl
@[simp] theorem State.updCarriages_frame : (s.updCarriages f).frame = s.frame := rfl
@[simp] theorem State.updCarriages_log : (s.updCarriages f).log = s.log := rfl
@[simp] theorem State.updCarriages_fetch : (s.updCarriages f).fetch = s.fetch := rfl
end

section
variable (f : Pins → Pins)
@[simp] theorem State.updPins_pending : (s.updPins f).pending = s.pending := rfl
@[simp] theorem State.updPins_clock : (s.updPins f).clock = s.clock := rfl
@[simp] theorem State.updPins_free : (s.updPins f).free = s.free := rfl
@[simp] theorem State.updPins_linkOut : (s.updPins f).linkOut = s.linkOut := rfl
@[simp] theorem State.updPins_hostMem : (s.updPins f).hostMem = s.hostMem := rfl
@[simp] theorem State.updPins_regs : (s.updPins f).regs = s.regs := rfl
@[simp] theorem State.updPins_run : (s.updPins f).run = s.run := rfl
@[simp] theorem State.updPins_setup : (s.updPins f).setup = s.setup := rfl
@[simp] theorem State.updPins_claims : (s.updPins f).claims = s.claims := rfl
@[simp] theorem State.updPins_carriages : (s.updPins f).carriages = s.carriages := rfl
@[simp] theorem State.updPins_pins : (s.updPins f).pins = f s.pins := rfl
@[simp] theorem State.updPins_qual : (s.updPins f).qual = s.qual := rfl
@[simp] theorem State.updPins_disp : (s.updPins f).disp = s.disp := rfl
@[simp] theorem State.updPins_mu : (s.updPins f).mu = s.mu := rfl
@[simp] theorem State.updPins_guard : (s.updPins f).guard = s.guard := rfl
@[simp] theorem State.updPins_nets : (s.updPins f).nets = s.nets := rfl
@[simp] theorem State.updPins_frame : (s.updPins f).frame = s.frame := rfl
@[simp] theorem State.updPins_log : (s.updPins f).log = s.log := rfl
@[simp] theorem State.updPins_fetch : (s.updPins f).fetch = s.fetch := rfl
end

section
variable (f : Qualifier → Qualifier)
@[simp] theorem State.updQual_pending : (s.updQual f).pending = s.pending := rfl
@[simp] theorem State.updQual_clock : (s.updQual f).clock = s.clock := rfl
@[simp] theorem State.updQual_free : (s.updQual f).free = s.free := rfl
@[simp] theorem State.updQual_linkOut : (s.updQual f).linkOut = s.linkOut := rfl
@[simp] theorem State.updQual_hostMem : (s.updQual f).hostMem = s.hostMem := rfl
@[simp] theorem State.updQual_regs : (s.updQual f).regs = s.regs := rfl
@[simp] theorem State.updQual_run : (s.updQual f).run = s.run := rfl
@[simp] theorem State.updQual_setup : (s.updQual f).setup = s.setup := rfl
@[simp] theorem State.updQual_claims : (s.updQual f).claims = s.claims := rfl
@[simp] theorem State.updQual_carriages : (s.updQual f).carriages = s.carriages := rfl
@[simp] theorem State.updQual_pins : (s.updQual f).pins = s.pins := rfl
@[simp] theorem State.updQual_qual : (s.updQual f).qual = f s.qual := rfl
@[simp] theorem State.updQual_disp : (s.updQual f).disp = s.disp := rfl
@[simp] theorem State.updQual_mu : (s.updQual f).mu = s.mu := rfl
@[simp] theorem State.updQual_guard : (s.updQual f).guard = s.guard := rfl
@[simp] theorem State.updQual_nets : (s.updQual f).nets = s.nets := rfl
@[simp] theorem State.updQual_frame : (s.updQual f).frame = s.frame := rfl
@[simp] theorem State.updQual_log : (s.updQual f).log = s.log := rfl
@[simp] theorem State.updQual_fetch : (s.updQual f).fetch = s.fetch := rfl
end

section
variable (f : Dispatcher → Dispatcher)
@[simp] theorem State.updDisp_pending : (s.updDisp f).pending = s.pending := rfl
@[simp] theorem State.updDisp_clock : (s.updDisp f).clock = s.clock := rfl
@[simp] theorem State.updDisp_free : (s.updDisp f).free = s.free := rfl
@[simp] theorem State.updDisp_linkOut : (s.updDisp f).linkOut = s.linkOut := rfl
@[simp] theorem State.updDisp_hostMem : (s.updDisp f).hostMem = s.hostMem := rfl
@[simp] theorem State.updDisp_regs : (s.updDisp f).regs = s.regs := rfl
@[simp] theorem State.updDisp_run : (s.updDisp f).run = s.run := rfl
@[simp] theorem State.updDisp_setup : (s.updDisp f).setup = s.setup := rfl
@[simp] theorem State.updDisp_claims : (s.updDisp f).claims = s.claims := rfl
@[simp] theorem State.updDisp_carriages : (s.updDisp f).carriages = s.carriages := rfl
@[simp] theorem State.updDisp_pins : (s.updDisp f).pins = s.pins := rfl
@[simp] theorem State.updDisp_qual : (s.updDisp f).qual = s.qual := rfl
@[simp] theorem State.updDisp_disp : (s.updDisp f).disp = f s.disp := rfl
@[simp] theorem State.updDisp_mu : (s.updDisp f).mu = s.mu := rfl
@[simp] theorem State.updDisp_guard : (s.updDisp f).guard = s.guard := rfl
@[simp] theorem State.updDisp_nets : (s.updDisp f).nets = s.nets := rfl
@[simp] theorem State.updDisp_frame : (s.updDisp f).frame = s.frame := rfl
@[simp] theorem State.updDisp_log : (s.updDisp f).log = s.log := rfl
@[simp] theorem State.updDisp_fetch : (s.updDisp f).fetch = s.fetch := rfl
end

section
variable (f : MeasUnit → MeasUnit)
@[simp] theorem State.updMu_pending : (s.updMu f).pending = s.pending := rfl
@[simp] theorem State.updMu_clock : (s.updMu f).clock = s.clock := rfl
@[simp] theorem State.updMu_free : (s.updMu f).free = s.free := rfl
@[simp] theorem State.updMu_linkOut : (s.updMu f).linkOut = s.linkOut := rfl
@[simp] theorem State.updMu_hostMem : (s.updMu f).hostMem = s.hostMem := rfl
@[simp] theorem State.updMu_regs : (s.updMu f).regs = s.regs := rfl
@[simp] theorem State.updMu_run : (s.updMu f).run = s.run := rfl
@[simp] theorem State.updMu_setup : (s.updMu f).setup = s.setup := rfl
@[simp] theorem State.updMu_claims : (s.updMu f).claims = s.claims := rfl
@[simp] theorem State.updMu_carriages : (s.updMu f).carriages = s.carriages := rfl
@[simp] theorem State.updMu_pins : (s.updMu f).pins = s.pins := rfl
@[simp] theorem State.updMu_qual : (s.updMu f).qual = s.qual := rfl
@[simp] theorem State.updMu_disp : (s.updMu f).disp = s.disp := rfl
@[simp] theorem State.updMu_mu : (s.updMu f).mu = f s.mu := rfl
@[simp] theorem State.updMu_guard : (s.updMu f).guard = s.guard := rfl
@[simp] theorem State.updMu_nets : (s.updMu f).nets = s.nets := rfl
@[simp] theorem State.updMu_frame : (s.updMu f).frame = s.frame := rfl
@[simp] theorem State.updMu_log : (s.updMu f).log = s.log := rfl
@[simp] theorem State.updMu_fetch : (s.updMu f).fetch = s.fetch := rfl
end

section
variable (f : Guard → Guard)
@[simp] theorem State.updGuard_pending : (s.updGuard f).pending = s.pending := rfl
@[simp] theorem State.updGuard_clock : (s.updGuard f).clock = s.clock := rfl
@[simp] theorem State.updGuard_free : (s.updGuard f).free = s.free := rfl
@[simp] theorem State.updGuard_linkOut : (s.updGuard f).linkOut = s.linkOut := rfl
@[simp] theorem State.updGuard_hostMem : (s.updGuard f).hostMem = s.hostMem := rfl
@[simp] theorem State.updGuard_regs : (s.updGuard f).regs = s.regs := rfl
@[simp] theorem State.updGuard_run : (s.updGuard f).run = s.run := rfl
@[simp] theorem State.updGuard_setup : (s.updGuard f).setup = s.setup := rfl
@[simp] theorem State.updGuard_claims : (s.updGuard f).claims = s.claims := rfl
@[simp] theorem State.updGuard_carriages : (s.updGuard f).carriages = s.carriages := rfl
@[simp] theorem State.updGuard_pins : (s.updGuard f).pins = s.pins := rfl
@[simp] theorem State.updGuard_qual : (s.updGuard f).qual = s.qual := rfl
@[simp] theorem State.updGuard_disp : (s.updGuard f).disp = s.disp := rfl
@[simp] theorem State.updGuard_mu : (s.updGuard f).mu = s.mu := rfl
@[simp] theorem State.updGuard_guard : (s.updGuard f).guard = f s.guard := rfl
@[simp] theorem State.updGuard_nets : (s.updGuard f).nets = s.nets := rfl
@[simp] theorem State.updGuard_frame : (s.updGuard f).frame = s.frame := rfl
@[simp] theorem State.updGuard_log : (s.updGuard f).log = s.log := rfl
@[simp] theorem State.updGuard_fetch : (s.updGuard f).fetch = s.fetch := rfl
end

section
variable (f : NetTable → NetTable)
@[simp] theorem State.updNets_pending : (s.updNets f).pending = s.pending := rfl
@[simp] theorem State.updNets_clock : (s.updNets f).clock = s.clock := rfl
@[simp] theorem State.updNets_free : (s.updNets f).free = s.free := rfl
@[simp] theorem State.updNets_linkOut : (s.updNets f).linkOut = s.linkOut := rfl
@[simp] theorem State.updNets_hostMem : (s.updNets f).hostMem = s.hostMem := rfl
@[simp] theorem State.updNets_regs : (s.updNets f).regs = s.regs := rfl
@[simp] theorem State.updNets_run : (s.updNets f).run = s.run := rfl
@[simp] theorem State.updNets_setup : (s.updNets f).setup = s.setup := rfl
@[simp] theorem State.updNets_claims : (s.updNets f).claims = s.claims := rfl
@[simp] theorem State.updNets_carriages : (s.updNets f).carriages = s.carriages := rfl
@[simp] theorem State.updNets_pins : (s.updNets f).pins = s.pins := rfl
@[simp] theorem State.updNets_qual : (s.updNets f).qual = s.qual := rfl
@[simp] theorem State.updNets_disp : (s.updNets f).disp = s.disp := rfl
@[simp] theorem State.updNets_mu : (s.updNets f).mu = s.mu := rfl
@[simp] theorem State.updNets_guard : (s.updNets f).guard = s.guard := rfl
@[simp] theorem State.updNets_nets : (s.updNets f).nets = f s.nets := rfl
@[simp] theorem State.updNets_frame : (s.updNets f).frame = s.frame := rfl
@[simp] theorem State.updNets_log : (s.updNets f).log = s.log := rfl
@[simp] theorem State.updNets_fetch : (s.updNets f).fetch = s.fetch := rfl
end

section
variable (f : FrameRec → FrameRec)
@[simp] theorem State.updFrame_pending : (s.updFrame f).pending = s.pending := rfl
@[simp] theorem State.updFrame_clock : (s.updFrame f).clock = s.clock := rfl
@[simp] theorem State.updFrame_free : (s.updFrame f).free = s.free := rfl
@[simp] theorem State.updFrame_linkOut : (s.updFrame f).linkOut = s.linkOut := rfl
@[simp] theorem State.updFrame_hostMem : (s.updFrame f).hostMem = s.hostMem := rfl
@[simp] theorem State.updFrame_regs : (s.updFrame f).regs = s.regs := rfl
@[simp] theorem State.updFrame_run : (s.updFrame f).run = s.run := rfl
@[simp] theorem State.updFrame_setup : (s.updFrame f).setup = s.setup := rfl
@[simp] theorem State.updFrame_claims : (s.updFrame f).claims = s.claims := rfl
@[simp] theorem State.updFrame_carriages : (s.updFrame f).carriages = s.carriages := rfl
@[simp] theorem State.updFrame_pins : (s.updFrame f).pins = s.pins := rfl
@[simp] theorem State.updFrame_qual : (s.updFrame f).qual = s.qual := rfl
@[simp] theorem State.updFrame_disp : (s.updFrame f).disp = s.disp := rfl
@[simp] theorem State.updFrame_mu : (s.updFrame f).mu = s.mu := rfl
@[simp] theorem State.updFrame_guard : (s.updFrame f).guard = s.guard := rfl
@[simp] theorem State.updFrame_nets : (s.updFrame f).nets = s.nets := rfl
@[simp] theorem State.updFrame_frame : (s.updFrame f).frame = f s.frame := rfl
@[simp] theorem State.updFrame_log : (s.updFrame f).log = s.log := rfl
@[simp] theorem State.updFrame_fetch : (s.updFrame f).fetch = s.fetch := rfl
end

section
variable (f : LogWriter → LogWriter)
@[simp] theorem State.updLog_pending : (s.updLog f).pending = s.pending := rfl
@[simp] theorem State.updLog_clock : (s.updLog f).clock = s.clock := rfl
@[simp] theorem State.updLog_free : (s.updLog f).free = s.free := rfl
@[simp] theorem State.updLog_linkOut : (s.updLog f).linkOut = s.linkOut := rfl
@[simp] theorem State.updLog_hostMem : (s.updLog f).hostMem = s.hostMem := rfl
@[simp] theorem State.updLog_regs : (s.updLog f).regs = s.regs := rfl
@[simp] theorem State.updLog_run : (s.updLog f).run = s.run := rfl
@[simp] theorem State.updLog_setup : (s.updLog f).setup = s.setup := rfl
@[simp] theorem State.updLog_claims : (s.updLog f).claims = s.claims := rfl
@[simp] theorem State.updLog_carriages : (s.updLog f).carriages = s.carriages := rfl
@[simp] theorem State.updLog_pins : (s.updLog f).pins = s.pins := rfl
@[simp] theorem State.updLog_qual : (s.updLog f).qual = s.qual := rfl
@[simp] theorem State.updLog_disp : (s.updLog f).disp = s.disp := rfl
@[simp] theorem State.updLog_mu : (s.updLog f).mu = s.mu := rfl
@[simp] theorem State.updLog_guard : (s.updLog f).guard = s.guard := rfl
@[simp] theorem State.updLog_nets : (s.updLog f).nets = s.nets := rfl
@[simp] theorem State.updLog_frame : (s.updLog f).frame = s.frame := rfl
@[simp] theorem State.updLog_log : (s.updLog f).log = f s.log := rfl
@[simp] theorem State.updLog_fetch : (s.updLog f).fetch = s.fetch := rfl
end

section
variable (f : Fetcher → Fetcher)
@[simp] theorem State.updFetch_pending : (s.updFetch f).pending = s.pending := rfl
@[simp] theorem State.updFetch_clock : (s.updFetch f).clock = s.clock := rfl
@[simp] theorem State.updFetch_free : (s.updFetch f).free = s.free := rfl
@[simp] theorem State.updFetch_linkOut : (s.updFetch f).linkOut = s.linkOut := rfl
@[simp] theorem State.updFetch_hostMem : (s.updFetch f).hostMem = s.hostMem := rfl
@[simp] theorem State.updFetch_regs : (s.updFetch f).regs = s.regs := rfl
@[simp] theorem State.updFetch_run : (s.updFetch f).run = s.run := rfl
@[simp] theorem State.updFetch_setup : (s.updFetch f).setup = s.setup := rfl
@[simp] theorem State.updFetch_claims : (s.updFetch f).claims = s.claims := rfl
@[simp] theorem State.updFetch_carriages : (s.updFetch f).carriages = s.carriages := rfl
@[simp] theorem State.updFetch_pins : (s.updFetch f).pins = s.pins := rfl
@[simp] theorem State.updFetch_qual : (s.updFetch f).qual = s.qual := rfl
@[simp] theorem State.updFetch_disp : (s.updFetch f).disp = s.disp := rfl
@[simp] theorem State.updFetch_mu : (s.updFetch f).mu = s.mu := rfl
@[simp] theorem State.updFetch_guard : (s.updFetch f).guard = s.guard := rfl
@[simp] theorem State.updFetch_nets : (s.updFetch f).nets = s.nets := rfl
@[simp] theorem State.updFetch_frame : (s.updFetch f).frame = s.frame := rfl
@[simp] theorem State.updFetch_log : (s.updFetch f).log = s.log := rfl
@[simp] theorem State.updFetch_fetch : (s.updFetch f).fetch = f s.fetch := rfl
end

/-! ## Named updates leave every other block alone -/

section
variable (c : Carriage) (f : CarriageRec → CarriageRec)
@[simp] theorem State.modCarr_pending : (s.modCarr c f).pending = s.pending := rfl
@[simp] theorem State.modCarr_clock : (s.modCarr c f).clock = s.clock := rfl
@[simp] theorem State.modCarr_free : (s.modCarr c f).free = s.free := rfl
@[simp] theorem State.modCarr_linkOut : (s.modCarr c f).linkOut = s.linkOut := rfl
@[simp] theorem State.modCarr_hostMem : (s.modCarr c f).hostMem = s.hostMem := rfl
@[simp] theorem State.modCarr_regs : (s.modCarr c f).regs = s.regs := rfl
@[simp] theorem State.modCarr_run : (s.modCarr c f).run = s.run := rfl
@[simp] theorem State.modCarr_setup : (s.modCarr c f).setup = s.setup := rfl
@[simp] theorem State.modCarr_claims : (s.modCarr c f).claims = s.claims := rfl
@[simp] theorem State.modCarr_pins : (s.modCarr c f).pins = s.pins := rfl
@[simp] theorem State.modCarr_qual : (s.modCarr c f).qual = s.qual := rfl
@[simp] theorem State.modCarr_disp : (s.modCarr c f).disp = s.disp := rfl
@[simp] theorem State.modCarr_mu : (s.modCarr c f).mu = s.mu := rfl
@[simp] theorem State.modCarr_guard : (s.modCarr c f).guard = s.guard := rfl
@[simp] theorem State.modCarr_nets : (s.modCarr c f).nets = s.nets := rfl
@[simp] theorem State.modCarr_frame : (s.modCarr c f).frame = s.frame := rfl
@[simp] theorem State.modCarr_log : (s.modCarr c f).log = s.log := rfl
@[simp] theorem State.modCarr_fetch : (s.modCarr c f).fetch = s.fetch := rfl
end

section
variable (d : Side) (f : ClaimTable → ClaimTable)
@[simp] theorem State.modTable_pending : (s.modTable d f).pending = s.pending := rfl
@[simp] theorem State.modTable_clock : (s.modTable d f).clock = s.clock := rfl
@[simp] theorem State.modTable_free : (s.modTable d f).free = s.free := rfl
@[simp] theorem State.modTable_linkOut : (s.modTable d f).linkOut = s.linkOut := rfl
@[simp] theorem State.modTable_hostMem : (s.modTable d f).hostMem = s.hostMem := rfl
@[simp] theorem State.modTable_regs : (s.modTable d f).regs = s.regs := rfl
@[simp] theorem State.modTable_run : (s.modTable d f).run = s.run := rfl
@[simp] theorem State.modTable_setup : (s.modTable d f).setup = s.setup := rfl
@[simp] theorem State.modTable_carriages : (s.modTable d f).carriages = s.carriages := rfl
@[simp] theorem State.modTable_pins : (s.modTable d f).pins = s.pins := rfl
@[simp] theorem State.modTable_qual : (s.modTable d f).qual = s.qual := rfl
@[simp] theorem State.modTable_disp : (s.modTable d f).disp = s.disp := rfl
@[simp] theorem State.modTable_mu : (s.modTable d f).mu = s.mu := rfl
@[simp] theorem State.modTable_guard : (s.modTable d f).guard = s.guard := rfl
@[simp] theorem State.modTable_nets : (s.modTable d f).nets = s.nets := rfl
@[simp] theorem State.modTable_frame : (s.modTable d f).frame = s.frame := rfl
@[simp] theorem State.modTable_log : (s.modTable d f).log = s.log := rfl
@[simp] theorem State.modTable_fetch : (s.modTable d f).fetch = s.fetch := rfl
end

section
variable (c : Carriage) (l : Option Landing)
@[simp] theorem State.setLanding_pending : (s.setLanding c l).pending = s.pending := rfl
@[simp] theorem State.setLanding_clock : (s.setLanding c l).clock = s.clock := rfl
@[simp] theorem State.setLanding_free : (s.setLanding c l).free = s.free := rfl
@[simp] theorem State.setLanding_linkOut : (s.setLanding c l).linkOut = s.linkOut := rfl
@[simp] theorem State.setLanding_hostMem : (s.setLanding c l).hostMem = s.hostMem := rfl
@[simp] theorem State.setLanding_regs : (s.setLanding c l).regs = s.regs := rfl
@[simp] theorem State.setLanding_run : (s.setLanding c l).run = s.run := rfl
@[simp] theorem State.setLanding_setup : (s.setLanding c l).setup = s.setup := rfl
@[simp] theorem State.setLanding_claims : (s.setLanding c l).claims = s.claims := rfl
@[simp] theorem State.setLanding_carriages : (s.setLanding c l).carriages = s.carriages := rfl
@[simp] theorem State.setLanding_pins : (s.setLanding c l).pins = s.pins := rfl
@[simp] theorem State.setLanding_disp : (s.setLanding c l).disp = s.disp := rfl
@[simp] theorem State.setLanding_mu : (s.setLanding c l).mu = s.mu := rfl
@[simp] theorem State.setLanding_guard : (s.setLanding c l).guard = s.guard := rfl
@[simp] theorem State.setLanding_nets : (s.setLanding c l).nets = s.nets := rfl
@[simp] theorem State.setLanding_frame : (s.setLanding c l).frame = s.frame := rfl
@[simp] theorem State.setLanding_log : (s.setLanding c l).log = s.log := rfl
@[simp] theorem State.setLanding_fetch : (s.setLanding c l).fetch = s.fetch := rfl
end

section
variable (c : Carriage) (g : Landing → Landing)
@[simp] theorem State.modLanding_pending : (s.modLanding c g).pending = s.pending := rfl
@[simp] theorem State.modLanding_clock : (s.modLanding c g).clock = s.clock := rfl
@[simp] theorem State.modLanding_free : (s.modLanding c g).free = s.free := rfl
@[simp] theorem State.modLanding_linkOut : (s.modLanding c g).linkOut = s.linkOut := rfl
@[simp] theorem State.modLanding_hostMem : (s.modLanding c g).hostMem = s.hostMem := rfl
@[simp] theorem State.modLanding_regs : (s.modLanding c g).regs = s.regs := rfl
@[simp] theorem State.modLanding_run : (s.modLanding c g).run = s.run := rfl
@[simp] theorem State.modLanding_setup : (s.modLanding c g).setup = s.setup := rfl
@[simp] theorem State.modLanding_claims : (s.modLanding c g).claims = s.claims := rfl
@[simp] theorem State.modLanding_carriages : (s.modLanding c g).carriages = s.carriages := rfl
@[simp] theorem State.modLanding_pins : (s.modLanding c g).pins = s.pins := rfl
@[simp] theorem State.modLanding_disp : (s.modLanding c g).disp = s.disp := rfl
@[simp] theorem State.modLanding_mu : (s.modLanding c g).mu = s.mu := rfl
@[simp] theorem State.modLanding_guard : (s.modLanding c g).guard = s.guard := rfl
@[simp] theorem State.modLanding_nets : (s.modLanding c g).nets = s.nets := rfl
@[simp] theorem State.modLanding_frame : (s.modLanding c g).frame = s.frame := rfl
@[simp] theorem State.modLanding_log : (s.modLanding c g).log = s.log := rfl
@[simp] theorem State.modLanding_fetch : (s.modLanding c g).fetch = s.fetch := rfl
end

section
variable (k : Nat) (g : Entry → Entry)
@[simp] theorem State.modEntry_pending : (s.modEntry k g).pending = s.pending := rfl
@[simp] theorem State.modEntry_clock : (s.modEntry k g).clock = s.clock := rfl
@[simp] theorem State.modEntry_free : (s.modEntry k g).free = s.free := rfl
@[simp] theorem State.modEntry_linkOut : (s.modEntry k g).linkOut = s.linkOut := rfl
@[simp] theorem State.modEntry_hostMem : (s.modEntry k g).hostMem = s.hostMem := rfl
@[simp] theorem State.modEntry_regs : (s.modEntry k g).regs = s.regs := rfl
@[simp] theorem State.modEntry_run : (s.modEntry k g).run = s.run := rfl
@[simp] theorem State.modEntry_setup : (s.modEntry k g).setup = s.setup := rfl
@[simp] theorem State.modEntry_claims : (s.modEntry k g).claims = s.claims := rfl
@[simp] theorem State.modEntry_carriages : (s.modEntry k g).carriages = s.carriages := rfl
@[simp] theorem State.modEntry_pins : (s.modEntry k g).pins = s.pins := rfl
@[simp] theorem State.modEntry_qual : (s.modEntry k g).qual = s.qual := rfl
@[simp] theorem State.modEntry_mu : (s.modEntry k g).mu = s.mu := rfl
@[simp] theorem State.modEntry_guard : (s.modEntry k g).guard = s.guard := rfl
@[simp] theorem State.modEntry_nets : (s.modEntry k g).nets = s.nets := rfl
@[simp] theorem State.modEntry_frame : (s.modEntry k g).frame = s.frame := rfl
@[simp] theorem State.modEntry_log : (s.modEntry k g).log = s.log := rfl
@[simp] theorem State.modEntry_fetch : (s.modEntry k g).fetch = s.fetch := rfl
end

section
@[simp] theorem State.markScan_pending : (s.markScan).pending = s.pending := rfl
@[simp] theorem State.markScan_clock : (s.markScan).clock = s.clock := rfl
@[simp] theorem State.markScan_free : (s.markScan).free = s.free := rfl
@[simp] theorem State.markScan_linkOut : (s.markScan).linkOut = s.linkOut := rfl
@[simp] theorem State.markScan_hostMem : (s.markScan).hostMem = s.hostMem := rfl
@[simp] theorem State.markScan_regs : (s.markScan).regs = s.regs := rfl
@[simp] theorem State.markScan_run : (s.markScan).run = s.run := rfl
@[simp] theorem State.markScan_setup : (s.markScan).setup = s.setup := rfl
@[simp] theorem State.markScan_claims : (s.markScan).claims = s.claims := rfl
@[simp] theorem State.markScan_carriages : (s.markScan).carriages = s.carriages := rfl
@[simp] theorem State.markScan_pins : (s.markScan).pins = s.pins := rfl
@[simp] theorem State.markScan_qual : (s.markScan).qual = s.qual := rfl
@[simp] theorem State.markScan_mu : (s.markScan).mu = s.mu := rfl
@[simp] theorem State.markScan_guard : (s.markScan).guard = s.guard := rfl
@[simp] theorem State.markScan_nets : (s.markScan).nets = s.nets := rfl
@[simp] theorem State.markScan_frame : (s.markScan).frame = s.frame := rfl
@[simp] theorem State.markScan_log : (s.markScan).log = s.log := rfl
@[simp] theorem State.markScan_fetch : (s.markScan).fetch = s.fetch := rfl
end

section
@[simp] theorem State.markReach_pending : (s.markReach).pending = s.pending := rfl
@[simp] theorem State.markReach_clock : (s.markReach).clock = s.clock := rfl
@[simp] theorem State.markReach_free : (s.markReach).free = s.free := rfl
@[simp] theorem State.markReach_linkOut : (s.markReach).linkOut = s.linkOut := rfl
@[simp] theorem State.markReach_hostMem : (s.markReach).hostMem = s.hostMem := rfl
@[simp] theorem State.markReach_regs : (s.markReach).regs = s.regs := rfl
@[simp] theorem State.markReach_run : (s.markReach).run = s.run := rfl
@[simp] theorem State.markReach_setup : (s.markReach).setup = s.setup := rfl
@[simp] theorem State.markReach_claims : (s.markReach).claims = s.claims := rfl
@[simp] theorem State.markReach_carriages : (s.markReach).carriages = s.carriages := rfl
@[simp] theorem State.markReach_pins : (s.markReach).pins = s.pins := rfl
@[simp] theorem State.markReach_qual : (s.markReach).qual = s.qual := rfl
@[simp] theorem State.markReach_mu : (s.markReach).mu = s.mu := rfl
@[simp] theorem State.markReach_guard : (s.markReach).guard = s.guard := rfl
@[simp] theorem State.markReach_nets : (s.markReach).nets = s.nets := rfl
@[simp] theorem State.markReach_frame : (s.markReach).frame = s.frame := rfl
@[simp] theorem State.markReach_log : (s.markReach).log = s.log := rfl
@[simp] theorem State.markReach_fetch : (s.markReach).fetch = s.fetch := rfl
end

section
variable (k : Nat)
@[simp] theorem State.markWithdraw_pending : (s.markWithdraw k).pending = s.pending := rfl
@[simp] theorem State.markWithdraw_clock : (s.markWithdraw k).clock = s.clock := rfl
@[simp] theorem State.markWithdraw_free : (s.markWithdraw k).free = s.free := rfl
@[simp] theorem State.markWithdraw_linkOut : (s.markWithdraw k).linkOut = s.linkOut := rfl
@[simp] theorem State.markWithdraw_hostMem : (s.markWithdraw k).hostMem = s.hostMem := rfl
@[simp] theorem State.markWithdraw_regs : (s.markWithdraw k).regs = s.regs := rfl
@[simp] theorem State.markWithdraw_run : (s.markWithdraw k).run = s.run := rfl
@[simp] theorem State.markWithdraw_setup : (s.markWithdraw k).setup = s.setup := rfl
@[simp] theorem State.markWithdraw_claims : (s.markWithdraw k).claims = s.claims := rfl
@[simp] theorem State.markWithdraw_carriages : (s.markWithdraw k).carriages = s.carriages := rfl
@[simp] theorem State.markWithdraw_pins : (s.markWithdraw k).pins = s.pins := rfl
@[simp] theorem State.markWithdraw_qual : (s.markWithdraw k).qual = s.qual := rfl
@[simp] theorem State.markWithdraw_mu : (s.markWithdraw k).mu = s.mu := rfl
@[simp] theorem State.markWithdraw_guard : (s.markWithdraw k).guard = s.guard := rfl
@[simp] theorem State.markWithdraw_nets : (s.markWithdraw k).nets = s.nets := rfl
@[simp] theorem State.markWithdraw_frame : (s.markWithdraw k).frame = s.frame := rfl
@[simp] theorem State.markWithdraw_log : (s.markWithdraw k).log = s.log := rfl
@[simp] theorem State.markWithdraw_fetch : (s.markWithdraw k).fetch = s.fetch := rfl
end

section
variable (a : Word64) (b : List Byte)
@[simp] theorem State.writeHost_pending : (s.writeHost a b).pending = s.pending := rfl
@[simp] theorem State.writeHost_clock : (s.writeHost a b).clock = s.clock := rfl
@[simp] theorem State.writeHost_free : (s.writeHost a b).free = s.free := rfl
@[simp] theorem State.writeHost_linkOut : (s.writeHost a b).linkOut = s.linkOut := rfl
@[simp] theorem State.writeHost_regs : (s.writeHost a b).regs = s.regs := rfl
@[simp] theorem State.writeHost_run : (s.writeHost a b).run = s.run := rfl
@[simp] theorem State.writeHost_setup : (s.writeHost a b).setup = s.setup := rfl
@[simp] theorem State.writeHost_claims : (s.writeHost a b).claims = s.claims := rfl
@[simp] theorem State.writeHost_carriages : (s.writeHost a b).carriages = s.carriages := rfl
@[simp] theorem State.writeHost_pins : (s.writeHost a b).pins = s.pins := rfl
@[simp] theorem State.writeHost_qual : (s.writeHost a b).qual = s.qual := rfl
@[simp] theorem State.writeHost_disp : (s.writeHost a b).disp = s.disp := rfl
@[simp] theorem State.writeHost_mu : (s.writeHost a b).mu = s.mu := rfl
@[simp] theorem State.writeHost_guard : (s.writeHost a b).guard = s.guard := rfl
@[simp] theorem State.writeHost_nets : (s.writeHost a b).nets = s.nets := rfl
@[simp] theorem State.writeHost_frame : (s.writeHost a b).frame = s.frame := rfl
@[simp] theorem State.writeHost_log : (s.writeHost a b).log = s.log := rfl
@[simp] theorem State.writeHost_fetch : (s.writeHost a b).fetch = s.fetch := rfl
end

section
variable (i v : Nat)
@[simp] theorem State.writeStation_pending : (s.writeStation i v).pending = s.pending := rfl
@[simp] theorem State.writeStation_clock : (s.writeStation i v).clock = s.clock := rfl
@[simp] theorem State.writeStation_free : (s.writeStation i v).free = s.free := rfl
@[simp] theorem State.writeStation_linkOut : (s.writeStation i v).linkOut = s.linkOut := rfl
@[simp] theorem State.writeStation_regs : (s.writeStation i v).regs = s.regs := rfl
@[simp] theorem State.writeStation_run : (s.writeStation i v).run = s.run := rfl
@[simp] theorem State.writeStation_setup : (s.writeStation i v).setup = s.setup := rfl
@[simp] theorem State.writeStation_claims : (s.writeStation i v).claims = s.claims := rfl
@[simp] theorem State.writeStation_carriages : (s.writeStation i v).carriages = s.carriages := rfl
@[simp] theorem State.writeStation_pins : (s.writeStation i v).pins = s.pins := rfl
@[simp] theorem State.writeStation_qual : (s.writeStation i v).qual = s.qual := rfl
@[simp] theorem State.writeStation_disp : (s.writeStation i v).disp = s.disp := rfl
@[simp] theorem State.writeStation_mu : (s.writeStation i v).mu = s.mu := rfl
@[simp] theorem State.writeStation_guard : (s.writeStation i v).guard = s.guard := rfl
@[simp] theorem State.writeStation_nets : (s.writeStation i v).nets = s.nets := rfl
@[simp] theorem State.writeStation_frame : (s.writeStation i v).frame = s.frame := rfl
@[simp] theorem State.writeStation_log : (s.writeStation i v).log = s.log := rfl
@[simp] theorem State.writeStation_fetch : (s.writeStation i v).fetch = s.fetch := rfl
end

section
variable (n : Note)
@[simp] theorem State.offerNote_pending : (s.offerNote n).pending = s.pending := rfl
@[simp] theorem State.offerNote_clock : (s.offerNote n).clock = s.clock := rfl
@[simp] theorem State.offerNote_free : (s.offerNote n).free = s.free := rfl
@[simp] theorem State.offerNote_linkOut : (s.offerNote n).linkOut = s.linkOut := rfl
@[simp] theorem State.offerNote_hostMem : (s.offerNote n).hostMem = s.hostMem := rfl
@[simp] theorem State.offerNote_regs : (s.offerNote n).regs = s.regs := rfl
@[simp] theorem State.offerNote_run : (s.offerNote n).run = s.run := rfl
@[simp] theorem State.offerNote_setup : (s.offerNote n).setup = s.setup := rfl
@[simp] theorem State.offerNote_claims : (s.offerNote n).claims = s.claims := rfl
@[simp] theorem State.offerNote_carriages : (s.offerNote n).carriages = s.carriages := rfl
@[simp] theorem State.offerNote_pins : (s.offerNote n).pins = s.pins := rfl
@[simp] theorem State.offerNote_qual : (s.offerNote n).qual = s.qual := rfl
@[simp] theorem State.offerNote_disp : (s.offerNote n).disp = s.disp := rfl
@[simp] theorem State.offerNote_mu : (s.offerNote n).mu = s.mu := rfl
@[simp] theorem State.offerNote_guard : (s.offerNote n).guard = s.guard := rfl
@[simp] theorem State.offerNote_nets : (s.offerNote n).nets = s.nets := rfl
@[simp] theorem State.offerNote_frame : (s.offerNote n).frame = s.frame := rfl
@[simp] theorem State.offerNote_fetch : (s.offerNote n).fetch = s.fetch := rfl
end

section
variable (k : IntCause)
@[simp] theorem State.raise_pending : (s.raise k).pending = s.pending := rfl
@[simp] theorem State.raise_clock : (s.raise k).clock = s.clock := rfl
@[simp] theorem State.raise_free : (s.raise k).free = s.free := rfl
@[simp] theorem State.raise_linkOut : (s.raise k).linkOut = s.linkOut := rfl
@[simp] theorem State.raise_hostMem : (s.raise k).hostMem = s.hostMem := rfl
@[simp] theorem State.raise_run : (s.raise k).run = s.run := rfl
@[simp] theorem State.raise_setup : (s.raise k).setup = s.setup := rfl
@[simp] theorem State.raise_claims : (s.raise k).claims = s.claims := rfl
@[simp] theorem State.raise_carriages : (s.raise k).carriages = s.carriages := rfl
@[simp] theorem State.raise_pins : (s.raise k).pins = s.pins := rfl
@[simp] theorem State.raise_qual : (s.raise k).qual = s.qual := rfl
@[simp] theorem State.raise_disp : (s.raise k).disp = s.disp := rfl
@[simp] theorem State.raise_mu : (s.raise k).mu = s.mu := rfl
@[simp] theorem State.raise_guard : (s.raise k).guard = s.guard := rfl
@[simp] theorem State.raise_nets : (s.raise k).nets = s.nets := rfl
@[simp] theorem State.raise_frame : (s.raise k).frame = s.frame := rfl
@[simp] theorem State.raise_log : (s.raise k).log = s.log := rfl
@[simp] theorem State.raise_fetch : (s.raise k).fetch = s.fetch := rfl
end

section
variable (q : CommandResult)
@[simp] theorem State.setLast_pending : (s.setLast q).pending = s.pending := rfl
@[simp] theorem State.setLast_clock : (s.setLast q).clock = s.clock := rfl
@[simp] theorem State.setLast_free : (s.setLast q).free = s.free := rfl
@[simp] theorem State.setLast_linkOut : (s.setLast q).linkOut = s.linkOut := rfl
@[simp] theorem State.setLast_hostMem : (s.setLast q).hostMem = s.hostMem := rfl
@[simp] theorem State.setLast_regs : (s.setLast q).regs = s.regs := rfl
@[simp] theorem State.setLast_setup : (s.setLast q).setup = s.setup := rfl
@[simp] theorem State.setLast_claims : (s.setLast q).claims = s.claims := rfl
@[simp] theorem State.setLast_carriages : (s.setLast q).carriages = s.carriages := rfl
@[simp] theorem State.setLast_pins : (s.setLast q).pins = s.pins := rfl
@[simp] theorem State.setLast_qual : (s.setLast q).qual = s.qual := rfl
@[simp] theorem State.setLast_disp : (s.setLast q).disp = s.disp := rfl
@[simp] theorem State.setLast_mu : (s.setLast q).mu = s.mu := rfl
@[simp] theorem State.setLast_guard : (s.setLast q).guard = s.guard := rfl
@[simp] theorem State.setLast_nets : (s.setLast q).nets = s.nets := rfl
@[simp] theorem State.setLast_frame : (s.setLast q).frame = s.frame := rfl
@[simp] theorem State.setLast_log : (s.setLast q).log = s.log := rfl
@[simp] theorem State.setLast_fetch : (s.setLast q).fetch = s.fetch := rfl
end

/-! ## One carriage, one side -/

@[simp] theorem Six.get_set_same {α : Type} (v : Six α) (c : Carriage) (a : α) : (v.set c a).get c = a := by
  cases c <;> rfl

theorem Six.get_set_ne {α : Type} (v : Six α) {c d : Carriage} (a : α) (h : d ≠ c) : (v.set c a).get d = v.get d := by
  cases c <;> cases d <;> first | rfl | exact absurd rfl h

theorem Six.get_set {α : Type} (v : Six α) (c d : Carriage) (a : α) :
    (v.set c a).get d = if d = c then a else v.get d := by
  split
  · next h => subst h; exact v.get_set_same d a
  · next h => exact v.get_set_ne a h

@[simp] theorem Six.get_all {α : Type} (a : α) (c : Carriage) : (Six.all a).get c = a := by cases c <;> rfl

@[simp] theorem Sides.get_set_same {α : Type} (v : Sides α) (d : Side) (a : α) : (v.set d a).get d = a := by
  cases d <;> rfl

theorem Sides.get_set {α : Type} (v : Sides α) (d e : Side) (a : α) :
    (v.set d a).get e = if e = d then a else v.get e := by
  cases d <;> cases e <;> rfl

@[simp] theorem Sides.get_both {α : Type} (a : α) (d : Side) : (Sides.both a).get d = a := by cases d <;> rfl

@[simp] theorem State.carr_modCarr_same (c : Carriage) (f : CarriageRec → CarriageRec) :
    (s.modCarr c f).carr c = f (s.carr c) := Six.get_set_same ..

theorem State.carr_modCarr_ne {c d : Carriage} (f : CarriageRec → CarriageRec) (h : d ≠ c) :
    (s.modCarr c f).carr d = s.carr d := Six.get_set_ne _ _ h

theorem State.carr_modCarr (c d : Carriage) (f : CarriageRec → CarriageRec) :
    (s.modCarr c f).carr d = if d = c then f (s.carr c) else s.carr d := Six.get_set ..

@[simp] theorem State.table_modTable_same (d : Side) (f : ClaimTable → ClaimTable) :
    (s.modTable d f).table d = f (s.table d) := Sides.get_set_same ..

theorem State.table_modTable (d e : Side) (f : ClaimTable → ClaimTable) :
    (s.modTable d f).table e = if e = d then f (s.table d) else s.table e := Sides.get_set ..

@[simp] theorem State.landing_setLanding_same (c : Carriage) (l : Option Landing) : (s.setLanding c l).landing c = l :=
  Six.get_set_same ..

theorem State.landing_setLanding (c d : Carriage) (l : Option Landing) :
    (s.setLanding c l).landing d = if d = c then l else s.landing d := Six.get_set ..

@[simp] theorem State.modEntry_window (k : Nat) (g : Entry → Entry) :
    (s.modEntry k g).disp.window = s.disp.window.map fun e => if e.slot == k then g e else e := rfl

@[simp] theorem State.offerNote_capacity (n : Note) : (s.offerNote n).log.capacity = s.log.capacity := by
  simp only [State.offerNote, State.updLog_log]; split <;> rfl

end Sys2Proof.Machine
end

