-- ==== Sys2Proof/Laws/Lanes.lean ====
section
/-! SUPPORT. Lanes and owner cells: what painting, freeing and testing an interval says of each cell, and what a claim
is. -/

namespace Sys2Proof.Machine

set_option Elab.async false

/-! ## Painting -/

@[simp] theorem paintFrom_length (i : Interval) (v : Option Carriage) (k : Nat) (l : List (Option Carriage)) :
    (paintFrom i v k l).length = l.length := by
  induction l generalizing k with
  | nil => rfl
  | cons x rest ih => simp [paintFrom, ih]

@[simp] theorem paint_length (i : Interval) (v : Option Carriage) (l : List (Option Carriage)) :
    (paint i v l).length = l.length := paintFrom_length ..

@[simp] theorem freeCells_length (c : Carriage) (l : List (Option Carriage)) : (freeCells c l).length = l.length := by
  simp [freeCells]

theorem paintFrom_getElem? (i : Interval) (v : Option Carriage) (b : Nat) (l : List (Option Carriage)) (k : Nat) :
    (paintFrom i v b l)[k]? = l[k]?.map fun x => if i.lo ≤ b + k ∧ b + k ≤ i.hi then v else x := by
  induction l generalizing b k with
  | nil => simp [paintFrom]
  | cons x rest ih =>
    cases k with
    | zero => simp [paintFrom]
    | succ k => simp [paintFrom, ih, Nat.add_assoc, Nat.add_comm 1 k]

/-- Each cell after painting: the new owner inside the interval, as before outside. -/
theorem paint_getElem? (i : Interval) (v : Option Carriage) (l : List (Option Carriage)) (k : Nat) :
    (paint i v l)[k]? = l[k]?.map fun x => if i.lo ≤ k ∧ k ≤ i.hi then v else x := by
  simp [paint, paintFrom_getElem?]

theorem freeCells_getElem? (c : Carriage) (l : List (Option Carriage)) (k : Nat) :
    (freeCells c l)[k]? = l[k]?.map fun o => if o = some c then none else o := by
  simp [freeCells]

/-! ## The cells of an interval -/

theorem mem_cellsIn (i : Interval) (l : List (Option Carriage)) (o : Option Carriage) :
    o ∈ cellsIn i l ↔ ∃ k, i.lo ≤ k ∧ k ≤ i.hi ∧ l[k]? = some o := by
  simp only [cellsIn, List.mem_iff_getElem?, List.getElem?_take, List.getElem?_drop]
  constructor
  · rintro ⟨j, hj⟩
    split at hj
    · exact ⟨i.lo + j, by omega, by omega, hj⟩
    · cases hj
  · rintro ⟨k, h1, h2, h3⟩
    refine ⟨k - i.lo, ?_⟩
    rw [if_pos (by omega), show i.lo + (k - i.lo) = k by omega, h3]

/-- Every lane of the interval is FREE or the carriage's own (R27). -/
theorem lanesFreeFor_iff (c : Carriage) (i : Interval) (l : List (Option Carriage)) :
    lanesFreeFor c i l = true ↔ ∀ k o, i.lo ≤ k → k ≤ i.hi → l[k]? = some o → o = none ∨ o = some c := by
  simp only [lanesFreeFor, List.all_eq_true, mem_cellsIn, Bool.or_eq_true, beq_iff_eq]
  constructor
  · exact fun h k o h1 h2 h3 => h o ⟨k, h1, h2, h3⟩
  · rintro h o ⟨k, h1, h2, h3⟩
    exact h k o h1 h2 h3

/-- A grant takes no lane from another carriage (R28). -/
theorem paint_keeps_other {c d : Carriage} {i : Interval} {l : List (Option Carriage)} {k : Nat}
    (hf : lanesFreeFor c i l = true) (hd : l[k]? = some (some d)) :
    (paint i (some c) l)[k]? = some (some d) := by
  rw [paint_getElem?, hd, Option.map_some]
  split
  · next h =>
    rcases (lanesFreeFor_iff c i l).1 hf k _ h.1 h.2 hd with h | h
    · cases h
    · rw [h]
  · rfl

/-! ## Claims -/

theorem claimFrom_none (c : Carriage) (b : Nat) (l : List (Option Carriage)) :
    claimFrom c b l = none ↔ some c ∉ l := by
  induction l generalizing b with
  | nil => simp [claimFrom]
  | cons x rest ih =>
    simp only [claimFrom, List.mem_cons, not_or]
    cases h : claimFrom c (b + 1) rest with
    | none =>
      have := (ih (b + 1)).1 h
      by_cases e : x = some c <;> simp [e, this, eq_comm]
    | some i =>
      have : some c ∈ rest := by
        by_contra hn
        rw [(ih (b + 1)).2 hn] at h
        cases h
      by_cases e : x = some c <;> simp [e, this]

/-- A claim runs from the first to the last cell of its carriage (R24). -/
theorem claimFrom_some {c : Carriage} {b : Nat} {l : List (Option Carriage)} {i : Interval}
    (h : claimFrom c b l = some i) :
    b ≤ i.lo ∧ i.lo ≤ i.hi ∧ l[i.lo - b]? = some (some c) ∧ l[i.hi - b]? = some (some c) ∧
      ∀ k, l[k]? = some (some c) → i.lo ≤ b + k ∧ b + k ≤ i.hi := by
  induction l generalizing b i with
  | nil => simp [claimFrom] at h
  | cons x rest ih =>
    simp only [claimFrom] at h
    cases hr : claimFrom c (b + 1) rest with
    | none =>
      rw [hr] at h
      have hn := (claimFrom_none c (b + 1) rest).1 hr
      by_cases e : x = some c
      · subst e
        simp only [ite_true, Option.some.injEq] at h
        subst h
        refine ⟨by simp, by simp, by simp, by simp, fun k hk => ?_⟩
        cases k with
        | zero => simp
        | succ k =>
          simp only [List.getElem?_cons_succ] at hk
          exact absurd (List.mem_of_getElem? hk) hn
      · simp [e] at h
    | some j =>
      rw [hr] at h
      obtain ⟨h1, h2, h3, h4, h5⟩ := ih hr
      have g3 : (x :: rest)[j.lo - b]? = some (some c) := by
        rw [show j.lo - b = (j.lo - (b + 1)) + 1 by omega]; simpa using h3
      have g4 : (x :: rest)[j.hi - b]? = some (some c) := by
        rw [show j.hi - b = (j.hi - (b + 1)) + 1 by omega]; simpa using h4
      by_cases e : x = some c
      · simp only [e, ite_true, Option.some.injEq] at h
        subst h
        refine ⟨by simp, by simp; omega, by simp [e], g4, fun k hk => ?_⟩
        cases k with
        | zero => simp; omega
        | succ k =>
          have := h5 k (by simpa using hk)
          simp; omega
      · simp only [e, ite_false, Option.some.injEq] at h
        subst h
        refine ⟨by omega, h2, g3, g4, fun k hk => ?_⟩
        cases k with
        | zero => simp at hk; exact absurd hk e
        | succ k =>
          have := h5 k (by simpa using hk)
          omega

/-! ## Intervals -/

theorem Interval.meets_comm (a b : Interval) : a.meets b = b.meets a := by
  simp [Interval.meets, Bool.and_comm]

/-- Two intervals meet when they have a lane in common. -/
theorem Interval.meets_iff (a b : Interval) (ha : a.lo ≤ a.hi) (hb : b.lo ≤ b.hi) :
    a.meets b = true ↔ ∃ k, (a.lo ≤ k ∧ k ≤ a.hi) ∧ b.lo ≤ k ∧ k ≤ b.hi := by
  simp only [Interval.meets, Bool.and_eq_true, decide_eq_true_eq]
  constructor
  · intro h
    exact ⟨max a.lo b.lo, by omega, by omega⟩
  · rintro ⟨k, h1, h2⟩
    omega

variable (s : State)

@[simp] theorem State.takeLanes_cells_same (c : Carriage) (i : Interval) :
    ((s.takeLanes c i).table (sideOf c)).cells = paint i (some c) (s.table (sideOf c)).cells := by
  simp [State.takeLanes]

/-- A grant changes no cell of the other side (R39). -/
theorem State.takeLanes_other (c : Carriage) (i : Interval) {d : Side} (h : d ≠ sideOf c) :
    (s.takeLanes c i).table d = s.table d := by
  simp [State.takeLanes, State.table_modTable, h]

/-- A grant leaves every lane another carriage owns with that carriage (R28). -/
theorem State.takeLanes_keeps {c x : Carriage} {i : Interval} {d : Side} {k : Nat}
    (hf : lanesFreeFor c i (s.table (sideOf c)).cells = true) (hx : (s.table d).cells[k]? = some (some x)) :
    ((s.takeLanes c i).table d).cells[k]? = some (some x) := by
  by_cases h : d = sideOf c
  · subst h
    rw [s.takeLanes_cells_same]
    exact paint_keeps_other hf hx
  · rw [s.takeLanes_other c i h]; exact hx

end Sys2Proof.Machine
end

