-- ==== Sys2Proof/Laws/Claims.lean ====
section
/-! SUPPORT. What a grant, a release and START's claim build do to the laws of the Lane Claim Table (R24, R28, R32,
R36). -/

namespace Sys2Proof.Machine

set_option Elab.async false

/-- A cell names a carriage. -/
abbrev Owns (l : List (Option Carriage)) (k : Nat) (c : Carriage) : Prop := l[k]? = some (some c)

theorem Owns.lt {l : List (Option Carriage)} {k : Nat} {c : Carriage} (h : Owns l k c) : k < l.length :=
  (List.getElem?_eq_some_iff.1 h).1

/-- A carriage that owns a lane has a claim. -/
theorem claimFrom_of_owns {c : Carriage} {l : List (Option Carriage)} {k : Nat} (h : Owns l k c) :
    ∃ i, claimFrom c 0 l = some i := by
  cases e : claimFrom c 0 l with
  | some i => exact ⟨i, rfl⟩
  | none => exact absurd (List.mem_of_getElem? h) ((claimFrom_none _ _ _).1 e)

/-- A claim is the span from the first to the last lane of its carriage. -/
theorem claimFrom_spec {c : Carriage} {l : List (Option Carriage)} {i : Interval} (h : claimFrom c 0 l = some i) :
    i.lo ≤ i.hi ∧ Owns l i.lo c ∧ Owns l i.hi c ∧ ∀ k, Owns l k c → i.lo ≤ k ∧ k ≤ i.hi := by
  obtain ⟨-, h2, h3, h4, h5⟩ := claimFrom_some h
  exact ⟨h2, by simpa using h3, by simpa using h4, fun k hk => by simpa using h5 k hk⟩

/-- Two arrays that name a carriage in the same lanes give it the same claim. -/
theorem claimFrom_congr {c : Carriage} {l l' : List (Option Carriage)} (h : ∀ a, Owns l' a c ↔ Owns l a c) :
    claimFrom c 0 l' = claimFrom c 0 l := by
  cases e : claimFrom c 0 l with
  | none =>
    rw [claimFrom_none] at e ⊢
    intro hm
    obtain ⟨a, ha⟩ := List.mem_iff_getElem?.1 hm
    exact e (List.mem_of_getElem? ((h a).1 ha))
  | some i =>
    obtain ⟨h1, h2, h3, h4⟩ := claimFrom_spec e
    obtain ⟨j, hj⟩ := claimFrom_of_owns ((h _).2 h2)
    obtain ⟨j1, j2, j3, j4⟩ := claimFrom_spec hj
    have a1 := j4 _ ((h _).2 h2)
    have a2 := j4 _ ((h _).2 h3)
    have a3 := h4 _ ((h _).1 j2)
    have a4 := h4 _ ((h _).1 j3)
    rw [hj]
    congr 1
    cases i
    cases j
    simp at *
    omega

theorem owns_paint (i : Interval) (c x : Carriage) (l : List (Option Carriage)) (k : Nat) :
    Owns (paint i (some c) l) k x ↔
      (k < l.length ∧ i.lo ≤ k ∧ k ≤ i.hi ∧ x = c) ∨ (Owns l k x ∧ ¬(i.lo ≤ k ∧ k ≤ i.hi)) := by
  unfold Owns
  rw [paint_getElem?]
  by_cases hk : k < l.length
  · rw [List.getElem?_eq_getElem hk]
    simp only [Option.map_some, Option.some.injEq, hk, true_and]
    split
    · next h => simp [h, eq_comm]
    · next h =>
      simp [h]
      intro h1 h2
      exact absurd ⟨h1, h2⟩ h
  · rw [List.getElem?_eq_none (by omega)]
    simp [hk]

theorem owns_freeCells (c x : Carriage) (l : List (Option Carriage)) (k : Nat) :
    Owns (freeCells c l) k x ↔ x ≠ c ∧ Owns l k x := by
  unfold Owns
  rw [freeCells_getElem?]
  cases l[k]? with
  | none => simp
  | some o =>
    simp only [Option.map_some, Option.some.injEq]
    constructor
    · intro hh
      split at hh
      · cases hh
      · next hne => subst hh; exact ⟨by simpa using hne, rfl⟩
    · rintro ⟨h1, rfl⟩
      simp [h1]

/-! ## A grant -/

/-- The lanes after a grant: the granted interval to the carriage, every other carriage's as they were (R28). -/
theorem owns_grant {l : List (Option Carriage)} {c : Carriage} {k j : Interval} (hk : claimFrom c 0 l = some k)
    (h1 : j.lo ≤ k.lo) (h2 : k.hi ≤ j.hi) (hf : lanesFreeFor c j l = true) (a : Nat) (x : Carriage) :
    Owns (paint j (some c) l) a x ↔ (x = c ∧ a < l.length ∧ j.lo ≤ a ∧ a ≤ j.hi) ∨ (x ≠ c ∧ Owns l a x) := by
  obtain ⟨-, -, -, k4⟩ := claimFrom_spec hk
  rw [owns_paint]
  constructor
  · rintro (⟨h3, h4, h5, rfl⟩ | ⟨h3, h4⟩)
    · exact .inl ⟨rfl, h3, h4, h5⟩
    · refine .inr ⟨?_, h3⟩
      rintro rfl
      have := k4 a h3
      exact h4 (by omega)
  · rintro (⟨rfl, h3, h4, h5⟩ | ⟨h3, h4⟩)
    · exact .inl ⟨h3, h4, h5, rfl⟩
    · refine .inr ⟨h4, ?_⟩
      rintro ⟨h5, h6⟩
      rcases (lanesFreeFor_iff c j l).1 hf a _ h5 h6 h4 with h | h
      · cases h
      · exact h3 (by simpa using h)

/-- A lane the grant covers is no other carriage's (R28). -/
theorem grant_clear {l : List (Option Carriage)} {c x : Carriage} {j : Interval} {a : Nat}
    (hf : lanesFreeFor c j l = true) (hx : x ≠ c) (ha : Owns l a x) : ¬(j.lo ≤ a ∧ a ≤ j.hi) := by
  rintro ⟨h3, h4⟩
  rcases (lanesFreeFor_iff c j l).1 hf a _ h3 h4 ha with h | h
  · cases h
  · exact hx (by simpa using h)

/-- A grant keeps the laws of the table (R24, R28). -/
theorem ClaimTable.Lawful.grant {d : Side} {t : ClaimTable} {c : Carriage} {k j : Interval} (h : t.Lawful d)
    (hk : claimFrom c 0 t.cells = some k) (h1 : j.lo ≤ k.lo) (h2 : k.hi ≤ j.hi)
    (hf : lanesFreeFor c j t.cells = true) (hp : ∀ e ∈ t.pend, e.carriage = c → e.span = j) :
    ({ t with cells := paint j (some c) t.cells } : ClaimTable).Lawful d := by
  have key := owns_grant hk h1 h2 hf
  obtain ⟨k1, k2, k3, k4⟩ := claimFrom_spec hk
  refine ⟨by simp [h.lanes], ?_, ?_, ?_, h.once, fun e he => ?_⟩
  · intro a x ha
    rcases (key a x).1 ha with ⟨rfl, -⟩ | ⟨-, h3⟩
    · exact h.side _ _ k2
    · exact h.side _ _ h3
  · intro x a b m ha hb h3 h4
    rcases (key a x).1 ha with ⟨rfl, a1, a2, a3⟩ | ⟨hx, a1⟩
    · rcases (key b _).1 hb with ⟨-, b1, b2, b3⟩ | ⟨hx, b1⟩
      · exact (key m _).2 (.inl ⟨rfl, by omega, by omega, by omega⟩)
      · exact absurd rfl hx
    · rcases (key b _).1 hb with ⟨rfl, -⟩ | ⟨-, b1⟩
      · exact absurd rfl hx
      · exact (key m _).2 (.inr ⟨hx, h.contiguous x a b m a1 b1 h3 h4⟩)
  · intro x y a b ha hb hxy
    rcases (key a x).1 ha with ⟨rfl, a1, a2, a3⟩ | ⟨hx, a1⟩
    · rcases (key b y).1 hb with ⟨rfl, -⟩ | ⟨hy, b1⟩
      · omega
      · have := h.order _ _ _ _ k2 b1 hxy
        have := grant_clear hf hy b1
        omega
    · rcases (key b y).1 hb with ⟨rfl, b1, b2, b3⟩ | ⟨hy, b1⟩
      · have := h.order _ _ _ _ a1 k2 hxy
        have := grant_clear hf hx a1
        omega
      · exact h.order _ _ _ _ a1 b1 hxy
  · obtain ⟨s1, q, hq, s2, s3⟩ := h.covers e he
    refine ⟨s1, ?_⟩
    by_cases hc : e.carriage = c
    · have hs := hp e he hc
      subst hc
      obtain ⟨m, hm⟩ := claimFrom_of_owns ((key k.lo e.carriage).2 (.inl ⟨rfl, k2.lt, h1, by omega⟩))
      obtain ⟨m1, m2, m3, m4⟩ := claimFrom_spec hm
      rcases (key _ _).1 m2 with ⟨-, -, h5, -⟩ | ⟨h5, -⟩
      · rcases (key _ _).1 m3 with ⟨-, -, -, h6⟩ | ⟨h6, -⟩
        · exact ⟨m, hm, by rw [hs]; exact h5, by rw [hs]; exact h6⟩
        · exact absurd rfl h6
      · exact absurd rfl h5
    · refine ⟨q, ?_, s2, s3⟩
      rw [← hq]
      refine claimFrom_congr fun a => ?_
      rw [key]
      simp [hc]

/-! ## A release -/

/-- A release keeps the laws of the table (R24, R32). -/
theorem ClaimTable.Lawful.release {d : Side} {t : ClaimTable} {c : Carriage} {k i : Interval} (h : t.Lawful d)
    (hk : claimFrom c 0 t.cells = some k) (hw : i.within k = true) :
    ({ t with cells := paint i (some c) (freeCells c t.cells) } : ClaimTable).Lawful d := by
  obtain ⟨k1, k2, k3, k4⟩ := claimFrom_spec hk
  simp only [Interval.within, Bool.and_eq_true, decide_eq_true_eq] at hw
  have hall : ∀ a, i.lo ≤ a → a ≤ i.hi → Owns t.cells a c := fun a h1 h2 =>
    h.contiguous c _ _ a k2 k3 (by omega) (by omega)
  have key : ∀ a x, Owns (paint i (some c) (freeCells c t.cells)) a x ↔
      (x = c ∧ i.lo ≤ a ∧ a ≤ i.hi) ∨ (x ≠ c ∧ Owns t.cells a x) := by
    intro a x
    rw [owns_paint, owns_freeCells]
    constructor
    · rintro (⟨-, h4, h5, rfl⟩ | ⟨h3, -⟩)
      · exact .inl ⟨rfl, h4, h5⟩
      · exact .inr h3
    · rintro (⟨rfl, h4, h5⟩ | ⟨h3, h4⟩)
      · exact .inl ⟨by simpa using (hall a h4 h5).lt, h4, h5, rfl⟩
      · refine .inr ⟨⟨h3, h4⟩, ?_⟩
        rintro ⟨h5, h6⟩
        have h7 := hall a h5 h6
        unfold Owns at h4 h7
        rw [h7] at h4
        exact h3 (by simpa using h4.symm)
  refine ⟨by simp [h.lanes], ?_, ?_, ?_, h.once, fun e he => ?_⟩
  · intro a x ha
    rcases (key a x).1 ha with ⟨rfl, -⟩ | ⟨-, h3⟩
    · exact h.side _ _ k2
    · exact h.side _ _ h3
  · intro x a b m ha hb h3 h4
    rcases (key a x).1 ha with ⟨rfl, a1, a2⟩ | ⟨hx, a1⟩
    · rcases (key b _).1 hb with ⟨-, b1, b2⟩ | ⟨hx, b1⟩
      · exact (key m _).2 (.inl ⟨rfl, by omega, by omega⟩)
      · exact absurd rfl hx
    · rcases (key b _).1 hb with ⟨rfl, -⟩ | ⟨-, b1⟩
      · exact absurd rfl hx
      · exact (key m _).2 (.inr ⟨hx, h.contiguous x a b m a1 b1 h3 h4⟩)
  · intro x y a b ha hb hxy
    refine h.order x y a b ?_ ?_ hxy
    · rcases (key a x).1 ha with ⟨rfl, h1, h2⟩ | ⟨-, h3⟩
      · exact hall a h1 h2
      · exact h3
    · rcases (key b y).1 hb with ⟨rfl, h1, h2⟩ | ⟨-, h3⟩
      · exact hall b h1 h2
      · exact h3
  · obtain ⟨s1, q, hq, s2, s3⟩ := h.covers e he
    refine ⟨s1, ?_⟩
    by_cases hc : e.carriage = c
    · rw [hc] at hq ⊢
      obtain rfl : q = k := by rw [hk] at hq; exact (Option.some.inj hq).symm
      obtain ⟨m, hm⟩ := claimFrom_of_owns ((key i.lo c).2 (.inl ⟨rfl, le_rfl, hw.1.1⟩))
      obtain ⟨m1, m2, m3, m4⟩ := claimFrom_spec hm
      rcases (key _ _).1 m2 with ⟨-, h5, -⟩ | ⟨h5, -⟩
      · rcases (key _ _).1 m3 with ⟨-, -, h6⟩ | ⟨h6, -⟩
        · exact ⟨m, hm, by omega, by omega⟩
        · exact absurd rfl h6
      · exact absurd rfl h5
    · refine ⟨q, ?_, s2, s3⟩
      rw [← hq]
      refine claimFrom_congr fun a => ?_
      rw [key]
      simp [hc]

/-! ## START's claim build (R36) -/

/-- Painting disjoint intervals in index order gives lanes in index order. -/
theorem owns_foldl_paint (J : Carriage → Interval) (l : List Carriage) (cells : List (Option Carriage))
    (hl : l.Pairwise fun x y => ∀ a, (J x).lo ≤ a → a ≤ (J x).hi → a < cells.length → ¬((J y).lo ≤ a ∧ a ≤ (J y).hi))
    (hn : ∀ x ∈ l, ∀ a, (J x).lo ≤ a → a ≤ (J x).hi → a < cells.length → cells[a]? = some none) (a : Nat)
    (x : Carriage) :
    Owns (l.foldl (fun t c => paint (J c) (some c) t) cells) a x ↔
      Owns cells a x ∨ (x ∈ l ∧ a < cells.length ∧ (J x).lo ≤ a ∧ a ≤ (J x).hi) := by
  induction l generalizing cells with
  | nil => simp
  | cons c rest ih =>
    obtain ⟨h1, h2⟩ := List.pairwise_cons.1 hl
    rw [List.foldl_cons, ih]
    · rw [owns_paint, paint_length]
      constructor
      · rintro ((⟨h3, h4, h5, rfl⟩ | ⟨h3, -⟩) | ⟨h3, h4⟩)
        · exact .inr ⟨by simp, h3, h4, h5⟩
        · exact .inl h3
        · exact .inr ⟨by simp [h3], h4⟩
      · rintro (h3 | ⟨h3, h4, h5, h6⟩)
        · refine .inl (.inr ⟨h3, ?_⟩)
          rintro ⟨h4, h5⟩
          have := hn c (by simp) a h4 h5 h3.lt
          rw [h3] at this
          cases this
        · rcases List.mem_cons.1 h3 with rfl | h3
          · exact .inl (.inl ⟨h4, h5, h6, rfl⟩)
          · exact .inr ⟨h3, h4, h5, h6⟩
    · simpa using h2
    · intro y hy b h3 h4 h5
      rw [paint_length] at h5
      rw [paint_getElem?, hn y (by simp [hy]) b h3 h4 h5]
      have := h1 y hy b
      simp only [Option.map_some, Option.some.injEq, ite_eq_right_iff]
      intro h6
      exact absurd ⟨h3, h4⟩ (this h6.1 h6.2 h5)

/-- A span holds a lane, or begins past the last one (R23). -/
theorem spanAt_edges (g lane : Nat) :
    ((spanAt g lane).lo ≤ (spanAt g lane).hi ∧ (spanAt g lane).hi ≤ 127) ∨
      (127 < (spanAt g lane).lo ∧ (spanAt g lane).hi = 127) := by
  simp only [spanAt, lastLane, Config.lanes]
  omega

/-- Rising spans are disjoint and increase, pair by pair. -/
theorem spansRise_pairwise (l : List Interval) (h : spansRise l = true)
    (he : ∀ i ∈ l, (i.lo ≤ i.hi ∧ i.hi ≤ 127) ∨ (127 < i.lo ∧ i.hi = 127)) :
    l.Pairwise fun i j => i.hi < j.lo ∨ 127 < j.lo := by
  induction l with
  | nil => exact .nil
  | cons a rest ih =>
    cases rest with
    | nil => simp
    | cons b rest =>
      simp only [spansRise, Interval.below, Bool.and_eq_true, decide_eq_true_eq] at h
      have hp := ih h.2 fun i hi => he i (by simp [hi])
      refine List.pairwise_cons.2 ⟨fun j hj => ?_, hp⟩
      rcases List.mem_cons.1 hj with rfl | hj
      · exact .inl h.1
      · have h1 := (List.pairwise_cons.1 hp).1 j hj
        have h2 := he b (by simp)
        omega

theorem mem_lowerThan (c z : Carriage) : z ∈ lowerThan c ↔ sideOf z = sideOf c ∧ driveNumber z < driveNumber c := by
  cases c <;> cases z <;> decide

theorem mem_higherThan (c z : Carriage) : z ∈ higherThan c ↔ sideOf z = sideOf c ∧ driveNumber c < driveNumber z := by
  cases c <;> cases z <;> decide

theorem lowerThan_sorted (c : Carriage) : (lowerThan c).Pairwise fun x y => driveNumber y < driveNumber x := by
  cases c <;> decide

theorem higherThan_sorted (c : Carriage) : (higherThan c).Pairwise fun x y => driveNumber x < driveNumber y := by
  cases c <;> decide

theorem mem_carriagesOf (c : Carriage) (d : Side) : c ∈ carriagesOf d ↔ sideOf c = d := by
  cases c <;> cases d <;> decide

theorem carriagesOf_sorted (d : Side) : (carriagesOf d).Pairwise fun x y => driveNumber x < driveNumber y := by
  cases d <;> decide

theorem carriage_eq {x y : Carriage} (h : driveNumber x = driveNumber y) : x = y := by
  revert h; cases x <;> cases y <;> decide

/-- The first answer of a list, and where it stands. -/
theorem head_filterMap {f : Carriage → Option Interval} {R : Carriage → Carriage → Prop} {l : List Carriage}
    {z : Carriage} (hz : z ∈ l) (hf : (f z).isSome = true) (hl : l.Pairwise R) :
    ∃ n i, n ∈ l ∧ f n = some i ∧ (l.filterMap f).head? = some i ∧ (z = n ∨ R n z) := by
  induction l with
  | nil => cases hz
  | cons a rest ih =>
    obtain ⟨h1, h2⟩ := List.pairwise_cons.1 hl
    cases e : f a with
    | some i =>
      refine ⟨a, i, by simp, e, by simp [e], ?_⟩
      rcases List.mem_cons.1 hz with rfl | hz
      · exact .inl rfl
      · exact .inr (h1 z hz)
    | none =>
      rcases List.mem_cons.1 hz with rfl | hz
      · rw [e] at hf; cases hf
      · obtain ⟨n, i, h3, h4, h5, h6⟩ := ih hz h2
        exact ⟨n, i, by simp [h3], h4, by simpa [e] using h5, h6⟩

/-- Between two silent carriages one answers (R36). -/
theorem State.answering_between {s : State} {l : List Carriage} (h : s.twoSilent l = false)
    (hl : l.Pairwise fun x y => driveNumber x < driveNumber y) {x y : Carriage} (hx : x ∈ l) (hy : y ∈ l)
    (hxy : driveNumber x < driveNumber y) (ax : s.answerSpan x = none) (ay : s.answerSpan y = none) :
    ∃ z ∈ l, (s.answerSpan z).isSome = true ∧ driveNumber x < driveNumber z ∧ driveNumber z < driveNumber y := by
  induction l with
  | nil => cases hx
  | cons a rest ih =>
    obtain ⟨h1, h2⟩ := List.pairwise_cons.1 hl
    cases rest with
    | nil =>
      simp only [List.mem_singleton] at hx hy
      subst hx; subst hy; omega
    | cons b rest =>
      simp only [State.twoSilent, Bool.or_eq_false_iff] at h
      have h3 := (List.pairwise_cons.1 h2).1
      rcases List.mem_cons.1 hy with rfl | hy'
      · rcases List.mem_cons.1 hx with rfl | hx'
        · omega
        · have := h1 x hx'; omega
      · rcases List.mem_cons.1 hx with rfl | hx'
        · have hb : (s.answerSpan b).isSome = true := by
            cases e : s.answerSpan b with
            | some _ => rfl
            | none => rw [ax, e] at h; exact absurd h.1 (by decide)
          refine ⟨b, by simp, hb, h1 b (by simp), ?_⟩
          rcases List.mem_cons.1 hy' with rfl | hy2
          · rw [ay] at hb; cases hb
          · exact h3 y hy2
        · obtain ⟨z, hz, h4⟩ := ih h.2 h2 hx' hy'
          exact ⟨z, by simp [hz], h4⟩

/-- The lanes a carriage takes in a build: its span, or its gap (R36). -/
def State.buildShare (s : State) (c : Carriage) : Interval :=
  match s.answerSpan c with
  | some i => i
  | none => ⟨(s.gap c).1, (s.gap c).2 - 1⟩

/-- An answering carriage's span holds a lane, or lies past the last one (R23). -/
theorem State.answerSpan_edges {s : State} {c : Carriage} {i : Interval} (h : s.answerSpan c = some i) :
    (i.lo ≤ i.hi ∧ i.hi ≤ 127) ∨ (127 < i.lo ∧ i.hi = 127) := by
  unfold State.answerSpan at h
  split at h
  · cases e : s.run.answers.get c with
    | none => rw [e] at h; cases h
    | some p =>
      rw [e] at h
      simp only [Option.map_some, Option.some.injEq] at h
      subst h
      exact spanAt_edges _ _
  · cases h

theorem State.mem_enabled {s : State} {c : Carriage} {d : Side} :
    c ∈ s.enabled d ↔ sideOf c = d ∧ (s.cset c).enabled = true := by
  simp only [State.enabled, Setup.enabledOn, List.mem_filter, mem_carriagesOf]; rfl

theorem State.answerSpan_enabled {s : State} {c : Carriage} (h : (s.answerSpan c).isSome = true) :
    (s.cset c).enabled = true := by
  unfold State.answerSpan at h
  split at h
  · next e => exact e
  · cases h

/-- Answering carriages stand in index order after the order check (R36). -/
theorem State.answers_rise {s : State} {d : Side} (h : s.orderOk d = true) {x y : Carriage} {i j : Interval}
    (hx : sideOf x = d) (hy : sideOf y = d) (hxy : driveNumber x < driveNumber y) (hi : s.answerSpan x = some i)
    (hj : s.answerSpan y = some j) : i.hi < j.lo ∨ 127 < j.lo := by
  simp only [State.orderOk, Bool.and_eq_true] at h
  have h1 := spansRise_pairwise _ h.1.1 fun k hk => by
    obtain ⟨c, -, hc⟩ := List.mem_filterMap.1 hk
    exact State.answerSpan_edges hc
  rw [List.pairwise_filterMap] at h1
  have hs : (s.enabled d).Pairwise fun x y => driveNumber x < driveNumber y := (carriagesOf_sorted d).filter _
  let R : Carriage → Carriage → Prop := fun a b => driveNumber a < driveNumber b → ∀ i, s.answerSpan a = some i →
    ∀ j, s.answerSpan b = some j → i.hi < j.lo ∨ 127 < j.lo
  have hsym : Std.Symm fun a b => R a b ∧ R b a := ⟨fun _ _ hab => ⟨hab.2, hab.1⟩⟩
  have hirr : ∀ a, R a a := fun a ha => absurd ha (lt_irrefl _)
  have hS := List.Pairwise.forall_of_forall (R := fun a b => R a b ∧ R b a) (fun a _ => ⟨hirr a, hirr a⟩)
    ((hs.and h1).imp fun {a b} hab => ⟨fun _ => hab.2, fun hba => absurd hba (by omega)⟩)
  refine (hS (State.mem_enabled.2 ⟨hx, ?_⟩) (State.mem_enabled.2 ⟨hy, ?_⟩)).1 hxy i hi j hj
  · exact State.answerSpan_enabled (by rw [hi]; rfl)
  · exact State.answerSpan_enabled (by rw [hj]; rfl)

/-- The gap of a carriage ends below every carriage above it that answers (R36). -/
theorem State.gap_above {s : State} {c z : Carriage} (hd : sideOf z = sideOf c)
    (hl : driveNumber c < driveNumber z) (hz : (s.answerSpan z).isSome = true) :
    ∃ n i, sideOf n = sideOf c ∧ s.answerSpan n = some i ∧ (s.gap c).2 = i.lo ∧ (n = z ∨ driveNumber n < driveNumber z) ∧
      driveNumber c < driveNumber n := by
  obtain ⟨n, i, h1, h2, h3, h4⟩ := head_filterMap ((mem_higherThan c z).2 ⟨hd, hl⟩) hz (higherThan_sorted c)
  rw [mem_higherThan] at h1
  refine ⟨n, i, h1.1, h2, ?_, h4.imp_left Eq.symm, h1.2⟩
  simp only [State.gap, h3]

/-- The gap of a carriage begins above every carriage below it that answers (R36). -/
theorem State.gap_below {s : State} {c z : Carriage} (hd : sideOf z = sideOf c)
    (hl : driveNumber z < driveNumber c) (hz : (s.answerSpan z).isSome = true) :
    ∃ n i, sideOf n = sideOf c ∧ s.answerSpan n = some i ∧ (s.gap c).1 = i.hi + 1 ∧ (n = z ∨ driveNumber z < driveNumber n) ∧
      driveNumber n < driveNumber c := by
  obtain ⟨n, i, h1, h2, h3, h4⟩ := head_filterMap ((mem_lowerThan c z).2 ⟨hd, hl⟩) hz (lowerThan_sorted c)
  rw [mem_lowerThan] at h1
  refine ⟨n, i, h1.1, h2, ?_, h4.imp_left Eq.symm, h1.2⟩
  simp only [State.gap, h3]

/-- The shares of a build stand in index order (R24, R36). -/
theorem State.shares_rise {s : State} {d : Side} (h : s.orderOk d = true) {x y : Carriage} (hx : x ∈ s.enabled d)
    (hy : y ∈ s.enabled d) (hxy : driveNumber x < driveNumber y) {a b : Nat}
    (ha : (s.buildShare x).lo ≤ a ∧ a ≤ (s.buildShare x).hi)
    (hb : (s.buildShare y).lo ≤ b ∧ b ≤ (s.buildShare y).hi) (hb' : b ≤ 127) : a < b := by
  obtain ⟨sx, ex⟩ := State.mem_enabled.1 hx
  obtain ⟨sy, ey⟩ := State.mem_enabled.1 hy
  have hh := h
  simp only [State.orderOk, Bool.and_eq_true, Bool.not_eq_true', List.all_eq_true] at hh
  have gx := hh.2 x hx
  have gy := hh.2 y hy
  cases e1 : s.answerSpan x with
  | some i =>
    simp only [State.buildShare, e1] at ha
    cases e2 : s.answerSpan y with
    | some j =>
      simp only [State.buildShare, e2] at hb
      have := State.answers_rise h sx sy hxy e1 e2
      omega
    | none =>
      simp only [State.buildShare, e2] at hb
      obtain ⟨n, k, h1, h2, h3, h4, h5⟩ := State.gap_below (s := s) (c := y) (z := x) (by rw [sx, sy]) hxy (by rw [e1]; rfl)
      have hk := State.answerSpan_edges h2
      rcases h4 with rfl | h4
      · rw [e1] at h2; cases h2; omega
      · have := State.answers_rise h sx (h1.trans sy) h4 e1 h2
        omega
  | none =>
    simp only [e1, Option.isSome_none, Bool.false_or, State.gapFits, Bool.and_eq_true, decide_eq_true_eq] at gx
    simp only [State.buildShare, e1] at ha
    cases e2 : s.answerSpan y with
    | some j =>
      simp only [State.buildShare, e2] at hb
      obtain ⟨n, k, h1, h2, h3, h4, h5⟩ := State.gap_above (s := s) (c := x) (z := y) (by rw [sx, sy]) hxy (by rw [e2]; rfl)
      have hk := State.answerSpan_edges h2
      rcases h4 with rfl | h4
      · rw [e2] at h2; cases h2; omega
      · have := State.answers_rise h (h1.trans sx) sy h4 h2 e2
        omega
    | none =>
      simp only [State.buildShare, e2] at hb
      obtain ⟨z, hz, az, h6, h7⟩ := State.answering_between hh.1.2 ((carriagesOf_sorted d).filter _) hx hy hxy e1 e2
      have sz := (State.mem_enabled.1 hz).1
      obtain ⟨n, k, h1, h2, h3, h4, h5⟩ := State.gap_above (s := s) (c := x) (z := z) (by rw [sx, sz]) h6 az
      obtain ⟨n', k', h1', h2', h3', h4', h5'⟩ := State.gap_below (s := s) (c := y) (z := z) (by rw [sy, sz]) h7 az
      have hk := State.answerSpan_edges h2
      have hk' := State.answerSpan_edges h2'
      have hn : driveNumber n ≤ driveNumber z := by rcases h4 with rfl | h4 <;> omega
      have hn' : driveNumber z ≤ driveNumber n' := by rcases h4' with rfl | h4' <;> omega
      rcases Nat.lt_or_eq_of_le (hn.trans hn') with hlt | heq
      · have := State.answers_rise h (h1.trans sx) (h1'.trans sy) hlt h2 h2'
        omega
      · cases carriage_eq heq
        rw [h2] at h2'; cases h2'
        omega

/-- START's claim build keeps the laws of the table (R24, R36). -/
theorem State.builtCells_lawful {s : State} {d : Side} (h : s.orderOk d = true) :
    (⟨s.builtCells d, []⟩ : ClaimTable).Lawful d := by
  have hrise := @State.shares_rise s d h
  have hfold : s.builtCells d =
      (s.enabled d).foldl (fun t c => paint (s.buildShare c) (some c) t) (List.replicate Config.lanes none) := by
    unfold State.builtCells
    congr 1
    funext t c
    unfold State.buildShare
    cases e : s.answerSpan c <;> rfl
  have hs : (s.enabled d).Pairwise fun x y => driveNumber x < driveNumber y := (carriagesOf_sorted d).filter _
  have key : ∀ a x, Owns (s.builtCells d) a x ↔
      x ∈ s.enabled d ∧ a < Config.lanes ∧ (s.buildShare x).lo ≤ a ∧ a ≤ (s.buildShare x).hi := by
    intro a x
    rw [hfold, owns_foldl_paint]
    · simp only [List.length_replicate, Owns, List.getElem?_replicate]
      constructor
      · rintro (h1 | h1)
        · split at h1 <;> cases h1
        · exact h1
      · exact .inr
    · refine hs.imp_of_mem fun {x y} hx hy hxy a h1 h2 h3 h4 => ?_
      have := hrise hx hy hxy ⟨h1, h2⟩ h4 (by simp [Config.lanes] at h3; omega)
      omega
    · intro x _ a _ _ h3
      simpa [List.getElem?_replicate] using h3
  refine ⟨by rw [hfold]; induction s.enabled d using List.reverseRecOn with
    | nil => simp
    | append_singleton l x ih => rw [List.foldl_append]; simpa using ih, ?_, ?_, ?_, by simp, by simp⟩
  · intro a x ha
    exact (State.mem_enabled.1 ((key a x).1 ha).1).1
  · intro x a b k ha hb h1 h2
    obtain ⟨a1, a2, a3, a4⟩ := (key a x).1 ha
    obtain ⟨b1, b2, b3, b4⟩ := (key b x).1 hb
    exact (key k x).2 ⟨a1, by omega, by omega, by omega⟩
  · intro x y a b ha hb hxy
    obtain ⟨a1, a2, a3⟩ := (key a x).1 ha
    obtain ⟨b1, b2, b3⟩ := (key b y).1 hb
    exact hrise a1 b1 hxy a3 b3 (by simp [Config.lanes] at b2; omega)

end Sys2Proof.Machine
end

