-- ==== Sys2Proof/Laws/Control.lean ====
section
/-! SUPPORT. The shared operations of the Run Controller, each said once as the whole record it leaves. -/

namespace Sys2Proof.Machine

set_option Elab.async false

variable {s : State}

/-- STATE reads nothing of host memory, nor what the controller record keeps beside what STATE shows. -/
theorem State.stateReg_congr {u : State} (hr : u.run.state = s.run.state) (hl : u.run.last = s.run.last)
    (hb : u.run.chainBreak = s.run.chainBreak) (hi : u.run.setupInvalid = s.run.setupInvalid)
    (ho : u.run.orderFault = s.run.orderFault) (hg : u.guard = s.guard) (hc : u.mu.calRange = s.mu.calRange)
    (hf : u.fetch.broken = s.fetch.broken) (hw : u.fetch.waiting = s.fetch.waiting) : u.stateReg = s.stateReg := by
  simp only [State.stateReg, State.chainState, hr, hl, hb, hi, ho, hg, hc, hf, hw]

/-- A change of controller state: the state, the end of a wait on the chain, the mirror, and nothing else. -/
theorem State.setRun_eq (q : RunState) :
    s.setRun q = { s with
      run := { s.run with state := q }, fetch := { s.fetch with waiting := false }
      hostMem := s.mirrored (s.setRun q) } := by
  unfold State.mirrored
  cases h : s.run.mirror
  · have e : s.setRun q = { s with
        run := { s.run with state := q }, fetch := { s.fetch with waiting := false } } :=
      if_neg (c := s.run.mirror = true) (by simp [h])
    rw [e]; rfl
  · have e : s.setRun q = State.writeStation 0x30
        (State.stateReg { s with
          run := { s.run with state := q }, fetch := { s.fetch with waiting := false } }).toNat { s with
        run := { s.run with state := q }, fetch := { s.fetch with waiting := false } } :=
      if_pos (c := s.run.mirror = true) h
    rw [e]; rfl

/-- The mirror shows STATE alone. -/
theorem State.mirrored_congr {u u' : State} (h : u.stateReg = u'.stateReg) : s.mirrored u = s.mirrored u' := by
  rw [State.mirrored, State.mirrored, h]

@[simp] theorem State.setRun_state (q : RunState) : (s.setRun q).run.state = q := by rw [State.setRun_eq]
@[simp] theorem State.setRun_mirror (q : RunState) : (s.setRun q).run.mirror = s.run.mirror := by rw [State.setRun_eq]
@[simp] theorem State.setRun_carriages (q : RunState) : (s.setRun q).carriages = s.carriages := by
  rw [State.setRun_eq]
@[simp] theorem State.setRun_claims (q : RunState) : (s.setRun q).claims = s.claims := by rw [State.setRun_eq]
@[simp] theorem State.setRun_regs (q : RunState) : (s.setRun q).regs = s.regs := by rw [State.setRun_eq]

end Sys2Proof.Machine
end

