-- ==== Sys2Proof/Laws/Memory.lean ====
section
/-! SUPPORT. Sorted keyed lists, little-endian bytes, and host memory: what one write does to every byte, and that every
write keeps the canonical form. -/

namespace Sys2Proof.Machine

set_option Elab.async false

/-! ## Sorted keyed lists -/

@[simp] theorem lookupKey_insertKey_same {β : Type} (k : Nat) (v : β) (l : List (Nat × β)) :
    lookupKey k (insertKey k v l) = some v := by
  induction l with
  | nil => simp [insertKey, lookupKey]
  | cons q rest ih =>
    obtain ⟨k', v'⟩ := q
    simp only [insertKey]
    split
    · simp [lookupKey]
    · split
      · simp [lookupKey]
      · next h => simp [lookupKey, Ne.symm h, ih]

theorem lookupKey_insertKey_ne {β : Type} {k j : Nat} (v : β) (l : List (Nat × β)) (h : j ≠ k) :
    lookupKey j (insertKey k v l) = lookupKey j l := by
  induction l with
  | nil => simp [insertKey, lookupKey, Ne.symm h]
  | cons q rest ih =>
    obtain ⟨k', v'⟩ := q
    simp only [insertKey]
    split
    · simp [lookupKey, Ne.symm h]
    · split
      · next e => subst e; simp [lookupKey, Ne.symm h]
      · simp [lookupKey, ih]

/-- Every key of a list is above a bound. -/
theorem keysRise_cons {β : Type} (q : Nat × β) (l : List (Nat × β)) :
    keysRise (q :: l) = true ↔ (∀ r ∈ l.head?, q.1 < r.1) ∧ keysRise l = true := by
  cases l with
  | nil => simp [keysRise]
  | cons r rest => simp [keysRise]

theorem head_insertKey {β : Type} (k : Nat) (v : β) (l : List (Nat × β)) (n : Nat) (hk : n < k)
    (hl : ∀ r ∈ l.head?, n < r.1) : ∀ r ∈ (insertKey k v l).head?, n < r.1 := by
  cases l with
  | nil => simp [insertKey, hk]
  | cons q rest =>
    have hq : n < q.1 := hl q rfl
    simp only [insertKey]
    split
    · simpa using hk
    · split
      · simpa using hk
      · simpa using hq

/-- Putting a value at a key keeps the canonical form. -/
theorem keysRise_insertKey {β : Type} (k : Nat) (v : β) (l : List (Nat × β)) (h : keysRise l = true) :
    keysRise (insertKey k v l) = true := by
  induction l with
  | nil => rfl
  | cons q rest ih =>
    obtain ⟨k', v'⟩ := q
    obtain ⟨h1, h2⟩ := (keysRise_cons _ _).1 h
    simp only [insertKey]
    split
    · next hk => exact (keysRise_cons _ _).2 ⟨by simpa using hk, h⟩
    · split
      · next e => subst e; exact (keysRise_cons _ _).2 ⟨h1, h2⟩
      · exact (keysRise_cons _ _).2 ⟨head_insertKey k v rest k' (by omega) h1, ih h2⟩

/-! ## Bytes -/

@[simp] theorem leBytes_length (n v : Nat) : (leBytes n v).length = n := by
  induction n generalizing v with
  | zero => rfl
  | succ n ih => simp [leBytes, ih]

@[simp] theorem leSigned_length (n : Nat) (v : Int) : (leSigned n v).length = n := leBytes_length ..

/-! ## Host memory -/

@[simp] theorem putBytes_nil (a : Word64) (m : List Host.Cell) : putBytes a [] m = m := rfl

theorem wf_putBytes (a : Word64) (b : List Byte) (m : List Host.Cell) (h : Memory.wf m = true) :
    Memory.wf (putBytes a b m) = true := by
  induction b generalizing a m with
  | nil => exact h
  | cons x rest ih => exact ih _ _ (keysRise_insertKey _ _ _ h)

/-- A byte no address of the write names keeps what it was. -/
theorem lookupKey_putBytes_ne (a : Word64) (b : List Byte) (m : List Host.Cell) (j : Nat)
    (h : ∀ i < b.length, (a + BitVec.ofNat 64 i).toNat ≠ j) : lookupKey j (putBytes a b m) = lookupKey j m := by
  induction b generalizing a m with
  | nil => rfl
  | cons x rest ih =>
    rw [putBytes, ih]
    · refine lookupKey_insertKey_ne _ _ fun e => h 0 (by simp) ?_
      simpa using e.symm
    · intro i hi e
      refine h (i + 1) (by simpa using hi) ?_
      rw [← e]
      congr 1
      rw [BitVec.ofNat_add, BitVec.add_comm (BitVec.ofNat 64 i), BitVec.add_assoc]
      rfl

/-- A byte that the write names holds what was written there. -/
theorem lookupKey_putBytes (a : Word64) (b : List Byte) (m : List Host.Cell) (i : Nat) (hi : i < b.length)
    (hl : b.length ≤ 18446744073709551616) :
    lookupKey (a + BitVec.ofNat 64 i).toNat (putBytes a b m) = some b[i] := by
  induction b generalizing a m i with
  | nil => simp at hi
  | cons x rest ih =>
    cases i with
    | zero =>
      rw [putBytes, lookupKey_putBytes_ne]
      · simp
      · intro j hj e
        simp only [List.length_cons] at hl
        have h1 : (1 : BitVec 64).toNat = 1 := rfl
        simp only [BitVec.toNat_add, BitVec.toNat_ofNat, h1] at e
        have := a.isLt
        omega
    | succ i =>
      simp only [List.length_cons, Nat.add_lt_add_iff_right] at hi hl
      have e : a + BitVec.ofNat 64 (i + 1) = (a + 1) + BitVec.ofNat 64 i := by
        rw [BitVec.ofNat_add, BitVec.add_comm (BitVec.ofNat 64 i), BitVec.add_assoc]
        rfl
      rw [putBytes, e, ih (a + 1) _ i hi (by omega)]
      rfl

variable (s : State)

@[simp] theorem State.writeHost_hostMem (a : Word64) (b : List Byte) :
    (s.writeHost a b).hostMem = putBytes a b s.hostMem := rfl

/-- Every write to host memory keeps its canonical form. -/
theorem State.writeHost_wf (a : Word64) (b : List Byte) (h : Memory.wf s.hostMem = true) :
    Memory.wf (s.writeHost a b).hostMem = true := wf_putBytes _ _ _ h

/-- Every Station Block write keeps the canonical form. -/
theorem State.writeStation_wf (i v : Nat) (h : Memory.wf s.hostMem = true) :
    Memory.wf (s.writeStation i v).hostMem = true := wf_putBytes _ _ _ h

/-- A stopped write keeps the canonical form, however far it got. -/
theorem State.writeHostPart_wf (a : Word64) (b : List Byte) (h : Memory.wf s.hostMem = true) :
    Memory.wf (s.writeHostPart a b).hostMem = true := wf_putBytes _ _ _ h

/-- What one write does to the bytes of host memory: the bytes it names hold what was written. -/
theorem State.hostByte_writeHost (a : Word64) (b : List Byte) (i : Nat) (hi : i < b.length)
    (hl : b.length ≤ 18446744073709551616) :
    (s.writeHost a b).hostByte (a + BitVec.ofNat 64 i).toNat = some b[i] := lookupKey_putBytes _ _ _ _ hi hl

/-- What one write does to the bytes of host memory: every other byte is as it was. -/
theorem State.hostByte_writeHost_ne (a : Word64) (b : List Byte) (j : Nat)
    (h : ∀ i < b.length, (a + BitVec.ofNat 64 i).toNat ≠ j) : (s.writeHost a b).hostByte j = s.hostByte j :=
  lookupKey_putBytes_ne _ _ _ _ h

end Sys2Proof.Machine
end

