-- ==== Sys2Proof/Laws/Kept.lean ====
section
/-! SUPPORT. A preservation principle. `Kept P` lists the few ways in which the part's blocks change while it takes an
event; a property that these changes keep is kept by every shared operation, by `finish` and (with `KeptAll`) by every
step. Each invariant is then proved by checking the list once. This file has the list and the operations over
carriages and claims. -/

namespace Sys2Proof.Machine

set_option Elab.async false

/-! ## The changes -/

/-- How the controller record changes beside a Claim Table `k`: `answers` is entered by nothing but START's setup read,
Station Block values are dropped or stay, and a table that is saved is `k` or was saved before. -/
def RunStep (k : Sides ClaimTable) (r r' : RunCtl) : Prop :=
  (r'.stage = some .answers → r.stage = some .answers) ∧ (r'.held = r.held ∨ r'.held = none) ∧
    ∀ v, r'.saved = some v → v.claims = k ∨ ∃ w, r.saved = some w ∧ v.claims = w.claims

/-- How the unit record changes, but at the end of a calibration: the contact-check queue grows to its places at most,
the Z age stays in 16 bits, the offsets and cal_range stay, and the measurement queue keeps its bounds. -/
def MuStep (u u' : MeasUnit) : Prop :=
  u'.checkQueue.length ≤ max u.checkQueue.length Config.checkQueue ∧ (u.zAge ≤ 65535 → u'.zAge ≤ 65535) ∧
    u'.z = u.z ∧ u'.calRange = u.calRange ∧ (u.QueueFits → u'.QueueFits)

/-- How the guard record changes: the retries keep their limit. -/
def GuardStep (g g' : Guard) : Prop := g.retries ≤ Config.guardRetries → g'.retries ≤ Config.guardRetries

/-- How the Fetcher changes: the retire list keeps its bounds. -/
def FetchStep (f f' : Fetcher) : Prop := f.ListFits → f'.ListFits

/-- How the frame record changes: a frame opens under the write of an entry that is no FRAME_END. -/
def FrameStep (s : State) (r : FrameRec) : Prop :=
  r.state = .none ∨ s.frame.state ≠ .none ∨ ∃ w, s.log.writing = some w ∧ w.kind ≠ .frameEnd

/-- How the window changes, but for an admission: entries keep their slots or leave, overtake counts keep their cap. -/
def DispStep (d d' : Dispatcher) : Prop :=
  (d'.window.map (·.slot)).Sublist (d.window.map (·.slot)) ∧
    ((∀ e ∈ d.window, e.overtake ≤ Config.overtakeCap) → ∀ e ∈ d'.window, e.overtake ≤ Config.overtakeCap)

/-- How the Log Writer changes, but for offers, the start of a write, a publication and a drained read. -/
def LogStep (l l' : LogWriter) : Prop :=
  l'.published = l.published ∧ l'.drained = l.drained ∧ l'.capacity = l.capacity ∧ l'.widx = l.widx ∧
    l'.writing = l.writing ∧ l'.results.length ≤ l.results.length ∧
    l'.notes.length ≤ l.notes.length ∧ (l.dropped ≤ Config.droppedMax → l'.dropped ≤ Config.droppedMax)

/-- How the net table changes: the records keep their canonical form. -/
def NetStep (t t' : NetTable) : Prop := keysRise t.recs = true → keysRise t'.recs = true

/-- A property that every change inside the part keeps. -/
structure Kept (P : State → Prop) : Prop where
  free : ∀ {s f}, P s → P (s.updFree f)
  linkOut : ∀ {s f}, P s → P (s.updLinkOut f)
  station : ∀ {s : State} {o v : Nat}, o ∈ [0x24, 0x28, 0x2C, 0x30] → P s → P (s.writeStation o v)
  cause : ∀ {s k}, P s → P (s.raise k)
  run : ∀ {s f}, RunStep s.claims s.run (f s.run) → P s → P (s.updRun f)
  setup : ∀ {s : State} {t : Setup}, s.run.stage = some .answers → P s → P (s.updSetup fun _ => t)
  restore : ∀ {s : State} {v : Saved}, s.run.stage = some .answers → s.run.saved = some v → P s →
    P (s.updClaims fun _ => v.claims)
  carriages : ∀ {s f}, P s → P (s.updCarriages f)
  qual : ∀ {s f}, P s → P (s.updQual f)
  guard : ∀ {s f}, GuardStep s.guard (f s.guard) → P s → P (s.updGuard f)
  frame : ∀ {s f}, FrameStep s (f s.frame) → P s → P (s.updFrame f)
  fetch : ∀ {s f}, FetchStep s.fetch (f s.fetch) → P s → P (s.updFetch f)
  mu : ∀ {s f}, MuStep s.mu (f s.mu) → P s → P (s.updMu f)
  disp : ∀ {s f}, DispStep s.disp (f s.disp) → P s → P (s.updDisp f)
  deliver : ∀ {s : State} {k : Nat} {c : StepCopy}, s.freeSlot = some k → P s →
    P (s.updDisp fun d => { d with window := d.window ++ [newEntry k c] })
  nets : ∀ {s f}, NetStep s.nets (f s.nets) → P s → P (s.updNets f)
  note : ∀ {s n}, P s → P (s.offerNote n)
  hold : ∀ {s : State} {k : Nat}, s.log.results.length < Config.heldResults → P s →
    P (s.updLog fun l => { l with results := l.results ++ [⟨k, l.offers⟩], offers := l.offers + 1 })
  log : ∀ {s f}, LogStep s.log (f s.log) → P s → P (s.updLog f)
  write : ∀ {s : State} {k : EntryKind} {b : List Byte}, s.log.writing = none → s.log.hasRoom k = true → P s →
    P (s.updLog fun l => { l with writing := some ⟨k, b, .bytes⟩, room := .ready })
  landed : ∀ {s : State} {k : EntryKind} {b : List Byte}, s.log.writing = some ⟨k, b, .bytes⟩ →
    (k = .frameEnd → s.frame.state = .none) → P s → P (s.updLog fun l => { l with writing := some ⟨k, b, .publish⟩ })
  publish : ∀ {s : State} {k : EntryKind} {b : List Byte}, s.log.writing = some ⟨k, b, .publish⟩ → P s →
    P (s.updLog fun l => { l with published := l.published + 1, widx := (l.widx + 1) % l.capacity, writing := none })
  fresh : ∀ {s : State} {v : StationValues}, s.run.held = some v → P s →
    P (s.updLog fun l =>
      { l with published := 0, widx := 0, drained := 0, notified := 0, room := .ready, reread := false, results := []
               dropped := 0, base := v.base, capacity := v.capacity, notify := v.notify, started := true })
  pend : ∀ {s : State} {d : Side} {l : List ClaimEntry}, l.Sublist (s.table d).pend → P s →
    P (s.modTable d fun t => { t with pend := l })
  wait : ∀ {s : State} {c : Carriage} {p : Purpose} {i : Interval}, (s.claimOf c).isSome = true →
    s.pendingOf c = none → P s →
    P (s.modTable (sideOf c) fun t => { t with pend := t.pend ++ [⟨c, p, s.pendingInterval c i⟩] })
  take : ∀ {s : State} {c : Carriage} {i : Interval}, (s.claimOf c).isSome = true → s.pendingOf c = none →
    lanesFreeFor c (s.pendingInterval c i) (s.table (sideOf c)).cells = true → P s →
    P (s.takeLanes c (s.pendingInterval c i))
  grant : ∀ {s : State} {d : Side} {e : ClaimEntry}, e ∈ (s.table d).pend →
    lanesFreeFor e.carriage e.span (s.table (sideOf e.carriage)).cells = true → P s →
    P (s.takeLanes e.carriage e.span)
  clear : ∀ {s : State}, P s → P (s.updClaims fun v => ⟨{ v.top with pend := [] }, { v.bottom with pend := [] }⟩)
  build : ∀ {s : State}, s.run.stage = some .answers → s.orderOk .top = true → s.orderOk .bottom = true → P s →
    P (s.updClaims fun _ => ⟨⟨s.builtCells .top, []⟩, ⟨s.builtCells .bottom, []⟩⟩)

/-! ## Changes that are in the list at once -/

/-- Neither the stage nor what is held or saved changes. -/
theorem RunStep.quiet {k : Sides ClaimTable} {r r' : RunCtl} (h1 : r'.stage = r.stage) (h2 : r'.held = r.held)
    (h3 : r'.saved = r.saved) : RunStep k r r' :=
  ⟨fun e => by rw [← h1, e], .inl h2, fun v hv => .inr ⟨v, by rw [← h3, hv], rfl⟩⟩

/-- STARTING is left, or goes on to its homing: what was saved goes or stays. -/
theorem RunStep.leaves {k : Sides ClaimTable} {r r' : RunCtl} (h1 : r'.stage ≠ some .answers)
    (h2 : r'.held = r.held ∨ r'.held = none) (h3 : r'.saved = r.saved ∨ r'.saved = none) : RunStep k r r' :=
  ⟨fun e => absurd e h1, h2, fun v hv => by
    obtain h3 | h3 := h3
    · exact .inr ⟨v, by rw [← h3, hv], rfl⟩
    · rw [h3] at hv; cases hv⟩

theorem GuardStep.same {g g' : Guard} (h : g'.retries = g.retries) : GuardStep g g' := by rw [GuardStep, h]; exact id

theorem FrameStep.same {s : State} {r : FrameRec} (h : r.state = s.frame.state) : FrameStep s r := by
  rw [FrameStep, h]; by_cases e : s.frame.state = .none
  · exact .inl e
  · exact .inr (.inl e)

/-- The read in progress ends, goes on, or is no header's, and the retire list grows no longer. -/
theorem FetchStep.of {f f' : Fetcher} (h : f'.retire.length ≤ f.retire.length)
    (hr : ∀ r, f'.reading = some r → r.kind = .header → ∃ q, f.reading = some q ∧ q.kind = .header) : FetchStep f f' :=
  fun hf => ⟨h.trans hf.1, fun r h1 h2 => by
    obtain ⟨q, h3, h4⟩ := hr r h1 h2
    exact h.trans_lt (hf.2 q h3 h4)⟩

theorem FetchStep.same {f f' : Fetcher} (h : f'.retire = f.retire) (hr : f'.reading = f.reading) : FetchStep f f' :=
  .of (by rw [h]) fun r h1 h2 => ⟨r, by rw [← hr, h1], h2⟩

/-- The read in progress is over. -/
theorem FetchStep.ends {f f' : Fetcher} (h : f'.retire.length ≤ f.retire.length) (hr : f'.reading = none) :
    FetchStep f f' := .of h fun r h1 => by rw [hr] at h1; cases h1

/-- A read that is no header's starts. -/
theorem FetchStep.starts {f f' : Fetcher} {r : FetchRead} (h : f'.retire = f.retire) (hr : f'.reading = some r)
    (hk : r.kind ≠ .header) : FetchStep f f' :=
  .of (by rw [h]) fun q h1 h2 => by rw [hr] at h1; cases h1; exact absurd h2 hk

theorem DispStep.window {d d' : Dispatcher} (h : d'.window = d.window) : DispStep d d' := by
  rw [DispStep, h]; exact ⟨.refl _, id⟩

theorem DispStep.trans {a b c : Dispatcher} (h1 : DispStep a b) (h2 : DispStep b c) : DispStep a c :=
  ⟨h2.1.trans h1.1, fun h => h2.2 (h1.2 h)⟩

/-- Changing entries, slots and overtake counts apart. -/
theorem DispStep.map {d d' : Dispatcher} {g : Entry → Entry} (h : d'.window = d.window.map g)
    (hs : ∀ e, (g e).slot = e.slot) (ho : ∀ e, e.overtake ≤ Config.overtakeCap → (g e).overtake ≤ Config.overtakeCap) :
    DispStep d d' := by
  refine ⟨?_, fun hd e he => ?_⟩
  · rw [h, List.map_map, show (fun e : Entry => e.slot) ∘ g = (·.slot) from funext hs]
  · rw [h] at he
    obtain ⟨e', h1, rfl⟩ := List.mem_map.1 he
    exact ho _ (hd _ h1)

/-- Entries leave. -/
theorem DispStep.filter {d d' : Dispatcher} {p : Entry → Bool} (h : d'.window = d.window.filter p) : DispStep d d' := by
  refine ⟨?_, fun hd e he => ?_⟩
  · rw [h]; exact List.Sublist.map _ List.filter_sublist
  · rw [h] at he; exact hd _ (List.mem_of_mem_filter he)

/-- What the answers of the Claim Table say of the request (R27). -/
theorem State.claimAnswer_granted {s : State} {c : Carriage} {i : Interval} (h : s.claimAnswer c i = .granted) :
    (s.claimOf c).isSome = true ∧ (s.carr c).state ≠ .fault ∧ s.pendingOf c = none ∧
      s.meetsFault (sideOf c) (s.pendingInterval c i) = false ∧
      lanesFreeFor c (s.pendingInterval c i) (s.table (sideOf c)).cells = true ∧
      clearOf (s.pendingInterval c i) (s.table (sideOf c)).pend = true := by
  revert h
  unfold State.claimAnswer; dsimp only
  split
  · intro e; cases e
  · next h1 =>
    split
    · intro e; cases e
    · next h2 =>
      split
      · intro e; cases e
      · next h3 =>
        split
        · next h4 =>
          intro _
          simp only [Bool.or_eq_true, not_or, beq_iff_eq, Bool.and_eq_true] at h1 h4
          refine ⟨?_, h1.2, by simpa using h2, by simpa using h3, h4.1, h4.2⟩
          rw [Option.isSome_iff_ne_none]
          intro e; exact h1.1 (by rw [e]; rfl)
        · intro e; cases e

/-- A request that waits names a carriage with a claim and no entry (R27). -/
theorem State.claimAnswer_pending {s : State} {c : Carriage} {i : Interval} (h : s.claimAnswer c i = .pending) :
    (s.claimOf c).isSome = true ∧ (s.carr c).state ≠ .fault ∧ s.pendingOf c = none ∧
      s.meetsFault (sideOf c) (s.pendingInterval c i) = false := by
  revert h
  unfold State.claimAnswer; dsimp only
  split
  · intro e; cases e
  · next h1 =>
    split
    · intro e; cases e
    · next h2 =>
      split
      · intro e; cases e
      · next h3 =>
        intro _
        simp only [Bool.or_eq_true, not_or, beq_iff_eq] at h1
        refine ⟨?_, h1.2, by simpa using h2, by simpa using h3⟩
        rw [Option.isSome_iff_ne_none]
        intro e; exact h1.1 (by rw [e]; rfl)

variable {P : State → Prop} (h : Kept P) {s : State}
include h

namespace Kept

omit h in
theorem foldl {α : Type} {f : State → α → State} (l : List α) (hf : ∀ s a, P s → P (f s a)) {s : State} (hs : P s) :
    P (l.foldl f s) := by
  induction l generalizing s with
  | nil => exact hs
  | cons a rest ih => exact ih (hf s a hs)

omit h in
theorem ite {p : Prop} [Decidable p] {a b : State} (ha : P a) (hb : P b) : P (if p then a else b) := by
  split
  · exact ha
  · exact hb

/-! ## Ops and Flags -/

theorem modCarr {c f} (hs : P s) : P (s.modCarr c f) := h.carriages hs
theorem setLanding {c l} (hs : P s) : P (s.setLanding c l) := h.qual hs
theorem modLanding {c f} (hs : P s) : P (s.modLanding c f) := h.setLanding hs
theorem markScan (hs : P s) : P s.markScan := h.disp (.window rfl) hs
theorem markReach (hs : P s) : P s.markReach := h.disp (.window rfl) hs
theorem markWithdraw {k} (hs : P s) : P (s.markWithdraw k) := h.disp (.window rfl) hs

/-- A change of one entry that keeps its slot and its overtake count. -/
theorem modEntry {k : Nat} {g : Entry → Entry} (hk : ∀ e, (g e).slot = e.slot) (ho : ∀ e, (g e).overtake = e.overtake)
    (hs : P s) : P (s.modEntry k g) := by
  refine h.disp (.map (g := fun e => if e.slot == k then g e else e) rfl ?_ ?_) hs
  · intro e; split
    · exact hk e
    · rfl
  · intro e he; split
    · rw [ho]; exact he
    · exact he


theorem lateResponse {c k} (hs : P s) : P (s.lateResponse c k) := by
  unfold State.lateResponse; split
  · exact hs
  · exact h.note hs

theorem setRun {q} (hs : P s) : P (s.setRun q) := by
  have h1 : P (s.updRun fun r => { r with state := q }) := h.run (.quiet rfl rfl rfl) hs
  unfold State.setRun; dsimp only; split
  · exact h.station (by decide) (h.fetch (.same rfl rfl) h1)
  · exact h.fetch (.same rfl rfl) h1

theorem setLast {q} (hs : P s) : P (s.setLast q) := h.run (.quiet rfl rfl rfl) hs

/-! ## Carriages and travel -/

theorem setTip {c t} (hs : P s) : P (s.setTip c t) := h.modCarr hs
theorem setCarr {c q} (hs : P s) : P (s.setCarr c q) := h.setTip (h.modCarr hs)
theorem retip (hs : P s) : P s.retip := by
  unfold State.retip; exact Kept.foldl _ (fun _ _ hs => h.setTip hs) hs
theorem send {c q} (hs : P s) : P (s.send c q) := h.modCarr (h.linkOut hs)
theorem sendHalt {c} (hs : P s) : P (s.sendHalt c) := h.modCarr (h.send hs)
theorem settle {c} (hs : P s) : P (s.settle c) := h.modCarr hs
theorem leaveAssignments {c} (hs : P s) : P (s.leaveAssignments c) :=
  h.disp (.map rfl (fun _ => rfl) fun _ he => he) hs
theorem toIdle {c} (hs : P s) : P (s.toIdle c) := h.markScan (h.leaveAssignments (h.modCarr (h.setCarr hs)))

theorem markArrived {c} (hs : P s) : P (s.markArrived c) := by
  unfold State.markArrived
  split
  · exact hs
  · split
    · exact hs
    · split
      · dsimp only; split
        · exact h.modEntry (fun _ => rfl) (fun _ => rfl) hs
        · exact h.modEntry (fun _ => rfl) (fun _ => rfl) hs
      · exact hs

theorem enterDescend {c} (hs : P s) : P (s.enterDescend c) := h.markArrived (h.send (h.modCarr (h.setCarr hs)))
theorem enterLift {c f} (hs : P s) : P (s.enterLift c f) := h.send (h.modCarr (h.setCarr hs))

theorem withdrawServed {c} (hs : P s) : P (s.withdrawServed c) := by
  unfold State.withdrawServed; split
  · split
    · exact h.markWithdraw hs
    · exact hs
  · exact hs

theorem yieldsFailed {b} (hs : P s) : P (s.yieldsFailed b) := by
  refine Kept.foldl _ (fun s e hs => ?_) hs
  split
  · exact h.markWithdraw hs
  · exact hs

theorem yieldFailed {c} (hs : P s) : P (s.yieldFailed c) := h.yieldsFailed hs

theorem yieldArrived {c k} (hs : P s) : P (s.yieldArrived c k) := by
  unfold State.yieldArrived
  exact h.disp (.map rfl (fun _ => rfl) fun _ he => he) (h.yieldsFailed hs)

theorem blocked {c} (hs : P s) : P (s.blocked c) := by
  unfold State.blocked; dsimp only
  refine h.toIdle ?_
  split
  · exact h.withdrawServed hs
  · exact h.withdrawServed hs
  · exact h.yieldFailed hs
  · exact hs
  · exact hs
  · exact hs

/-! ## Claims -/

theorem deliverGrant {c} (hs : P s) : P (s.deliverGrant c) := by
  unfold State.deliverGrant; split
  · exact hs
  · exact h.send (h.modCarr hs)

omit h in
theorem deliverGrant_table (c : Carriage) (d : Side) : ((s.deliverGrant c).table d) = s.table d := by
  unfold State.deliverGrant; split <;> rfl

omit h in
theorem takeLanes_pend (c : Carriage) (i : Interval) (d : Side) : ((s.takeLanes c i).table d).pend = (s.table d).pend := by
  rw [State.takeLanes, State.table_modTable]; split
  · next e => rw [e]
  · rfl

theorem reviewWalk (d : Side) (l kept : List ClaimEntry) (hl : (kept ++ l).Sublist (s.table d).pend) (hs : P s) :
    P (reviewWalk d l kept s) := by
  induction l generalizing kept s with
  | nil => exact h.pend (by simpa using hl) hs
  | cons e rest ih =>
    unfold Machine.reviewWalk
    split
    · next hc =>
      simp only [Bool.and_eq_true] at hc
      refine ih kept ?_ (h.deliverGrant (h.grant (d := d) (hl.mem (by simp)) hc.1 hs))
      rw [deliverGrant_table, takeLanes_pend]
      exact List.Sublist.trans (List.Sublist.append_left (List.sublist_cons_self e rest) kept) hl
    · exact ih (kept ++ [e]) (by simpa using hl) hs

theorem review {d} (hs : P s) : P (s.review d) := h.reviewWalk d _ [] (by simp) hs

theorem requestClaim {c p i} (hs : P s) : P (s.requestClaim c p i) := by
  unfold State.requestClaim
  split
  · next hg =>
    obtain ⟨h1, -, h2, -, h3, -⟩ := State.claimAnswer_granted hg
    exact h.deliverGrant (h.take h1 h2 h3 hs)
  · next hg =>
    obtain ⟨h1, -, h2, -⟩ := State.claimAnswer_pending hg
    exact h.wait h1 h2 hs
  · exact h.blocked hs
  · exact h.blocked hs

theorem dropEntry {c} (hs : P s) : P (s.dropEntry c) := h.pend (by exact List.filter_sublist) hs

theorem cancel {c} (hs : P s) : P (s.cancel c) := by
  unfold State.cancel; split
  · exact hs
  · dsimp only
    refine h.review (h.toIdle ?_)
    split
    · exact h.yieldFailed (h.dropEntry hs)
    · exact h.dropEntry hs

theorem travelDone {c} (hs : P s) : P (s.travelDone c) := by
  unfold State.travelDone; dsimp only
  split
  · split
    · exact h.toIdle hs
    · exact h.enterDescend hs
  · split
    · exact h.toIdle hs
    · exact h.enterDescend hs
  · exact h.toIdle (h.yieldArrived hs)
  · exact h.toIdle hs
  · exact h.toIdle hs
  · exact h.toIdle hs

theorem beginTravel {c p t} (hs : P s) : P (s.beginTravel c p t) := h.modCarr (h.setCarr hs)

theorem compareTravel {c t} (hs : P s) : P (s.compareTravel c t) := by
  unfold State.compareTravel
  split
  · exact h.travelDone hs
  · split
    · exact h.deliverGrant hs
    · exact hs

theorem claimTravel {c} (hs : P s) : P (s.claimTravel c) := by
  unfold State.claimTravel; dsimp only; split
  · exact h.requestClaim hs
  · exact hs

theorem orderTravel {c p v t} (hs : P s) : P (s.orderTravel c p v t) := by
  unfold State.orderTravel; split
  · exact h.claimTravel (h.compareTravel (h.modCarr (h.beginTravel hs)))
  · exact hs

end Kept

end Sys2Proof.Machine
end

