-- ==== Sys2Proof/Laws/KeptSteps.lean ====
section
/-! SUPPORT. The preservation principle over the Measurement Unit, the ends of steps, landings, the Source Guard and the
Evaluator. -/

namespace Sys2Proof.Machine

set_option Elab.async false

theorem MuStep.le {u u' : MeasUnit} (h : u'.checkQueue.length ≤ u.checkQueue.length)
    (hq : u'.measQueue.Sublist u.measQueue)
    (hz : (u'.zAge, u'.z, u'.calRange) = (u.zAge, u.z, u.calRange)) : MuStep u u' := by
  simp only [Prod.mk.injEq] at hz
  exact ⟨by omega, by omega, hz.2.1, hz.2.2, fun hf => ⟨hq.length_le.trans hf.1, hq.nodup hf.2⟩⟩

theorem MuStep.same {u u' : MeasUnit} (h : u'.checkQueue = u.checkQueue) (hq : u'.measQueue = u.measQueue)
    (hz : (u'.zAge, u'.z, u'.calRange) = (u.zAge, u.z, u.calRange)) : MuStep u u' :=
  .le (by rw [h]) (by rw [hq]) hz

/-- A step joins the measurement queue at most where it keeps the queue's bounds (R107). -/
theorem MuStep.join (k : Nat) (u : MeasUnit) : MuStep u (u.join k) := by
  unfold MeasUnit.join
  split
  · exact .same rfl rfl rfl
  · next hc =>
    simp only [not_or, List.contains_iff_mem, Nat.not_le] at hc
    refine ⟨Nat.le_max_left _ _, id, rfl, rfl, fun hf => ⟨?_, ?_⟩⟩
    · simp only [List.length_append, List.length_cons, List.length_nil]; exact hc.2
    · exact List.nodup_append.2 ⟨hf.2, by simp, fun a ha b hb => by
        simp only [List.mem_singleton] at hb; subst hb; rintro rfl; exact hc.1 ha⟩

/-- A response is RETRY while a retry is left (R149, R151). -/
theorem responseOf_retry {m : GuardMode} {n : Nat} (h : responseOf m n = .retry) : n < Config.guardRetries := by
  cases m <;> simp only [responseOf] at h
  all_goals first | (split at h <;> first | assumption | cases h) | cases h

variable {P : State → Prop} (h : Kept P) {s : State}
include h

namespace Kept

/-! ## The Measurement Unit -/

theorem beginWatch (hs : P s) : P s.beginWatch := h.guard (.same rfl) hs

theorem muStep {f} (hf : MuStep s.mu (f s.mu)) (hs : P s) : P (s.muStep f) := by
  unfold State.muStep; dsimp only; split
  · exact h.mu hf hs
  · split
    · exact h.beginWatch (h.guard (.same rfl) (h.mu hf hs))
    · exact h.beginWatch (h.mu hf hs)

theorem setTips {l q t} (hs : P s) : P (s.setTips l q t) := by
  refine Kept.foldl _ (fun s c hs => ?_) hs
  split
  · exact h.setTip hs
  · exact hs

theorem afterSettle {k} (hs : P s) : P (s.afterSettle k) := h.muStep (.same rfl rfl rfl) hs

theorem beginSettle {a b q} (hs : P s) : P (s.beginSettle a b q) := by
  unfold State.beginSettle; dsimp only; split
  · exact h.afterSettle (h.muStep (.same rfl rfl rfl) hs)
  · exact h.muStep (.same rfl rfl rfl) hs

theorem applyStimulus {c} (hs : P s) : P (s.applyStimulus c) := by
  unfold State.applyStimulus
  split
  · exact h.muStep (.same rfl rfl rfl) hs
  all_goals exact h.beginSettle hs

theorem applyCheck (hs : P s) : P s.applyCheck := h.beginSettle hs
theorem beginDummy (hs : P s) : P s.beginDummy := h.muStep (.same rfl rfl rfl) hs

theorem beginConversion {c} (hs : P s) : P (s.beginConversion c) := by
  have h1 : P (s.updMu fun u => { u with gain := u.convGain }) := h.mu (.same rfl rfl rfl) hs
  unfold State.beginConversion; dsimp only; split
  · exact h.beginDummy h1
  · exact h.applyStimulus h1

theorem beginMeasurement {c} (hs : P s) : P (s.beginMeasurement c) := by
  unfold State.beginMeasurement; split
  · exact h.beginConversion hs
  · exact h.muStep (.same rfl rfl rfl) hs

theorem beginDwell {p n e} (hs : P s) : P (s.beginDwell p n e) :=
  h.muStep (.same rfl rfl rfl) (h.modEntry (fun _ => rfl) (fun _ => rfl) (h.setTips hs))

theorem endDwell {e} (hs : P s) : P (s.endDwell e) := h.modEntry (fun _ => rfl) (fun _ => rfl) (h.setTips hs)

theorem liftEngaged {l f} (hs : P s) : P (s.liftEngaged l f) := by
  refine Kept.foldl _ (fun s c hs => ?_) hs
  split
  · exact h.enterLift hs
  · exact hs

theorem releaseStep {e} (hs : P s) : P (s.releaseStep e) := by
  have h1 : P (s.muStep MeasUnit.released) := h.muStep (.same rfl rfl rfl) hs
  unfold State.releaseStep; dsimp only; split
  · exact h.liftEngaged (h.modEntry (fun _ => rfl) (fun _ => rfl) h1)
  · exact h.liftEngaged (h.modEntry (fun _ => rfl) (fun _ => rfl) h1)

theorem endAttempt {b e} (hs : P s) : P (s.endAttempt b e) := by
  unfold State.endAttempt; split
  · exact h.beginDwell hs
  · exact h.releaseStep hs

theorem cutPhase (hs : P s) : P s.cutPhase := h.mu (.same rfl rfl rfl) hs

theorem dropCut (hs : P s) : P s.dropCut := h.mu (.same rfl rfl rfl) hs

theorem abandonMeasure (hs : P s) : P s.abandonMeasure := by
  unfold State.abandonMeasure
  split
  · have h1 : P (s.cutPhase.muStep fun u => u.released.forget) := h.muStep (.same rfl rfl rfl) (h.cutPhase hs)
    dsimp only; split
    · exact h1
    · exact h.liftEngaged (h.modEntry (fun _ => rfl) (fun _ => rfl) h1)
  all_goals exact hs

theorem abandonCheck (hs : P s) : P s.abandonCheck := by
  unfold State.abandonCheck
  split
  · exact Kept.foldl _ (fun _ _ hs => h.setTip hs) (h.muStep (.same rfl rfl rfl) (h.cutPhase hs))
  · exact hs

theorem setElec {p q} (hs : P s) : P (s.setElec p q) := h.modLanding (h.modLanding hs)

theorem offerOwed (n : Nat) {s : State} (hs : P s) : P (s.offerOwed n) := by
  induction n generalizing s with
  | zero => exact hs
  | succ n ih =>
    unfold State.offerOwed
    split
    · exact hs
    · split
      · next hq =>
        refine ih (h.setElec (h.mu ⟨?_, id, rfl, rfl, id⟩ (h.qual hs)))
        simp only [Config.checkQueue, State.updQual_mu] at hq ⊢
        simp only [List.length_append, List.length_cons, List.length_nil]
        omega
      · exact hs

theorem takePair {p} (hs : P s) : P (s.takePair p) := by
  have h1 : P (s.setElec p .running) := h.setElec hs
  have h2 := h.mu (f := fun u =>
    { u with op := .pairCheck, pair := some p, checkQueue := u.checkQueue.drop 1, cls := .twoWire
             buses := ⟨some p.force, some p.sense, some p.force, some p.sense⟩
             range := some Config.pairRange, gain := Config.pairGain }) (.le (by simp) (.refl _) rfl) h1
  have h3 := h.offerOwed 1 (h.setTips (l := [p.force, p.sense]) (q := .check) (t := .matrix) h2)
  unfold State.takePair; dsimp only; split
  · exact h.beginDummy h3
  · exact h.applyCheck h3

theorem takeStep {e} (hs : P s) : P (s.takeStep e) := by
  unfold State.takeStep; dsimp only
  refine h.beginMeasurement (h.mu (.le le_rfl (List.drop_sublist ..) rfl) (h.guard (fun _ => Nat.zero_le _) (Kept.foldl _ (fun s c hs => ?_) (h.modEntry ?_ ?_ hs))))
  · split
    · exact h.setCarr hs
    · exact hs
  · exact fun _ => rfl
  · exact fun _ => rfl

theorem arbiter (hs : P s) : P s.arbiter := by
  unfold State.arbiter
  split
  · exact hs
  · split
    · exact h.takePair hs
    · exact h.takeStep hs
    · split
      · exact h.mu (.same rfl rfl rfl) hs
      · exact hs

/-! ## Ends of steps -/

theorem withdrawPair {c} (hs : P s) : P (s.withdrawPair c) :=
  h.offerOwed _ (h.mu (.le (List.length_filter_le _ _) (.refl _) rfl) (h.qual hs))

theorem partnerWaits {p} (hs : P s) : P (s.partnerWaits p) := by
  unfold State.partnerWaits; split
  · exact hs
  · exact h.modLanding hs

theorem dropCheckIf {w} (hs : P s) : P (s.dropCheckIf w) := by
  unfold State.dropCheckIf
  split
  · exact Kept.ite (h.modLanding (h.modLanding (h.abandonCheck hs))) hs
  · exact hs

theorem dropCheck {c} (hs : P s) : P (s.dropCheck c) := h.dropCheckIf hs

theorem removeLanding {c} (hs : P s) : P (s.removeLanding c) := by
  have h1 := h.dropCheck (c := c) hs
  unfold State.removeLanding; dsimp only
  split
  · exact h1
  · exact h.partnerWaits (h.withdrawPair (h.setLanding h1))

theorem sendEnd {c} (hs : P s) : P (s.sendEnd c) := by
  unfold State.sendEnd; dsimp only
  split
  · exact hs
  · exact hs
  · exact hs
  · exact hs
  · split
    · split
      · exact h.cancel hs
      · exact h.toIdle hs
    · exact h.modCarr hs
  · exact h.modCarr hs
  · exact h.enterLift (h.removeLanding hs)
  · exact h.enterLift hs
  · split
    · exact hs
    · exact h.enterLift hs
  · exact h.modCarr hs

theorem sendEnds {l} (hs : P s) : P (s.sendEnds l) := Kept.foldl _ (fun _ _ hs => h.sendEnd hs) hs

theorem decideStep {k o} (hs : P s) : P (s.decideStep k o) := by
  unfold State.decideStep
  split
  · exact hs
  · split
    · exact hs
    · exact h.markScan (h.sendEnds (h.mu (.le le_rfl List.filter_sublist rfl) (h.modEntry (fun _ => rfl) (fun _ => rfl) hs)))

theorem endStep {k v q} (hs : P s) : P (s.endStep k v q) := h.decideStep hs

theorem withdrawStep {k} (hs : P s) : P (s.withdrawStep k) := by
  unfold State.withdrawStep
  split
  · exact hs
  · split
    · exact h.markScan (h.modEntry (fun _ => rfl) (fun _ => rfl) (h.sendEnds (h.mu (.le le_rfl List.filter_sublist rfl) hs)))
    · exact hs

theorem freeze {c} (hs : P s) : P (s.freeze c) := by
  unfold State.freeze; dsimp only
  have h1 : P (s.dropEntry c) := h.dropEntry hs
  split
  · exact h.review h1
  · refine h.review (Kept.foldl _ (fun _ _ hs => h.blocked hs) ?_)
    exact h.pend (by exact List.filter_sublist) h1

theorem carriageFault {c k} (hs : P s) : P (s.carriageFault c k) := by
  unfold State.carriageFault; dsimp only
  have h1 := h.freeze (c := c) (h.leaveAssignments (c := c) (h.yieldFailed (c := c) (h.modCarr (c := c) (f := fun r =>
    { r.stopTimer s.clock with
      request := none, phase := none, purpose := none, target := none, service := none, ended := false
      followOn := none }) (h.setCarr (c := c) (q := .fault) (h.removeLanding (c := c)
              (h.note (n := ⟨.carriageFault, some c, k.code, (s.serviceTag (s.carr c).service).1,
                (s.serviceTag (s.carr c).service).2, k.detail⟩) hs))))))
  refine h.markScan (h.markReach ?_)
  split
  · refine h.endStep ?_
    split
    · exact h.abandonMeasure h1
    · exact h1
  · split
    · exact h.abandonMeasure h1
    · exact h1

/-! ## Landings -/

theorem considerPair {c} (hs : P s) : P (s.considerPair c) := by
  unfold State.considerPair
  split
  · exact hs
  · split
    · exact hs
    · split
      · exact hs
      · split
        · exact hs
        · dsimp only
          split
          · split
            · exact h.offerOwed _ (h.qual (h.setElec hs))
            · exact h.offerOwed _ (h.qual (h.setElec hs))
          · exact h.modLanding (h.modLanding hs)

theorem actOnPartner {c} (hs : P s) : P (s.actOnPartner c) := by
  unfold State.actOnPartner; split
  · exact hs
  · exact h.partnerWaits (h.withdrawPair hs)

theorem noContact {c k} (hs : P s) : P (s.noContact c k) := by
  unfold State.noContact; split
  · exact hs
  · exact Kept.ite hs (h.endStep (h.dropCheckIf hs))

theorem failInLift {c k} (hs : P s) : P (s.failInLift c k) := by
  unfold State.failInLift
  split
  · exact hs
  · dsimp only; split
    · exact h.noContact (h.modCarr hs)
    · exact h.modCarr (h.modCarr hs)

theorem scrubTravel {c} (fuel : Nat) {p} {s : State} (hs : P s) : P (s.scrubTravel c p fuel) := by
  induction fuel generalizing s p with
  | zero => exact hs
  | succ n ih =>
    unfold State.scrubTravel; dsimp only
    have h1 : P ((s.beginTravel c .scrub (s.setup.target c p)).compareTravel c (s.setup.target c p)) :=
      h.compareTravel (h.beginTravel hs)
    split
    · split
      · next hg =>
        obtain ⟨g1, -, g2, -, g3, -⟩ := State.claimAnswer_granted (by simpa [State.scrubGranted] using hg)
        exact h.deliverGrant (h.take g1 g2 g3 h1)
      · split
        · exact h.actOnPartner h1
        · split
          · exact h.noContact (h.modCarr (h.actOnPartner h1))
          · exact ih (h.modCarr (h.actOnPartner h1))
    · exact h1

theorem qualified {c} (hs : P s) : P (s.qualified c) := by
  have h1 : P ((s.setLanding c none).setCarr c .ready) := h.setCarr (h.setLanding hs)
  unfold State.qualified; dsimp only
  split
  · exact h1
  · split
    · exact h1
    · split
      · exact h.mu (.join _ _) (h.modEntry (fun _ => rfl) (fun _ => rfl) h1)
      · exact h.modEntry (fun _ => rfl) (fun _ => rfl) h1

theorem sparePartner {p} (hs : P s) : P (s.sparePartner p) := by
  unfold State.sparePartner; split
  · exact hs
  · split
    · exact hs
    · exact Kept.ite (h.qualified hs) hs

theorem decideLanding (fuel : Nat) {c} {s : State} (hs : P s) : P (s.decideLanding fuel c) := by
  induction fuel generalizing s c with
  | zero => exact hs
  | succ n ih =>
    unfold State.decideLanding
    split
    · exact hs
    · dsimp only
      split
      · exact hs
      · split
        · exact h.qualified hs
        · exact ih (h.modLanding (h.qualified hs))
      · have h1 : P ((s.setLanding c none).enterLift c .free) := h.enterLift (h.setLanding hs)
        exact h.sparePartner (h.failInLift (Kept.ite h1 (h.actOnPartner h1)))

theorem progressLanding {c} (hs : P s) : P (s.progressLanding c) := h.decideLanding _ (h.considerPair hs)

theorem openLanding {c} (hs : P s) : P (s.openLanding c) := by
  have h1 : P (s.setCarr c .check) := h.setCarr hs
  unfold State.openLanding; dsimp only
  split
  · exact h1
  · split
    · exact h1
    · exact h.progressLanding (h.modEntry (fun _ => rfl) (fun _ => rfl) (h.setLanding h1))

theorem noTouch {c} (hs : P s) : P (s.noTouch c) := by
  have h1 : P (s.enterLift c .free) := h.enterLift hs
  unfold State.noTouch; dsimp only
  split
  · exact h1
  · exact h.sparePartner (h.failInLift (h.actOnPartner h1))

theorem failPair {l} (hs : P s) : P (s.failPair l) := by
  have h1 := Kept.foldl (f := fun s c => (s.setLanding c none).enterLift c .free) l
    (fun _ _ hs => h.enterLift (h.setLanding hs)) hs
  have h2 := fun next field : List (Carriage × ScrubNext) => Kept.foldl (f := fun s q => s.countFail q.1 q.2) next
    (fun _ _ hs => h.modCarr hs) (Kept.foldl (f := fun s q => s.actOnPartner q.1) field
      (fun _ _ hs => h.actOnPartner hs) h1)
  unfold State.failPair; dsimp only
  split
  · exact h.noContact (h2 _ _)
  · exact Kept.foldl _ (fun _ _ hs => h.modCarr hs) (h2 _ _)

theorem bindCheck {p b} (hs : P s) : P (s.bindCheck p b) :=
  h.considerPair (h.decideLanding _ (h.decideLanding _ (h.failPair (h.modLanding (h.modLanding hs)))))

theorem releaseCheck {p} (hs : P s) : P (s.releaseCheck p) := h.setTips (h.muStep (.same rfl rfl rfl) hs)

/-! ## The Source Guard -/

theorem guardNote {k r n} (hs : P s) : P (s.guardNote k r n) := h.note hs

theorem latch (hs : P s) : P s.latch := by
  unfold State.latch; dsimp only
  refine h.run (.quiet rfl rfl rfl) (h.sendEnds (Kept.foldl _ (fun _ _ hs => h.endStep hs) (h.clear (h.retip (h.cause
    (h.setRun ?_))))))
  split
  · exact h.endStep (h.abandonMeasure (h.abandonCheck hs))
  · exact h.abandonMeasure (h.abandonCheck hs)

theorem checkCondition {k p} (hs : P s) : P (s.checkCondition k p) := by
  have h1 : P (s.guardNote k (checkResponseOf s.setup.overloadMode) p.slot) := h.guardNote hs
  unfold State.checkCondition; dsimp only
  split
  · exact h1
  · exact h.bindCheck (h.abandonCheck h1)
  · exact h.bindCheck (h.abandonCheck h1)
  · exact h.bindCheck (h.abandonCheck h1)
  · exact h.latch h1

theorem measureCondition {k e p} (hs : P s) : P (s.measureCondition k e p) := by
  have h1 : P (s.guardNote k (responseOf (k.mode s.setup) s.guard.retries) e.slot) := h.guardNote hs
  unfold State.measureCondition; dsimp only
  split
  · split
    · exact h1
    · exact h.modEntry (fun _ => rfl) (fun _ => rfl) h1
  · next hr =>
    have h2 := h.guard (s := s.guardNote k (responseOf (k.mode s.setup) s.guard.retries) e.slot)
      (f := fun g => { g with retries := g.retries + 1 }) (fun _ => responseOf_retry hr) h1
    split
    · exact h.beginDwell (h.cutPhase h2)
    · exact h.beginDwell (h.cutPhase h2)
  · split
    · exact h.guard (.same rfl) (h.mu (.same rfl rfl rfl) (h.endStep h1))
    · exact h.endAttempt (h.cutPhase (h.endStep h1))
  · split
    · exact h.guard (.same rfl) (h.mu (.same rfl rfl rfl) (h.endStep h1))
    · exact h.endAttempt (h.cutPhase (h.endStep h1))
  · exact h.latch h1

theorem raiseCondition {k} (hs : P s) : P (s.raiseCondition k) := by
  have h1 : P (s.updGuard k.setFlag) := h.guard (.same (by cases k <;> rfl)) hs
  unfold State.raiseCondition
  split
  · split
    · exact h.checkCondition h1
    · exact hs
  · split
    · exact h.measureCondition h1
    · exact hs
  · exact hs

theorem deglitched {w} (hs : P s) : P (s.deglitched w) := by
  unfold State.deglitched
  split
  all_goals
    split
    · exact h.guard (.same rfl) hs
    · split
      · exact h.raiseCondition (h.guard (.same rfl) hs)
      · exact hs

/-! ## The Evaluator -/

theorem stands {e r v} (hs : P s) : P (s.stands e r v) := by
  have h1 : P (s.modEntry e.slot fun e => { e with eval := some r }) := h.modEntry (fun _ => rfl) (fun _ => rfl) hs
  unfold State.stands; dsimp only
  split
  · refine h.endAttempt ?_
    split
    · exact h.decideStep h1
    · exact h.modEntry (fun _ => rfl) (fun _ => rfl) h1
  · split
    · exact h.decideStep h1
    · exact h.modEntry (fun _ => rfl) (fun _ => rfl) h1

theorem markRanged {e r} (hs : P s) : P (s.markRanged e r) := h.modEntry (fun _ => rfl) (fun _ => rfl) hs

theorem reportSampled {e l} (hs : P s) : P (s.reportSampled e l) := by
  have h1 : P (s.updMu MeasUnit.evaluating) := h.mu (.same rfl rfl rfl) hs
  unfold State.reportSampled; dsimp only
  split
  · exact h.beginSettle (h.mu (.same rfl rfl rfl) (h.markRanged h1))
  · exact h.stands h1

theorem repeatCharge {e r} (hs : P s) : P (s.repeatCharge e r) :=
  h.beginMeasurement (h.mu (.same rfl rfl rfl) (h.endDwell hs))

theorem reportCharge {e k t} (hs : P s) : P (s.reportCharge e k t) := by
  have h1 : P (s.muStep fun u => { u.evaluating with source := .off, charge := t }) := h.muStep (.same rfl rfl rfl) hs
  unfold State.reportCharge; dsimp only
  split
  · split
    · exact h.repeatCharge (h.markRanged h1)
    · exact h.beginDwell (h.markRanged h1)
  · exact h.stands h1

end Kept

end Sys2Proof.Machine
end

