-- ==== Sys2Proof/Laws/KeptRun.lean ====
section
/-! SUPPORT. The preservation principle over the window and dispatch, the log, the chain, the run controller, and
`finish`. -/

namespace Sys2Proof.Machine

set_option Elab.async false

/-! ## The changes these operations make -/

theorem NetStep.put (t : NetTable) (n : Nat) (r : NetRec) : NetStep t (t.put n r) := keysRise_insertKey _ _ _

theorem NetStep.update (t : NetTable) (c : StepCopy) (v : Verdict) : NetStep t (t.update c v) := by
  have all : ∀ (l : List Nat) (t : NetTable),
      NetStep t (l.foldl (fun t n => t.put n ((t.get n).update v c.tag)) t) := by
    intro l
    induction l with
    | nil => exact fun _ => id
    | cons n rest ih => exact fun t hk => ih _ (NetStep.put t n _ hk)
  unfold NetTable.update
  cases v with
  | pass => exact all _ _
  | low => exact all _ _
  | high => exact all _ _
  | unresolved => exact all _ _
  | nocontact => exact id
  | skipped => exact id
  | error => exact id

@[simp] theorem raiseOlder_slots (k : Nat) (l : List Entry) : (raiseOlder k l).map (·.slot) = l.map (·.slot) := by
  induction l with
  | nil => rfl
  | cons e rest ih =>
    unfold raiseOlder
    split
    · rfl
    · simp only [List.map_cons, ih]
      split <;> rfl

theorem raiseOlder_cap (k : Nat) (l : List Entry) (h : ∀ e ∈ l, e.overtake ≤ Config.overtakeCap) :
    ∀ e ∈ raiseOlder k l, e.overtake ≤ Config.overtakeCap := by
  induction l with
  | nil => exact h
  | cons e rest ih =>
    unfold raiseOlder
    split
    · exact h
    · intro x hx
      rcases List.mem_cons.1 hx with rfl | hx
      · split
        · exact Nat.min_le_left ..
        · exact h _ (by simp)
      · exact ih (fun y hy => h _ (by simp [hy])) x hx

theorem LogStep.quiet {l l' : LogWriter} (h1 : l'.published = l.published) (h2 : l'.drained = l.drained)
    (h3 : l'.capacity = l.capacity) (h4 : l'.widx = l.widx) (h5 : l'.writing = l.writing)
    (h6 : l'.results.length ≤ l.results.length) (h7 : l'.notes.length ≤ l.notes.length) (h8 : l'.dropped = l.dropped) :
    LogStep l l' := ⟨h1, h2, h3, h4, h5, h6, h7, by rw [h8]; exact id⟩

/-- A change of entries that keeps slots and overtake counts leaves as many segments in the retire list at most. -/
theorem retireRun_length (l : List RetireEntry) (q : Option Word32) : (retireRun l q).1.length ≤ l.length := by
  induction l generalizing q with
  | nil => exact le_rfl
  | cons e rest ih =>
    unfold retireRun
    split
    · exact (ih _).trans (Nat.le_succ _)
    · exact le_rfl

theorem State.retire_log (s : State) : s.retire.log = s.log := by unfold State.retire; split <;> rfl
theorem State.retire_frame (s : State) : s.retire.frame = s.frame := by unfold State.retire; split <;> rfl
theorem State.owesLess_log (s : State) (k : SegmentKind) (w : Word32 → Bool) : (s.owesLess k w).log = s.log :=
  State.retire_log _
theorem State.owesLess_frame (s : State) (k : SegmentKind) (w : Word32 → Bool) : (s.owesLess k w).frame = s.frame :=
  State.retire_frame _

theorem State.orderPendingCal_frame (s : State) : s.orderPendingCal.frame = s.frame := by
  unfold State.orderPendingCal; split <;> rfl

theorem State.orderPendingCal_log (s : State) : s.orderPendingCal.log = s.log := by
  unfold State.orderPendingCal; split <;> rfl

/-- A FRAME_END leaves no frame (R165). -/
theorem State.frameEndWritten_state (s : State) : s.frameEndWritten.frame.state = .none := by
  unfold State.frameEndWritten; dsimp only
  split <;> split <;> split <;>
    simp only [State.orderPendingCal_frame, State.owesLess_frame, State.updFetch_frame, State.orderFramePark,
      State.updRun_frame, State.updFrame_frame]

theorem State.offerNote_writing (s : State) (n : Note) : (s.offerNote n).log.writing = s.log.writing := by
  simp only [State.offerNote, State.updLog_log]; split <;> rfl

/-- The landing of an entry's bytes leaves the write in progress (R186). -/
theorem State.entryLanded_writing (s : State) (k : EntryKind) : (s.entryLanded k).log.writing = s.log.writing := by
  cases k with
  | note => rfl
  | result n =>
    unfold State.entryLanded State.resultWritten; dsimp only
    split
    · rfl
    · split <;> rfl
  | frameStart b =>
    unfold State.entryLanded State.frameStartWritten; dsimp only
    rw [State.owesLess_log, State.updFetch_log]
    split
    · rfl
    · rw [State.offerNote_writing]; rfl
  | frameEnd =>
    unfold State.entryLanded State.frameEndWritten; dsimp only
    split <;> split <;> split <;>
      simp only [State.orderPendingCal_log, State.owesLess_log, State.updFetch_log, State.orderFramePark,
        State.updRun_log, State.updFrame_log]

variable {P : State → Prop} (h : Kept P) {s : State}
include h

namespace Kept

/-! ## The window -/

theorem offerResult {k} (hs : P s) : P (s.offerResult k) := by
  unfold State.offerResult; split
  · next hr => exact h.hold hr hs
  · exact h.disp (.window rfl) hs

theorem enterHeld {k} (hs : P s) : P (s.enterHeld k) := by
  unfold State.enterHeld
  split
  · exact hs
  · split
    · exact hs
    · exact h.markScan (h.offerResult (h.nets (.update _ _ _) (h.modEntry (fun _ => rfl) (fun _ => rfl) hs)))

theorem endWaiting {k o} (hs : P s) : P (s.endWaiting k o) :=
  h.enterHeld (h.modEntry (fun _ => rfl) (fun _ => rfl) hs)

theorem admitStep {r q} (hs : P s) : P (s.deliver r q) := by
  unfold State.deliver
  split
  · exact hs
  · next k hk =>
    have h1 := h.markScan (h.deliver (c := (s.judge r q).1) hk hs)
    dsimp only
    split
    · exact h1
    · exact h.endWaiting h1

theorem testReach {e} (hs : P s) : P (s.testReach e) := by
  unfold State.testReach; split
  · split
    · exact hs
    · exact h.endWaiting hs
  · exact hs

theorem testAllReach (hs : P s) : P s.testAllReach := Kept.foldl _ (fun _ _ hs => h.testReach hs) hs

theorem issueOrders {e c} (hs : P s) : P (s.issueOrders e c) := by
  unfold State.issueOrders; dsimp only
  refine Kept.foldl _ (fun s c hs => ?_) (Kept.foldl _ (fun s c hs => ?_) hs)
  · split
    · exact h.orderTravel hs
    · exact hs
  · split
    · exact h.orderTravel hs
    · exact hs

theorem dispatch {e a b} (hs : P s) : P (s.dispatch e a b) := by
  unfold State.dispatch; dsimp only
  refine h.issueOrders (h.issueOrders (h.modEntry (fun _ => rfl) (fun _ => rfl) (h.disp ⟨?_, ?_⟩ hs)))
  · simp
  · exact raiseOlder_cap _ _

theorem scanEntry {l e} {s' : State} (hs : P s) (he : s.scanEntry l e = some s') : P s' := by
  revert he
  unfold State.scanEntry
  split
  · split
    · intro he; cases he; exact h.endWaiting hs
    · split
      · intro he; cases he; exact h.dispatch hs
      · intro he; cases he
  · intro he; cases he

theorem walk (l older : List Entry) {s' : State} (hs : P s) (he : s.walk older l = some s') : P s' := by
  induction l generalizing older with
  | nil => cases he
  | cons e rest ih =>
    unfold State.walk at he
    split at he
    · next hx => cases he; exact h.scanEntry hs hx
    · exact ih _ he

theorem scan (n : Nat) {s : State} (hs : P s) : P (s.scan n) := by
  induction n generalizing s with
  | zero => exact hs
  | succ n ih =>
    unfold State.scan; split
    · next hw => exact ih (h.walk _ _ hs hw)
    · exact hs

theorem holdLifted (hs : P s) : P s.holdLifted := by
  refine Kept.foldl _ (fun s e hs => ?_) hs
  split
  · split
    · exact h.enterHeld hs
    · exact hs
  · exact hs

theorem dispatchRound (hs : P s) : P s.dispatchRound := by
  have h1 := Kept.foldl (f := fun s k => s.withdrawStep k) s.holdLifted.disp.withdraw (fun _ _ hs => h.withdrawStep hs)
    (h.disp (f := fun d => { d with withdraw := [] }) (.window rfl) (h.holdLifted hs))
  have h2 := h.disp (f := fun d => { d with reach := false }) (.window rfl) h1
  have h3 := fun (p : Prop) [Decidable p] => h.holdLifted (Kept.ite (p := p) (h.testAllReach h2) h2)
  have h4 := fun (p : Prop) [Decidable p] => h.disp (f := fun d => { d with scan := false }) (.window rfl) (h3 p)
  exact Kept.ite (h.scan _ (h4 _)) (h4 _)

theorem dispatchRounds (n : Nat) {s : State} (hs : P s) : P (s.dispatchRounds n) := by
  induction n generalizing s with
  | zero => exact hs
  | succ n ih =>
    unfold State.dispatchRounds; split
    · exact ih (h.dispatchRound hs)
    · exact hs

theorem dispatcherStage (hs : P s) : P s.dispatcherStage := h.dispatchRounds _ hs

/-! ## The log -/

theorem offerAgain (hs : P s) : P s.offerAgain := by
  unfold State.offerAgain; split
  · exact hs
  · exact h.offerResult (h.disp (.window rfl) hs)

theorem startWrite {k} (hw : s.log.writing = none) (hr : s.log.hasRoom k = true) (hs : P s) : P (s.startWrite k) := by
  have h1 := h.write (b := s.entryBytes k) hw hr hs
  unfold State.startWrite; dsimp only
  split
  · exact h.log (.quiet rfl rfl rfl rfl rfl le_rfl le_rfl rfl) h1
  · exact h1
  · exact h.log (.quiet rfl rfl rfl rfl rfl le_rfl (by simp) rfl) h1
  · exact h.offerAgain (h.log (.quiet rfl rfl rfl rfl rfl (by simp) le_rfl rfl) h1)

theorem startImage (hs : P s) : P s.startImage := by
  unfold State.startImage; split
  · exact h.frame (.same rfl) hs
  · exact hs

theorem startPoll (hs : P s) : P s.startPoll := h.fetch (.same rfl rfl) hs

theorem logKick (hs : P s) : P s.logKick := by
  have h1 := h.startImage hs
  unfold State.logKick; dsimp only
  split
  · exact h1
  · next hw =>
    split
    · exact h1
    · split
      · next hr => exact h.startWrite (by simpa using hw) hr h1
      · split
        · exact h.log (.quiet rfl rfl rfl rfl rfl le_rfl le_rfl rfl) h1
        · exact h1

theorem roomAfterRead (hs : P s) : P s.roomAfterRead := by
  unfold State.roomAfterRead
  split
  · exact hs
  · split
    · exact h.log (.quiet rfl rfl rfl rfl rfl le_rfl le_rfl rfl) hs
    · split
      · exact hs
      · exact h.startPoll (h.log (.quiet rfl rfl rfl rfl rfl le_rfl le_rfl rfl) hs)

theorem retire (hs : P s) : P s.retire := by
  have hl := retireRun_length s.fetch.retire none
  unfold State.retire; split
  · exact hs
  · next l q he =>
    rw [he] at hl
    exact h.station (by decide) (h.fetch (.of hl fun r h1 h2 => ⟨r, h1, h2⟩) hs)

theorem owesLess {k w} (hs : P s) : P (s.owesLess k w) :=
  h.retire (h.fetch (.of (by simp) fun r h1 h2 => ⟨r, h1, h2⟩) hs)

theorem raiseResults (hs : P s) : P s.raiseResults :=
  h.log (.quiet rfl rfl rfl rfl rfl le_rfl le_rfl rfl) (h.cause hs)

/-! ## The chain -/

theorem updateRefill (hs : P s) : P s.updateRefill := by
  unfold State.updateRefill; exact h.fetch (.same rfl rfl) hs

omit h in
theorem toPhase_step (f : Fetcher) (q : FetchPhase) : FetchStep f (f.toPhase q) := .same rfl rfl

omit h in
theorem goNext_step (f : Fetcher) : FetchStep f f.goNext := by
  unfold Fetcher.goNext; split
  · exact .same rfl rfl
  · exact .same rfl rfl

theorem startFetch {k} (hk : k ≠ .header) (hs : P s) : P (s.startFetch k) := h.fetch (.starts rfl rfl hk) hs

/-- A header read starts where the retire list has a place for its segment (R177). -/
theorem startHeader (hr : s.fetch.retire.length < Config.retireList) (hs : P s) : P (s.startFetch .header) :=
  h.fetch (fun _ => ⟨hr.le, fun _ _ _ => hr⟩) hs

theorem leaveHold (hs : P s) : P s.leaveHold := by
  unfold State.leaveHold; split
  · split
    · exact h.fetch (goNext_step _) hs
    · exact hs
  · exact hs

theorem startReads (hs : P s) : P s.startReads := by
  unfold State.startReads
  split
  · exact hs
  · split
    iterate 2
      · split
        · next hr => exact h.startHeader hr (h.fetch (toPhase_step _ _) hs)
        · exact h.fetch (toPhase_step _ _) hs
    · split
      · exact h.updateRefill (h.startFetch (by decide) hs)
      · exact hs
    · split
      · exact hs
      · exact h.startFetch (by decide) hs
    · exact hs

theorem fetchKick (hs : P s) : P s.fetchKick := by
  unfold State.fetchKick; dsimp only; split
  · exact h.startReads (h.leaveHold hs)
  · exact h.leaveHold hs

theorem tidyPoll (hs : P s) : P s.tidyPoll := by
  unfold State.tidyPoll; split
  · exact hs
  · exact h.fetch (.same rfl rfl) hs

theorem takeLink {a} (hs : P s) : P (s.takeLink a) := by
  unfold State.takeLink; dsimp only
  refine h.retire (h.fetch ?_ (h.fetch (.ends (by simp) rfl) hs))
  by_cases hh : s.fetch.hold.isSome = true
  · simp only [State.updFetch_fetch, hh, ite_true]; exact toPhase_step _ _
  · simp only [State.updFetch_fetch, hh]; exact goNext_step _

theorem linkZero (hs : P s) : P s.linkZero := by
  have hz : FetchStep s.fetch { s.fetch with
      waiting := s.fetch.waiting || s.run.state == .running || !s.fetch.rereads (s.run.state == .running), reread := false
      reading := if (s.fetch.reread && s.run.state == .running) = true then some ⟨.link, false, true⟩ else none } := by
    refine .of le_rfl fun r h1 h2 => ?_
    dsimp only at h1
    split at h1
    · cases h1; cases h2
    · cases h1
  have h1 := h.fetch (f := fun f =>
    { f with waiting := f.waiting || s.run.state == .running || !s.fetch.rereads (s.run.state == .running), reread := false
             reading := if (s.fetch.reread && s.run.state == .running) = true then some ⟨.link, false, true⟩ else none })
    hz hs
  unfold State.linkZero; dsimp only
  exact h.startPoll (Kept.ite h1 (Kept.ite (h.cause h1) (h.raiseResults (h.cause h1))))

theorem orderFramePark (hs : P s) : P s.orderFramePark := h.run (.quiet rfl rfl rfl) hs

theorem orderPendingCal (hs : P s) : P s.orderPendingCal := by
  unfold State.orderPendingCal; split
  · exact h.mu (.same rfl rfl rfl) (h.run (.quiet rfl rfl rfl) hs)
  · exact hs

theorem takeBegin {b} (hs : P s) : P (s.takeBegin b) := by
  have h1 := h.log (f := fun l => { l with due := some b }) (.quiet rfl rfl rfl rfl rfl le_rfl le_rfl rfl) hs
  unfold State.takeBegin; dsimp only; split
  · next he => exact h.frame (.inr (.inl (by rw [he]; simp))) h1
  · exact h.orderPendingCal h1
  · exact h.orderPendingCal h1

theorem takeEnd {b} (hs : P s) : P (s.takeEnd b) := by
  unfold State.takeEnd; split
  · next he => exact h.fetch (.same rfl rfl) (h.frame (.inr (.inl (by simp [he]))) hs)
  all_goals
    split
    · exact h.fetch (.same rfl rfl) (h.orderFramePark hs)
    · exact h.fetch (.same rfl rfl) hs

theorem breakChain {k q} (hs : P s) : P (s.breakChain k q) := by
  unfold State.breakChain; dsimp only
  have h1 := h.run (f := fun r => { r with chainBreak := true }) (.quiet rfl rfl rfl) (h.cause (k := .fault) (h.note
    (n := ⟨.chainBreak, none, k, 0, q, 0⟩) (h.fetch (f := fun f =>
      { (f.toPhase .header) with broken := true, reading := none }) (.ends le_rfl rfl) hs)))
  split
  · exact h.run (.quiet rfl rfl rfl) (h.setRun h1)
  · exact h1

theorem acceptHeader {k b} {r : FetchRead} (hr : s.fetch.reading = some r) (hk : r.kind = .header) (hs : P s) :
    P (s.acceptHeader k b) := by
  have hf : ∀ (l : List RetireEntry) (p : Option FetchPos) (q : Option Word32) (e : RetireEntry),
      l = s.fetch.retire ++ [e] →
      FetchStep s.fetch { s.fetch with reading := none, expected := q, retire := l, hold := none, pos := p } := by
    rintro l p q e rfl ⟨-, h2⟩
    refine ⟨?_, fun r h1 => by cases h1⟩
    simp only [List.length_append, List.length_cons, List.length_nil]
    exact h2 r hr hk
  unfold State.acceptHeader; dsimp only
  split
  · exact h.station (by decide) (h.fetch (hf _ _ _ _ rfl) hs)
  · exact h.takeBegin (h.fetch (.same rfl rfl) (h.station (by decide) (h.fetch (hf _ _ _ _ rfl) hs)))
  · exact h.takeEnd (h.station (by decide) (h.fetch (hf _ _ _ _ rfl) hs))

theorem takeHeader {b} {r : FetchRead} (hr : s.fetch.reading = some r) (hk : r.kind = .header) (hs : P s) :
    P (s.takeHeader b) := by
  unfold State.takeHeader; dsimp only
  split
  · exact h.breakChain hs
  · split
    · exact h.breakChain hs
    · split
      · exact h.breakChain hs
      · exact h.acceptHeader hr hk hs

theorem takeRecord {b} (hs : P s) : P (s.takeRecord b) := by
  unfold State.takeRecord
  split
  · exact hs
  · split
    · exact h.updateRefill (h.admitStep (h.fetch (.ends le_rfl rfl) hs))
    all_goals exact h.fetch (.ends le_rfl rfl) hs

theorem resultWritten {k} (hs : P s) : P (s.resultWritten k) := by
  unfold State.resultWritten
  split
  · exact hs
  · split
    · exact hs
    · exact h.modEntry (fun _ => rfl) (fun _ => rfl) (h.frame (.same rfl) hs)

theorem frameStartWritten {b} {w : Writing} (hw : s.log.writing = some w) (hk : w.kind ≠ .frameEnd) (hs : P s) :
    P (s.frameStartWritten b) := by
  unfold State.frameStartWritten; dsimp only
  refine h.owesLess (h.fetch (.same rfl rfl) ?_)
  have h1 := h.nets (f := fun _ => ⟨[], b.netCount⟩) (fun _ => rfl) hs
  have h2 := fun f => h.frame (s := s.updNets fun _ => ⟨[], b.netCount⟩) (f := f) (.inr (.inr ⟨w, hw, hk⟩)) h1
  have h3 := fun f => h.mu (f := fun u => { u with zAge := saturate 65535 u.zAge })
    ⟨Nat.le_max_left _ _, fun _ => Nat.min_le_left _ _, rfl, rfl, id⟩ (h2 f)
  have h4 := fun f => h.log (f := fun l => { l with dropped := 0 })
    ⟨rfl, rfl, rfl, rfl, rfl, le_rfl, le_rfl, fun _ => Nat.zero_le _⟩ (h3 f)
  split
  · exact h4 _
  · exact h.note (h4 _)

theorem frameEndWritten (hs : P s) : P s.frameEndWritten := by
  unfold State.frameEndWritten
  have h1 := h.frame (f := fun f =>
    { f with state := .none, reason := none, parkOnClose := false, abortDiscards := none, imageBusy := false })
    (.inl rfl) hs
  have h2 := fun b : Bool => Kept.ite (p := b = true) (h.orderFramePark h1) h1
  have h3 := fun b q => h.fetch (f := fun f => { f with hold := if f.hold = some .frameEnd then q else f.hold })
    (.same rfl rfl) (h2 b)
  have h4 := fun (p : Prop) [Decidable p] b q =>
    Kept.ite (p := p) (h.owesLess (k := .boardEnd) (w := fun _ => true) (h3 b q)) (h3 b q)
  exact Kept.ite (h.orderPendingCal (h4 _ _ _)) (h4 _ _ _)

theorem entryLanded {k} {w : Writing} (hw : s.log.writing = some w) (hk : w.kind = k) (hs : P s) :
    P (s.entryLanded k) := by
  unfold State.entryLanded; split
  · exact h.frameStartWritten hw (by rw [hk]; simp) hs
  · exact h.resultWritten hs
  · exact hs
  · exact h.frameEndWritten hs

theorem freeSlotOf {k} (hs : P s) : P (s.freeSlotOf k) := by
  unfold State.freeSlotOf; split
  · exact hs
  · exact h.updateRefill (h.owesLess (h.markScan (h.disp (.filter rfl) hs)))

theorem testResults {k} (hs : P s) : P (s.testResults k) := by
  unfold State.testResults
  split
  · exact h.raiseResults (h.cause hs)
  all_goals
    split
    · exact h.raiseResults hs
    · exact hs

theorem published {k b} (hw : s.log.writing = some ⟨k, b, .publish⟩) (hs : P s) : P (s.published k) := by
  unfold State.published; dsimp only
  have h1 := fun v => h.station (o := 0x24) (v := v) (by decide) (h.publish hw hs)
  refine h.testResults ?_
  split
  · exact h.freeSlotOf (h1 _)
  all_goals exact h1 _

/-! ## The run controller -/

theorem goBack (hs : P s) : P s.goBack := by
  unfold State.goBack; dsimp only
  exact h.setRun (h.run (.leaves (by simp) (.inr rfl) (.inr rfl)) hs)

theorem refuseSetup (hs : P s) : P s.refuseSetup := h.goBack (h.run (.quiet rfl rfl rfl) hs)

theorem refuseOrder (hb : s.run.stage = some .answers) (hs : P s) : P s.refuseOrder := by
  have h1 := h.run (f := fun r => { r with orderFault := true, last := .refused }) (.quiet rfl rfl rfl) hs
  unfold State.refuseOrder; dsimp only
  split
  · exact h.goBack h1
  · next v hv =>
    refine h.goBack (h.carriages (h.restore (v := v) hb hv
      (h.setup (s := s.updRun fun r => { r with orderFault := true, last := .refused }) hb h1)))

theorem saveCarr {c} (hs : P s) : P (s.saveCarr c) := by
  refine h.run ⟨id, .inl rfl, fun v hv => .inr ?_⟩ hs
  obtain ⟨w, hw, rfl⟩ := Option.map_eq_some_iff.1 hv
  exact ⟨w, hw, rfl⟩

theorem setForStart {c} (hs : P s) : P (s.setForStart c) := by
  unfold State.setForStart
  have h1 : P (s.saveCarr c) := h.saveCarr hs
  have h2 := h.run (f := fun r => { r with unset := r.unset.filter fun d => d != c }) (.quiet rfl rfl rfl) h1
  have h3 := fun q f => h.modCarr (c := c) (f := f) (h.setCarr (c := c) (q := q) h2)
  exact Kept.ite (h.send (h3 _ _)) (h3 _ _)

theorem setRested (hs : P s) : P s.setRested := by
  refine Kept.foldl _ (fun s c hs => ?_) hs
  split
  · exact h.setForStart hs
  · exact hs

theorem buildClaims (hb : s.run.stage = some .answers) (ht : s.orderOk .top = true) (hu : s.orderOk .bottom = true)
    (hs : P s) : P s.buildClaims := by
  unfold State.buildClaims; dsimp only
  refine h.run (.leaves (by simp) (.inl rfl) (.inr rfl)) (Kept.foldl _ (fun s c hs => ?_) (h.build hb ht hu hs))
  split
  · split
    · exact h.toIdle (h.modCarr hs)
    · exact h.modCarr hs
  · exact hs

theorem batch {d p} (hs : P s) : P (s.batch d p) := by
  unfold State.batch; dsimp only
  exact Kept.foldl _ (fun _ _ hs => h.orderTravel hs) hs

theorem issueHome {d} (hs : P s) : P (s.issueHome d) := by
  unfold State.issueHome; split
  · exact h.batch (h.run (.quiet rfl rfl rfl) hs)
  · exact hs

theorem freshLog {v} (hv : s.run.held = some v) (hs : P s) : P (s.freshLog v) :=
  h.station (by decide) (h.station (by decide) (h.fetch (.of (Nat.zero_le _) fun r h1 h2 => ⟨r, h1, h2⟩) (h.fresh hv hs)))

theorem keepLog {v} (hs : P s) : P (s.keepLog v) :=
  h.fetch (.same rfl rfl) (h.log (.quiet rfl rfl rfl rfl rfl le_rfl le_rfl rfl) hs)

theorem endStarting (hs : P s) : P s.endStarting := by
  unfold State.endStarting; dsimp only
  refine h.markScan (h.updateRefill (h.setRun (h.fetch (.same rfl rfl) (h.run (.leaves (by simp) (.inr rfl) (.inl rfl)) ?_))))
  have h1 : P (match s.run.held, s.run.origin with
      | some v, some .fromIdle => s.freshLog v
      | some v, _ => s.keepLog v
      | none, _ => s) := by
    split
    · next hv _ => exact h.freshLog hv hs
    · exact h.keepLog hs
    · exact hs
  exact Kept.ite (h.markReach h1) h1

omit h in
theorem setRested_stage : s.setRested.run.stage = s.run.stage := by
  unfold State.setRested
  generalize s.run.unset = l
  induction l generalizing s with
  | nil => rfl
  | cons c rest ih =>
    rw [List.foldl_cons, ih]
    split
    · unfold State.setForStart; dsimp only; split <;> (try split) <;> rfl
    · rfl

theorem startLevel (hs : P s) : P s.startLevel := by
  have h0 : P (if s.run.stage = some .answers then
      let s := s.setRested
      if s.allAnswered then (if s.orderOk .top && s.orderOk .bottom then s.buildClaims else s.refuseOrder) else s
      else s) := by
    split
    · next hb =>
      dsimp only
      split
      · split
        · next ho =>
          simp only [Bool.and_eq_true] at ho
          exact h.buildClaims (by rw [setRested_stage]; exact hb) ho.1 ho.2 (h.setRested hs)
        · exact h.refuseOrder (by rw [setRested_stage]; exact hb) (h.setRested hs)
      · exact h.setRested hs
    · exact hs
  unfold State.startLevel
  have h1 := h.issueHome (d := .bottom) (h.issueHome (d := .top) h0)
  exact Kept.ite (h.endStarting h1) h1

theorem framePark {d} (hs : P s) : P (s.framePark d) := by
  have h1 : P (if s.run.framePark.get d = .due ∧ s.sideIdle d then
      (s.updRun fun r => { r with framePark := r.framePark.set d .issued }).batch d .park else s) := by
    split
    · exact h.batch (h.run (.quiet rfl rfl rfl) hs)
    · exact hs
  unfold State.framePark
  exact Kept.ite (h.run (.quiet rfl rfl rfl) h1) h1

theorem endFrameHold (hs : P s) : P s.endFrameHold := by
  unfold State.endFrameHold; split
  · exact h.fetch (.same rfl rfl) hs
  · exact hs

theorem runPark {d} (hs : P s) : P (s.runPark d) := by
  unfold State.runPark; split
  · exact h.batch (h.run (.quiet rfl rfl rfl) hs)
  · exact hs

theorem calibratePending {q} (hs : P s) : P (s.calibratePending q) := by
  unfold State.calibratePending; split
  · exact h.setRun (h.run (.quiet rfl rfl rfl) (h.orderPendingCal hs))
  · exact hs

theorem drainLevel (hs : P s) : P s.drainLevel := by
  have h1 := h.runPark (d := .bottom) (h.runPark (d := .top) hs)
  unfold State.drainLevel; dsimp only
  split
  · split
    · exact h.calibratePending (h.cause (h.setRun (h.run (.quiet rfl rfl rfl) h1)))
    · exact h1
  · exact hs

theorem abortLevel (hs : P s) : P s.abortLevel := by
  have h1 := h.runPark (d := .bottom) (h.runPark (d := .top) hs)
  unfold State.abortLevel; dsimp only
  split
  · split
    · exact h.calibratePending (h.setRun (h.run (.quiet rfl rfl rfl) h1))
    · exact h1
  · exact hs

theorem runLevel (hs : P s) : P s.runLevel :=
  h.abortLevel (h.drainLevel (h.endFrameHold (h.framePark (h.framePark (h.startLevel hs)))))

/-- What follows every event keeps what the changes of the list keep. -/
theorem finish (hs : P s) : P s.finish :=
  h.tidyPoll (h.fetchKick (h.logKick (h.arbiter (h.dispatcherStage (h.runLevel (h.arbiter (h.dispatcherStage hs)))))))

end Kept

end Sys2Proof.Machine
end

