-- ==== Sys2Proof/Laws/Travel.lean ====
section
/-! SUPPORT. A carriage's requests and timer: what stopping the timer, sending a request and settling one change (R46,
AL 58), and the record to which ORDER_FAULT takes a carriage back (R61, AL 16). -/

namespace Sys2Proof.Machine

set_option Elab.async false

section
variable (n : Nat) (r : CarriageRec)
@[simp] theorem CarriageRec.stopTimer_state : (r.stopTimer n).state = r.state := rfl
@[simp] theorem CarriageRec.stopTimer_phase : (r.stopTimer n).phase = r.phase := rfl
@[simp] theorem CarriageRec.stopTimer_purpose : (r.stopTimer n).purpose = r.purpose := rfl
@[simp] theorem CarriageRec.stopTimer_service : (r.stopTimer n).service = r.service := rfl
@[simp] theorem CarriageRec.stopTimer_ended : (r.stopTimer n).ended = r.ended := rfl
@[simp] theorem CarriageRec.stopTimer_target : (r.stopTimer n).target = r.target := rfl
@[simp] theorem CarriageRec.stopTimer_position : (r.stopTimer n).position = r.position := rfl
@[simp] theorem CarriageRec.stopTimer_probeUp : (r.stopTimer n).probeUp = r.probeUp := rfl
@[simp] theorem CarriageRec.stopTimer_request : (r.stopTimer n).request = r.request := rfl
@[simp] theorem CarriageRec.stopTimer_timer : (r.stopTimer n).timer = none := rfl
@[simp] theorem CarriageRec.stopTimer_scrubIndex : (r.stopTimer n).scrubIndex = r.scrubIndex := rfl
@[simp] theorem CarriageRec.stopTimer_followOn : (r.stopTimer n).followOn = r.followOn := rfl
@[simp] theorem CarriageRec.stopTimer_tip : (r.stopTimer n).tip = r.tip := rfl
end

/-- A timer that runs leaves the time at which it stops. -/
theorem CarriageRec.stopTimer_cut {n : Nat} {r : CarriageRec} (h : r.timer ≠ none) : (r.stopTimer n).timerCut = some n :=
  if_pos (Option.isSome_iff_ne_none.2 h)

/-- A timer that does not run leaves no mark. -/
theorem CarriageRec.stopTimer_idle {n : Nat} {r : CarriageRec} (h : r.timer = none) : r.stopTimer n = r := by
  cases r; cases h; rfl

variable {s : State} {c : Carriage}

/-- The whole of what the matching response changes in its carriage: the request and its timer. -/
theorem State.carr_settle : (s.settle c).carr c = { (s.carr c).stopTimer s.clock with request := none } :=
  State.carr_modCarr_same ..

/-- Settling one carriage's request leaves the others. -/
theorem State.carr_settle_ne {x : Carriage} (h : x ≠ c) : (s.settle c).carr x = s.carr x := by
  rw [State.settle, State.carr_modCarr, if_neg h]

/-- The whole of what sending a request changes in its carriage: the request and its timer. -/
theorem State.carr_send {q : AxisRequest} : (s.send c q).carr c =
    { (s.carr c).stopTimer s.clock with request := some ⟨q.kind, false⟩, timer := some (s.setup.timeout q.kind) } :=
  State.carr_modCarr_same ..

/-- A carriage at rest before the START comes back as it was. -/
theorem backRecord_rest {b r : CarriageRec} (h : b.settable = true) : backRecord b r = b := if_pos h

/-- Whatever it was doing at the START, a carriage comes back at its last reported position from before it. -/
theorem backRecord_position {b r : CarriageRec} : (backRecord b r).position = b.position := by
  unfold backRecord; split <;> rfl

/-- A carriage comes back at rest. -/
theorem backRecord_settable {b r : CarriageRec} (h : r.settable = true) : (backRecord b r).settable = true := by
  unfold backRecord; split
  · assumption
  · exact h

end Sys2Proof.Machine
end

