-- ==== Sys2Proof/Laws/KeptExec.lean ====
section
/-! SUPPORT. The preservation principle over every command and every step: a property that the changes of `KeptAll` keep
is kept by `exec` and by `step`. -/

namespace Sys2Proof.Machine

set_option Elab.async false

/-- A property that every change a command can make keeps: those of `Kept`, and those that this command alone makes. -/
structure KeptBy (P : State → Prop) (i : Instr) : Prop extends Kept P where
  host : ∀ {s : State} {a : Word64} {b : List Byte},
    i = .abort ∨ i = .reset ∨ i = .powerOnReset ∨ i = .entryWritten ∨ i = .netImageWritten → P s → P (s.writeHost a b)
  base : ∀ {s : State} {w : StationWrite}, i = .stationBaseWrite w → s.run.state = .idle → P s →
    P (s.updRegs fun r => { r with stationBase := writeBase r.stationBase w })
  status : ∀ {s : State} {v : Word32}, i = .intStatusWrite v → P s →
    P (s.updRegs fun r => { r with intStatus := r.intStatus &&& ~~~(v.setWidth 6) })
  enable : ∀ {s : State} {v : Word32}, i = .intEnableWrite v → P s →
    P (s.updRegs fun r => { r with intEnable := v.setWidth 6 })
  force : ∀ {s : State} {c : Carriage} {b : Bool}, i = .forceLineAsserted c ∨ i = .forceLineDrops c → P s →
    P (s.updPins fun p => { p with force := p.force.set c b })
  comparator : ∀ {s : State} {w : Comparator} {b : Bool}, i = .comparatorAsserted w ∨ i = .comparatorFalls w → P s →
    P (s.updPins fun p => p.setComparator w b)
  shrink : ∀ {s : State} {c : Carriage} {p : Pos} {k j : Interval}, i = .arrived c p ∨ i = .halted c p →
    s.claimOf c = some k → j.within k = true → (s.carr c).state = .travel → P s → P (s.shrinkLanes c j)
  calibration : ∀ {s : State} {l : List Code} {f : MeasUnit → MeasUnit}, i = .calCountEnd l →
    (f s.mu).checkQueue = s.mu.checkQueue → (f s.mu).measQueue = s.mu.measQueue → (f s.mu).zAge = 0 → P s →
    P (s.updMu f)
  block : ∀ {s : State} {b : List Byte}, i = .stationBlockRead b → s.run.state = .starting → P s →
    P (s.updRun fun r => { r with held := some (parseStation b), stage := some .setupRecord })
  newSetup : ∀ {s : State} {b : List Byte}, i = .setupRecordRead b → s.run.state = .starting → P s →
    P ((s.updSetup fun _ => parseSetup b).updRun fun r =>
      { r with stage := some .answers, unset := allCarriages, answers := .all none })
  drained : ∀ {s : State} {v : Word32}, i = .drainedRead v → P s →
    P (s.updLog fun l =>
      { l with drained := takeDrained l.published l.drained v, reading := l.reread, reread := false })
  reset : ∀ {s : State}, i = .reset → P s → P s.afterReset
  powerOn : ∀ {s : State}, i = .powerOnReset → P s → P s.afterPowerOn

/-- A property that every change the part can make keeps. -/
structure KeptAll (P : State → Prop) : Prop extends Kept P where
  host : ∀ {s : State} {a : Word64} {b : List Byte}, P s → P (s.writeHost a b)
  queue : ∀ {s : State} {l : List Instr}, P s → P { s with pending := l }
  clock : ∀ {s : State} {n : Nat}, P s → P { s with clock := n }
  pins : ∀ {s f}, P s → P (s.updPins f)
  regs : ∀ {s f}, P s → P (s.updRegs f)
  shrink : ∀ {s : State} {c : Carriage} {k j : Interval}, s.claimOf c = some k → j.within k = true →
    (s.carr c).state = .travel → P s → P (s.shrinkLanes c j)
  calibration : ∀ {s : State} {f : MeasUnit → MeasUnit}, (f s.mu).checkQueue = s.mu.checkQueue →
    (f s.mu).measQueue = s.mu.measQueue → (f s.mu).zAge = 0 → P s → P (s.updMu f)
  block : ∀ {s : State} {b : List Byte}, s.run.state = .starting → P s →
    P (s.updRun fun r => { r with held := some (parseStation b), stage := some .setupRecord })
  newSetup : ∀ {s : State} {b : List Byte}, s.run.state = .starting → P s →
    P ((s.updSetup fun _ => parseSetup b).updRun fun r =>
      { r with stage := some .answers, unset := allCarriages, answers := .all none })
  drained : ∀ {s : State} {v : Word32}, P s →
    P (s.updLog fun l =>
      { l with drained := takeDrained l.published l.drained v, reading := l.reread, reread := false })
  reset : ∀ {s : State}, P s → P s.afterReset
  powerOn : ∀ {s : State}, P s → P s.afterPowerOn

/-- What every change keeps, the changes of each command keep. -/
theorem KeptAll.by_ {P : State → Prop} (h : KeptAll P) (i : Instr) : KeptBy P i where
  toKept := h.toKept
  host _ hs := h.host hs
  base _ _ hs := h.regs hs
  status _ hs := h.regs hs
  enable _ hs := h.regs hs
  force _ hs := h.pins hs
  comparator _ hs := h.pins hs
  shrink _ h1 h2 h3 hs := h.shrink h1 h2 h3 hs
  calibration _ h1 h2 h3 hs := h.calibration h1 h2 h3 hs
  block _ h1 hs := h.block h1 hs
  newSetup _ h1 hs := h.newSetup h1 hs
  drained _ hs := h.drained hs
  reset _ hs := h.reset hs
  powerOn _ hs := h.powerOn hs

/-- What an answer holds when it is a next state. -/
def Answers (P : State → Prop) (o : Answer) : Prop := ∀ t, o = .next t → P t

theorem Answers.next {P : State → Prop} {t : State} (h : P t) : Answers P (.next t) := by
  rintro _ ⟨⟩; exact h

theorem Answers.ite {P : State → Prop} {p : Prop} [Decidable p] {a b : Answer} (ha : p → Answers P a)
    (hb : ¬p → Answers P b) : Answers P (if p then a else b) := by
  split
  · next hp => exact ha hp
  · next hp => exact hb hp

variable {P : State → Prop} {i : Instr} (h : KeptBy P i) {s : State}
include h

namespace KeptBy

theorem writeHostPart {a b} (hi : i = .abort ∨ i = .reset ∨ i = .powerOnReset) (hs : P s) : P (s.writeHostPart a b) :=
  h.free (h.host (by rcases hi with rfl | rfl | rfl <;> simp) hs)

/-! ## The host's commands -/

theorem ignored (hs : P s) : P s.ignored := h.setLast hs

theorem start (hs : P s) : Answers P (execStart s) := by
  have h1 : ∀ o q, P (s.acceptStart o q) := fun o q => by
    unfold State.acceptStart; dsimp only
    exact h.setRun (h.log (.quiet rfl rfl rfl rfl rfl le_rfl le_rfl rfl) (h.fetch (.same rfl rfl) (h.run
      ⟨fun e => (by cases e), .inr rfl, fun v hv => .inl (by cases hv; rfl)⟩ hs)))
  unfold execStart; split
  · exact .next (h1 _ _)
  · exact .next (h1 _ _)
  all_goals exact .next (h.ignored hs)

theorem beginDrain (hs : P s) : P s.beginDrain := h.run (.quiet rfl rfl rfl) (h.setRun hs)

theorem stop (hs : P s) : Answers P (execStop s) := by
  unfold execStop; split
  · exact .next (h.finish (h.beginDrain (h.setLast hs)))
  all_goals exact .next (h.ignored hs)

theorem abortCarriage {c} (hs : P s) : P (s.abortCarriage c) := by
  unfold State.abortCarriage; dsimp only
  split
  · exact hs
  · exact hs
  · exact hs
  · exact hs
  · split
    · exact h.sendHalt hs
    · exact h.toIdle hs
    · exact h.toIdle hs
    · exact hs
  · exact h.modCarr hs
  · exact h.enterLift hs
  · exact h.enterLift hs
  · exact h.enterLift hs
  · exact h.modCarr hs

theorem abortUnits (hs : P s) : P s.abortUnits :=
  h.clear (h.qual (h.mu ⟨Nat.zero_le _, id, rfl, rfl, fun _ => ⟨Nat.zero_le _, List.nodup_nil⟩⟩
    (h.abandonMeasure (h.abandonCheck hs))))

theorem abortLog {n} (hi : i = .abort) (hs : P s) : P (s.abortLog n) := by
  unfold State.abortLog
  have h1 := Kept.ite (p := s.frame.imageBusy = true)
    (h.frame (f := fun f => { f with imageBusy := false }) (.same rfl) (h.writeHostPart (.inl hi)
      (a := s.frame.imageAddr) (b := s.nets.image) hs)) hs
  exact h.log (.quiet rfl rfl rfl rfl rfl (Nat.zero_le _) le_rfl rfl) (h.frame (.same rfl) h1)

omit h in
/-- ABORT voids a read and starts none (R176). -/
theorem abort_header (f : Fetcher) (r : FetchRead) (hr : f.abort.reading = some r) (hk : r.kind = .header) :
    ∃ q, f.reading = some q ∧ q.kind = .header := by
  simp only [Fetcher.abort, Option.map_eq_some_iff] at hr
  obtain ⟨q, hq, rfl⟩ := hr
  exact ⟨q, hq, hk⟩

theorem acceptAbort (hi : i = .abort) (hs : P s) : P s.acceptAbort := by
  have h1 := h.abortUnits (h.setLast (q := .accepted) hs)
  have hd := fun (d : Dispatcher) (g : Entry → Bool) =>
    (DispStep.filter (d := d) (d' := { d with window := d.window.filter g }) (p := g) rfl).trans
      (DispStep.map (d' := { d with window := (d.window.filter g).map fun e => { e with eval := none }, refused := []
                                    withdraw := [], reach := false, scan := false })
        (g := fun e => { e with eval := none }) rfl (fun _ => rfl) fun _ he => he)
  have h2 := fun g => h.disp (f := fun d =>
    { d with window := (d.window.filter g).map fun e => { e with eval := none }, refused := [], withdraw := []
             reach := false, scan := false }) (hd _ g) h1
  have h3 := fun g n => h.setRun (q := .aborting) (h.fetch (f := Fetcher.abort) (.of (Nat.zero_le _) (abort_header _))
    (h.abortLog hi (n := n) (h2 g)))
  unfold State.acceptAbort
  refine h.run (.quiet rfl rfl rfl) (Kept.foldl _ (fun _ _ hs => h.abortCarriage hs) ?_)
  exact Kept.ite (h.retip (h3 _ _)) (h3 _ _)

theorem abort (hi : i = .abort) (hs : P s) : Answers P (execAbort s) := by
  have h1 := h.finish (h.acceptAbort hi hs)
  unfold execAbort; split
  · exact .next h1
  · exact .next h1
  · exact .next h1
  · exact .next h1
  all_goals exact .next (h.ignored hs)

theorem acceptClear (hs : P s) : P s.acceptClear :=
  h.calibratePending (h.cause (h.retip (h.setRun (h.guard (.same rfl) (h.setLast hs)))))

theorem clearFault (hs : P s) : Answers P (execClearFault s) := by
  unfold execClearFault; split
  · exact .next (h.finish (h.acceptClear hs))
  all_goals exact .next (h.ignored hs)

theorem acceptCalibrate {q} (hs : P s) : P (s.acceptCalibrate q) :=
  h.setRun (h.run (.quiet rfl rfl rfl) (h.mu (.same rfl rfl rfl) (h.setLast hs)))

theorem calibrate (hs : P s) : Answers P (execCalibrate s) := by
  have h1 := h.run (f := fun r => { r with pendingCal := true }) (.quiet rfl rfl rfl) (h.setLast (q := .accepted) hs)
  unfold execCalibrate; split
  · exact .next (h.finish (h.acceptCalibrate hs))
  · exact .next (h.finish (h.acceptCalibrate hs))
  · exact .next h1
  · exact .next h1
  · exact .next h1
  all_goals exact .next (h.ignored hs)

theorem stopWrites (hi : i = .reset ∨ i = .powerOnReset) (hs : P s) : P s.stopWrites := by
  have h1 := Kept.ite (p := s.frame.imageBusy = true) (h.writeHostPart (.inr hi) (a := s.frame.imageAddr) (b := s.nets.image) hs)
    hs
  unfold State.stopWrites
  dsimp only
  revert h1
  generalize (if s.frame.imageBusy = true then s.writeHostPart s.frame.imageAddr s.nets.image else s) = t
  intro h1
  split
  · exact h1
  · exact h.writeHostPart (.inr hi) h1
  · exact h.free (Kept.ite (h.station (by decide) h1) h1)

theorem resetAll (hi : i = .reset) (hs : P s) : Answers P (execReset s) :=
  .next (h.reset hi (h.linkOut (h.stopWrites (.inl hi) hs)))

theorem powerOnReset (hi : i = .powerOnReset) (hs : P s) : Answers P (execPowerOnReset s) :=
  .next (h.powerOn hi (h.stopWrites (.inr hi) hs))

theorem commandUnknown {k} (hs : P s) : Answers P (execCommandUnknown k s) := .next (h.ignored hs)

omit h in
theorem wake_step (f : Fetcher) (b : Bool) : FetchStep f (f.wake b) := by
  unfold Fetcher.wake; split
  · split
    · exact .same rfl rfl
    · exact .same rfl rfl
  · split
    · exact .starts rfl rfl (by simp)
    · exact .same rfl rfl

theorem wake {v} (hs : P s) : Answers P (execWake v s) := by
  refine .next (h.log ?_ (h.fetch (wake_step _ _) hs))
  unfold LogWriter.wake
  split
  · split
    · exact .quiet rfl rfl rfl rfl rfl le_rfl le_rfl rfl
    · exact .quiet rfl rfl rfl rfl rfl le_rfl le_rfl rfl
  · exact .quiet rfl rfl rfl rfl rfl le_rfl le_rfl rfl

theorem stationBaseWrite {w} (hi : i = .stationBaseWrite w) (hs : P s) : Answers P (execStationBaseWrite w s) := by
  unfold execStationBaseWrite; exact .ite (fun hc => .next (h.base hi hc hs)) fun _ => .next hs

theorem intStatusWrite {v} (hi : i = .intStatusWrite v) (hs : P s) : Answers P (execIntStatusWrite v s) :=
  .next (h.status hi hs)

theorem intEnableWrite {v} (hi : i = .intEnableWrite v) (hs : P s) : Answers P (execIntEnableWrite v s) :=
  .next (h.enable hi hs)


/-! ## The drives -/

theorem release {c p} {s' : State} (hi : i = .arrived c p ∨ i = .halted c p) (ht : (s.carr c).state = .travel) (hs : P s) (hr : s.release c p = some s') :
    P s' := by
  revert hr
  unfold State.release; dsimp only
  split
  · intro e; cases e
  · next k hk =>
    split
    · next hw =>
      intro e
      have h1 := h.modCarr (c := c) (f := fun r => { r with position := some p }) (h.shrink hi hk hw ht hs)
      have h2 := Kept.ite (p := s.setup.span c (s.setup.laneFor c p.x) = k) h1
        (h.markScan (h.review (d := sideOf c) h1))
      cases e
      exact h2
    · intro e; cases e

theorem offerPosition {c p} {rest : State → State} (hi : i = .arrived c p ∨ i = .halted c p)
    (ht : (s.carr c).state = .travel)
    (hrest : ∀ t, P t → P (rest t)) (hs : P s) : P (s.offerPosition c p rest) := by
  unfold State.offerPosition; split
  · exact h.carriageFault hs
  · next hr => exact hrest _ (h.release hi ht hs hr)

omit h in
theorem settle_state (c : Carriage) : ((s.settle c).carr c).state = (s.carr c).state := by simp [State.settle]

theorem arrived {c p} (hi : i = .arrived c p) (hs : P s) : Answers P (execArrived c p s) := by
  unfold execArrived; dsimp only
  split
  · next hc =>
    exact .next (h.finish (h.offerPosition (.inl hi) (by rw [settle_state]; exact hc.1) (fun t ht => h.travelDone ht)
      (h.settle hs)))
  · split
    · exact .next (h.modCarr hs)
    · exact .next (h.finish (h.lateResponse hs))

theorem halted {c p} (hi : i = .halted c p) (hs : P s) : Answers P (execHalted c p s) := by
  unfold execHalted; dsimp only
  split
  · next hc =>
    exact .next (h.finish (h.offerPosition (.inr hi) (by rw [settle_state]; exact hc.1) (fun t ht => h.toIdle ht)
      (h.settle hs)))
  · exact .next (h.finish (h.lateResponse hs))

theorem touched {c n} (hs : P s) : Answers P (execTouched c n s) := by
  have h1 := h.modCarr (c := c) (f := fun r => { r with probeUp := false }) (h.settle (c := c) hs)
  unfold execTouched; dsimp only
  split
  · split
    · exact .next (h.finish (h.noTouch h1))
    · split
      · exact .next (h.finish (h.enterLift h1))
      · exact .next (h.finish (h.openLanding h1))
  · exact .next (h.finish (h.lateResponse hs))

theorem noTouchEvent {c} (hs : P s) : Answers P (execNoTouch c s) := by
  have h1 := h.modCarr (c := c) (f := fun r => { r with probeUp := false }) (h.settle (c := c) hs)
  unfold execNoTouch; dsimp only
  split
  · exact .next (h.finish (h.noTouch h1))
  · exact .next (h.finish (h.lateResponse hs))

theorem landAt {c p q} (hs : P s) : P (s.landAt c p q) := by
  have h1 := h.scrubTravel (c := c) 5 (p := p) hs
  unfold State.landAt
  split
  · exact h.claimTravel (h.compareTravel (h.modCarr (h.beginTravel hs)))
  all_goals exact h.sparePartner h1

theorem lifted {c} (hs : P s) : Answers P (execLifted c s) := by
  have h1 := h.modCarr (c := c) (f := fun r => { r with probeUp := true }) (h.settle (c := c) hs)
  unfold execLifted; dsimp only
  split
  · split
    · exact .next (h.finish (h.landAt h1))
    · exact .next (h.finish (h.toIdle h1))
    · exact .next (h.finish (h.toIdle h1))
  · split
    · exact .next (h.finish (Kept.ite (h.toIdle h1) h1))
    · exact .next (h.finish (h.lateResponse hs))

theorem position {c p b} (hs : P s) : Answers P (execPosition c p b s) := by
  have h1 := h.run (f := fun r => { r with answers := r.answers.set c (some p) }) (.quiet rfl rfl rfl)
    (h.modCarr (c := c) (f := fun r => { r with probeUp := b }) (h.settle (c := c) hs))
  unfold execPosition; dsimp only
  split
  · exact .next (h.finish (Kept.ite h1 (h.send h1)))
  · exact .next (h.finish (h.lateResponse hs))

theorem driveFault {c b} (hs : P s) : Answers P (execDriveFault c b s) := by
  unfold execDriveFault; split
  · exact .next (h.finish (h.carriageFault hs))
  · exact .next (h.finish (h.lateResponse hs))

theorem requestTimeout {c} (hs : P s) : Answers P (execRequestTimeout c s) := by
  unfold execRequestTimeout
  refine .ite (fun _ => .next (h.modCarr hs)) fun _ => ?_
  split
  · exact .next (h.finish (h.carriageFault (h.modCarr hs)))
  · exact .next hs

/-! ## Force lines -/

theorem forceLineAsserted {c} (hi : i = .forceLineAsserted c) (hs : P s) : Answers P (execForceLineAsserted c s) := by
  have h1 := h.force (c := c) (b := true) (.inl hi) hs
  exact .next (Kept.ite h1 (h.modLanding h1))

theorem forceLineDrops {c} (hi : i = .forceLineDrops c) (hs : P s) : Answers P (execForceLineDrops c s) :=
  .next (h.modLanding (h.force (.inr hi) hs))

theorem filterTimeComplete {c} (hs : P s) : Answers P (execFilterTimeComplete c s) := by
  unfold execFilterTimeComplete; split
  · exact .next (h.finish (h.progressLanding (h.modLanding hs)))
  all_goals exact .next hs

theorem limitTime {c} (hs : P s) : Answers P (execLimitTime c s) := by
  unfold execLimitTime; split
  · exact .next (h.finish (h.progressLanding (h.modLanding hs)))
  all_goals exact .next hs

/-! ## The Measurement Unit -/

theorem precheckEnd {l} (hs : P s) : Answers P (execPrecheckEnd l s) := by
  have h1 := h.dropCut (h.raiseCondition (k := .residual) hs)
  have h2 := h.dropCut hs
  unfold execPrecheckEnd
  refine .ite (fun _ => .next h2) fun _ => ?_
  split
  · split
    · exact .next (h.finish (h.beginConversion h2))
    · exact .next (h.finish (Kept.ite (h.beginConversion h1) h1))
  · exact .next hs

theorem dummyEnd (hs : P s) : Answers P (execDummyEnd s) := by
  have h2 := h.dropCut hs
  have h1 := h.mu (f := MeasUnit.remember) (.same rfl rfl rfl) h2
  unfold execDummyEnd
  refine .ite (fun _ => .next h2) fun _ => ?_
  split
  · exact .next (h.finish (h.applyStimulus h1))
  · exact .next (h.finish (h.applyCheck h1))
  · exact .next (h.mu (.same rfl rfl rfl) h2)
  · exact .next hs

theorem settleEnd (hs : P s) : Answers P (execSettleEnd s) := by
  have h2 := h.dropCut hs
  unfold execSettleEnd
  refine .ite (fun _ => .next h2) fun _ => ?_
  split
  · exact .next (h.afterSettle h2)
  · exact .next (h.afterSettle h2)
  · exact .next hs

theorem skipEnd (hs : P s) : Answers P (execSkipEnd s) := by
  unfold execSkipEnd; split
  · exact .next (h.afterSettle hs)
  · exact .next hs

theorem countEnd {l} (hs : P s) : Answers P (execCountEnd l s) := by
  unfold execCountEnd; split
  · exact .next (h.finish (h.reportSampled hs))
  · exact .next hs

theorem pairCheckCountEnd {l} (hs : P s) : Answers P (execPairCheckCountEnd l s) := by
  unfold execPairCheckCountEnd; split
  · exact .next (h.finish (h.bindCheck (h.releaseCheck hs)))
  · exact .next hs

theorem chargeThreshold {n} (hs : P s) : Answers P (execChargeThreshold n s) := by
  unfold execChargeThreshold; split
  · exact .next (h.finish (h.reportCharge hs))
  · exact .next hs

theorem timerLimit (hs : P s) : Answers P (execTimerLimit s) := by
  unfold execTimerLimit; split
  · exact .next (h.finish (h.reportCharge hs))
  · exact .next hs

theorem chargeCompliance {n} (hs : P s) : Answers P (execChargeCompliance n s) := by
  unfold execChargeCompliance; split
  · exact .next (h.finish (h.reportCharge hs))
  · exact .next hs

theorem dwellEnd (hs : P s) : Answers P (execDwellEnd s) := by
  have h2 := h.dropCut hs
  unfold execDwellEnd
  refine .ite (fun _ => .next h2) fun _ => ?_
  split
  · split
    · exact .next (h.finish (h.releaseStep h2))
    · exact .next (h.finish (h.repeatCharge h2))
  · exact .next hs

theorem guardDwellEnd (hs : P s) : Answers P (execGuardDwellEnd s) := by
  have h2 := h.dropCut hs
  unfold execGuardDwellEnd
  refine .ite (fun _ => .next h2) fun _ => ?_
  split
  · exact .next (h.finish (h.beginMeasurement (h.endDwell h2)))
  · exact .next hs

theorem calibrated (hs : P s) : P s.calibrated := by
  unfold State.calibrated; split
  · exact h.setRun hs
  · exact Kept.ite hs (h.goBack hs)
  all_goals exact hs

theorem calComplete {z l q} (hi : i = .calCountEnd q) (hs : P s) : P (s.calComplete z l) := by
  have h1 := h.calibration (f := fun u =>
    { u with op := .idle, phase := none, newZ := [], newClamped := [], z := zOf z, zAge := 0
             calRange := l.any id }) hi rfl rfl rfl hs
  have h2 := h.cause (k := .cal) (Kept.foldl (f := fun s g => s.offerNote ⟨.calRange, none, g, 0, 0, 0⟩)
    (clampedGains 0 l) (fun _ _ hs => h.note hs) h1)
  exact h.calibrated (Kept.ite h2 (h.note h2))

theorem calCountEnd {l} (hi : i = .calCountEnd l) (hs : P s) : Answers P (execCalCountEnd l s) := by
  unfold execCalCountEnd; split
  · dsimp only
    split
    · exact .next (h.mu (.same rfl rfl rfl) hs)
    · exact .next (h.finish (h.calComplete hi hs))
  · exact .next hs

theorem comparatorAsserted {w} (hi : i = .comparatorAsserted w) (hs : P s) : Answers P (execComparatorAsserted w s) := by
  have h1 := h.comparator (w := w) (b := true) (.inl hi) hs
  unfold execComparatorAsserted; dsimp only
  refine .ite (fun _ => ?_) fun _ => .next h1
  split
  · exact .next (h.guard (.same rfl) h1)
  · exact .next (h.guard (.same rfl) h1)

theorem comparatorFalls {w} (hi : i = .comparatorFalls w) (hs : P s) : Answers P (execComparatorFalls w s) := by
  unfold execComparatorFalls; dsimp only; split
  · exact .next (h.guard (.same rfl) (h.comparator (.inr hi) hs))
  · exact .next (h.guard (.same rfl) (h.comparator (.inr hi) hs))

theorem deglitchComplete {w} (hs : P s) : Answers P (execDeglitchComplete w s) := .next (h.finish (h.deglitched hs))

/-! ## Host memory -/

theorem stationBlockRead {b} (hi : i = .stationBlockRead b) (hs : P s) : Answers P (execStationBlockRead b s) := by
  unfold execStationBlockRead; exact .ite (fun hc => .next (h.block hi hc.1 hs)) fun _ => .next hs

theorem setupRecordRead {b} (hi : i = .setupRecordRead b) (hs : P s) : Answers P (execSetupRecordRead b s) := by
  unfold execSetupRecordRead; dsimp only
  refine .ite (fun hc => ?_) fun _ => .next hs
  split
  · exact .next (h.finish (h.newSetup hi hc.1 hs))
  · exact .next (h.refuseSetup hs)

theorem dropRead (hs : P s) : P s.dropRead := h.fetch (.ends le_rfl rfl) hs

omit h in
theorem awaiting_some {f : Fetcher} {k : ReadKind} {b : Bool} (ha : f.awaiting k = some b) :
    ∃ r, f.reading = some r ∧ r.kind = k ∧ r.voided = b := by
  revert ha
  unfold Fetcher.awaiting; split
  · next r hr =>
    split
    · next hk => rintro ⟨⟩; exact ⟨r, hr, hk, rfl⟩
    · rintro ⟨⟩
  · rintro ⟨⟩

theorem headerRead {b} (hs : P s) : Answers P (execHeaderRead b s) := by
  unfold execHeaderRead; split
  · exact .next hs
  · exact .next (h.finish (h.dropRead hs))
  · next ha =>
    obtain ⟨r, hr, hk, -⟩ := awaiting_some ha
    exact .next (h.finish (h.takeHeader hr hk hs))

theorem recordRead {b} (hs : P s) : Answers P (execRecordRead b s) := by
  unfold execRecordRead; split
  · exact .next hs
  · exact .next (h.finish (h.dropRead hs))
  · exact .next (h.finish (h.takeRecord hs))

theorem linkRead {a} (hs : P s) : Answers P (execLinkRead a s) := by
  unfold execLinkRead; split
  · exact .next hs
  · exact .next (h.finish (h.dropRead hs))
  · exact .next (h.finish (Kept.ite (h.takeLink hs) (h.linkZero hs)))

theorem pollExpiry (hs : P s) : Answers P (execPollExpiry s) := by
  unfold execPollExpiry
  refine .ite (fun _ => .next (h.log (.quiet rfl rfl rfl rfl rfl le_rfl le_rfl rfl)
    (h.fetch (.of le_rfl fun r h1 h2 => ?_) hs))) fun _ => .next hs
  dsimp only at h1
  split at h1
  · cases h1; cases h2
  · exact ⟨r, h1, h2⟩

theorem drainedRead {v} (hi : i = .drainedRead v) (hs : P s) : Answers P (execDrainedRead v s) := by
  unfold execDrainedRead
  exact .ite (fun _ => .next (h.finish (h.roomAfterRead (h.drained hi hs)))) fun _ => .next hs

theorem entryWritten (hi : i = .entryWritten) (hs : P s) : Answers P (execEntryWritten s) := by
  unfold execEntryWritten
  split
  · next k b hw =>
    refine .next (h.finish (h.landed ?_ ?_ (h.entryLanded (w := ⟨k, b, .bytes⟩) hw rfl (h.host (by simp [hi]) hs))))
    · rw [State.entryLanded_writing]; exact hw
    · rintro rfl; exact State.frameEndWritten_state _
  all_goals exact .next hs

theorem publication (hs : P s) : Answers P (execPublication s) := by
  unfold execPublication; split
  · next hw => exact .next (h.finish (h.published hw hs))
  all_goals exact .next hs

theorem netImageWritten (hi : i = .netImageWritten) (hs : P s) : Answers P (execNetImageWritten s) := by
  unfold execNetImageWritten
  exact .ite (fun _ => .next (h.finish (h.frame (.same rfl) (h.host (by simp [hi]) hs)))) fun _ => .next hs

/-! ## Every command and every step -/

/-- A command keeps what the changes of the list keep. -/
theorem exec (hs : P s) : Answers P (exec i s) := by
  cases i with
  | start => exact h.start hs
  | stop => exact h.stop hs
  | abort => exact h.abort rfl hs
  | clearFault => exact h.clearFault hs
  | calibrate => exact h.calibrate hs
  | reset => exact h.resetAll rfl hs
  | commandUnknown k => exact h.commandUnknown (k := k) hs
  | wake v => exact h.wake (v := v) hs
  | stationBaseWrite => exact h.stationBaseWrite rfl hs
  | intStatusWrite => exact h.intStatusWrite rfl hs
  | intEnableWrite => exact h.intEnableWrite rfl hs
  | powerOnReset => exact h.powerOnReset rfl hs
  | arrived => exact h.arrived rfl hs
  | halted => exact h.halted rfl hs
  | touched => exact h.touched hs
  | noTouch => exact h.noTouchEvent hs
  | lifted => exact h.lifted hs
  | position => exact h.position hs
  | driveFault => exact h.driveFault hs
  | linkFrameDropped => exact .next hs
  | requestTimeout => exact h.requestTimeout hs
  | forceLineAsserted => exact h.forceLineAsserted rfl hs
  | forceLineDrops => exact h.forceLineDrops rfl hs
  | filterTimeComplete => exact h.filterTimeComplete hs
  | limitTime => exact h.limitTime hs
  | precheckEnd => exact h.precheckEnd hs
  | dummyEnd => exact h.dummyEnd hs
  | settleEnd => exact h.settleEnd hs
  | skipEnd => exact h.skipEnd hs
  | countEnd => exact h.countEnd hs
  | pairCheckCountEnd => exact h.pairCheckCountEnd hs
  | chargeThreshold => exact h.chargeThreshold hs
  | timerLimit => exact h.timerLimit hs
  | chargeCompliance => exact h.chargeCompliance hs
  | dwellEnd => exact h.dwellEnd hs
  | guardDwellEnd => exact h.guardDwellEnd hs
  | calCountEnd => exact h.calCountEnd rfl hs
  | comparatorAsserted => exact h.comparatorAsserted rfl hs
  | comparatorFalls => exact h.comparatorFalls rfl hs
  | deglitchComplete => exact h.deglitchComplete hs
  | stationBlockRead => exact h.stationBlockRead rfl hs
  | setupRecordRead => exact h.setupRecordRead rfl hs
  | headerRead => exact h.headerRead hs
  | recordRead => exact h.recordRead hs
  | linkRead => exact h.linkRead hs
  | pollExpiry => exact h.pollExpiry hs
  | drainedRead => exact h.drainedRead rfl hs
  | entryWritten => exact h.entryWritten rfl hs
  | publication => exact h.publication hs
  | netImageWritten => exact h.netImageWritten rfl hs

end KeptBy

omit h in
/-- A command keeps what the changes of the list keep. -/
theorem KeptAll.exec (h : KeptAll P) (i : Instr) (hs : P s) : Answers P (exec i s) := (h.by_ i).exec hs

omit h in
/-- A step keeps what the changes of the list keep. -/
theorem KeptAll.step (h : KeptAll P) (hs : P s) : Answers P (step s) := by
  unfold Machine.step; split
  · exact .next (h.clock hs)
  · exact h.exec _ (h.queue hs)

end Sys2Proof.Machine
end

