-- ==== Sys2Proof/Laws/Measure.lean ====
section
/-! SUPPORT. The shared operations of the Measurement Unit: a change of the unit touches the unit and the Guard alone, and
what a cut mark is and does (AL 54); and what the abandonment of a pair check leaves (R121). -/

namespace Sys2Proof.Machine

set_option Elab.async false

variable {s : State} {f : MeasUnit → MeasUnit}

/-- A change of the unit leaves the unit as the change says, and of everything else the Guard's timers and marks alone. -/
theorem State.muStep_eq : s.muStep f = { s with mu := f s.mu, guard := (s.muStep f).guard } := by
  unfold State.muStep; dsimp only
  split
  · rfl
  · split <;> rfl

@[simp] theorem State.muStep_mu : (s.muStep f).mu = f s.mu := by rw [State.muStep_eq]
@[simp] theorem State.muStep_clock : (s.muStep f).clock = s.clock := by rw [State.muStep_eq]
@[simp] theorem State.muStep_disp : (s.muStep f).disp = s.disp := by rw [State.muStep_eq]
@[simp] theorem State.muStep_carriages : (s.muStep f).carriages = s.carriages := by rw [State.muStep_eq]

/-- From BOARD to BOARD the Guard's watch runs on. -/
theorem State.muStep_board (h : s.mu.source = .board) (h' : (f s.mu).source = .board) : s.muStep f = s.updMu f := by
  unfold State.muStep; dsimp only; exact if_pos ⟨h, h'⟩

/-- The whole of what dropping a cut mark changes. -/
theorem State.dropCut_eq : s.dropCut = { s with mu := { s.mu with cut := none } } := rfl

/-- The whole of what leaving a cut mark changes. -/
theorem State.cutPhase_eq : s.cutPhase = { s with mu := { s.mu with cut := s.mu.cutMark s.clock } } := rfl

@[simp] theorem State.cutPhase_clock : s.cutPhase.clock = s.clock := rfl
@[simp] theorem State.cutPhase_phase : s.cutPhase.mu.phase = s.mu.phase := rfl
@[simp] theorem State.dropCut_clock : s.dropCut.clock = s.clock := rfl
@[simp] theorem State.dropCut_cut : s.dropCut.mu.cut = none := rfl

/-- A phase end is stale when the unit's cut mark is that of its phase at this time. -/
theorem MeasUnit.stale_iff {u : MeasUnit} {p : Phase} {n : Nat} : u.stale p n = true ↔ u.cut = some (p, n) := by
  simp [MeasUnit.stale]

/-- With no mark of this time, the phase in hand leaves its own. -/
theorem MeasUnit.cutMark_fresh {u : MeasUnit} {p : Phase} {n : Nat} (hp : u.phase = some p)
    (hc : ∀ q, u.cut ≠ some (q, n)) : u.cutMark n = some (p, n) := by
  unfold MeasUnit.cutMark
  rw [hp]
  refine if_neg fun h => ?_
  match hu : u.cut with
  | none => rw [hu] at h; cases h
  | some (q, m) =>
    rw [hu] at h
    exact hc q (by rw [hu, eq_of_beq (show (m == n) = true from h)])

/-! ## The abandonment of a pair check (R75, R77, R121) -/

variable {p : Pair} {which : Pair → Bool}

@[simp] theorem State.setTip_mu {c : Carriage} {t : Tip} : (s.setTip c t).mu = s.mu := rfl

/-- The unit after an abandoned pair check: free, the path open, the last class and range gone, its cut mark left (R121,
AL 54). -/
theorem State.abandonCheck_mu (ho : s.mu.op = .pairCheck) (hp : s.mu.pair = some p) :
    s.abandonCheck.mu = ({ s.mu with cut := s.mu.cutMark s.clock } : MeasUnit).released.forget := by
  simp [State.abandonCheck, ho, hp, State.cutPhase_eq]

/-- A check of another kind, or none, is left alone. -/
theorem State.dropCheckIf_other (h : ∀ p, s.mu.op = .pairCheck → s.mu.pair = some p → which p = false) :
    s.dropCheckIf which = s := by
  unfold State.dropCheckIf
  split
  · next p ho hp => rw [h p ho hp]; rfl
  · rfl

/-- A check of the kind is abandoned in the unit. -/
theorem State.dropCheckIf_mu (ho : s.mu.op = .pairCheck) (hp : s.mu.pair = some p) (hw : which p = true) :
    (s.dropCheckIf which).mu = ({ s.mu with cut := s.mu.cutMark s.clock } : MeasUnit).released.forget := by
  simp [State.dropCheckIf, ho, hp, hw, State.abandonCheck_mu ho hp]

/-- After it the unit runs no check of the kind. -/
theorem State.dropCheckIf_gone (hp : (s.dropCheckIf which).mu.pair = some p)
    (ho : (s.dropCheckIf which).mu.op = .pairCheck) : which p = false := by
  by_cases h : ∃ q, s.mu.op = .pairCheck ∧ s.mu.pair = some q ∧ which q = true
  · obtain ⟨q, h1, h2, h3⟩ := h
    rw [State.dropCheckIf_mu h1 h2 h3] at ho
    cases ho
  · have hq : ∀ q, s.mu.op = .pairCheck → s.mu.pair = some q → which q = false := fun q h1 h2 => by
      simpa using fun h3 => h ⟨q, h1, h2, h3⟩
    rw [State.dropCheckIf_other hq] at hp ho
    exact hq p ho hp

end Sys2Proof.Machine
end

