-- ==== Sys2Proof/WellFormed.lean ====
section
/-! DEFINITION. Which commands are well formed: the operand lengths and ranges that the layout tables and the chapters
give. A command that is not well formed is one the part's partners cannot give; AL 3 and AL 4 say what the machine does
with it. -/

namespace Sys2Proof

/-- The command codes of the COMMAND register (R189). -/
def commandCodes : List Byte := [1, 2, 3, 4, 5, 6]

/-- The bytes a header read returns: the 16-byte header, with the body for BOARD_BEGIN and BOARD_END (R175, R177). -/
def headerLength (kind : Byte) : Nat :=
  if kind = 0x02 then 56 else if kind = 0x03 then 17 else 16

/-- The check on one command. -/
def Instr.wf : Instr → Bool
  | .commandUnknown code => !commandCodes.contains code
  | .linkFrameDropped (.badDrive n) => n == 0 || 6 < n
  | .precheckEnd codes => codes.length == Config.precheckSamples
  | .countEnd samples => 1 ≤ samples.length && samples.length ≤ 65536
  | .pairCheckCountEnd samples => samples.length == Config.pairSamples
  | .calCountEnd codes => codes.length == Config.calSamples
  | .stationBlockRead bytes => bytes.length == 64
  | .setupRecordRead bytes => bytes.length == 256
  | .headerRead bytes => bytes.length == headerLength (bytes.getD 4 0)
  | .recordRead bytes => bytes.length == 80
  | .start | .stop | .abort | .clearFault | .calibrate | .reset | .wake _ | .stationBaseWrite _ | .intStatusWrite _
  | .intEnableWrite _ | .powerOnReset | .arrived _ _ | .halted _ _ | .touched _ _ | .noTouch _ | .lifted _
  | .position _ _ _ | .driveFault _ _ | .linkFrameDropped .checkFailed | .requestTimeout _ | .forceLineAsserted _
  | .forceLineDrops _ | .filterTimeComplete _ | .limitTime _ | .dummyEnd | .settleEnd | .skipEnd | .chargeThreshold _
  | .timerLimit | .chargeCompliance _ | .dwellEnd | .guardDwellEnd | .comparatorAsserted _ | .comparatorFalls _
  | .deglitchComplete _ | .linkRead _ | .pollExpiry | .drainedRead _ | .entryWritten | .publication
  | .netImageWritten => true

end Sys2Proof
end

