-- ==== Sys2Proof/Laws/PerInstr.lean ====
section
/-! SUPPORT. The statements made per command, one lemma per constructor of Instr. Family `Table`: what the opcode table
and the layout tables say of a command as syntax. -/

namespace Sys2Proof.Laws.Table

set_option Elab.async false

/-- The operands of a command are such as the layout tables and chapters allow: a code that is no command, a drive number
outside 1..6, and the lengths of sample lists and of reads. -/
def operandsFit : Instr → Prop
  | .commandUnknown code => code ∉ commandCodes
  | .linkFrameDropped (.badDrive n) => n = 0 ∨ 6 < n
  | .linkFrameDropped .checkFailed => True
  | .precheckEnd codes => codes.length = 16
  | .countEnd samples => 1 ≤ samples.length ∧ samples.length ≤ 65536
  | .pairCheckCountEnd samples => samples.length = 16
  | .calCountEnd codes => codes.length = 1024
  | .stationBlockRead bytes => bytes.length = 64
  | .setupRecordRead bytes => bytes.length = 256
  | .headerRead bytes => bytes.length = headerLength (bytes.getD 4 0)
  | .recordRead bytes => bytes.length = 80
  | .start | .stop | .abort | .clearFault | .calibrate | .reset | .wake _ | .stationBaseWrite _
    | .intStatusWrite _ | .intEnableWrite _ | .powerOnReset | .arrived _ _ | .halted _ _ | .touched _ _
    | .noTouch _ | .lifted _ | .position _ _ _ | .driveFault _ _ | .requestTimeout _ | .forceLineAsserted _
    | .forceLineDrops _ | .filterTimeComplete _ | .limitTime _ | .dummyEnd | .settleEnd | .skipEnd
    | .chargeThreshold _ | .timerLimit | .chargeCompliance _ | .dwellEnd | .guardDwellEnd | .comparatorAsserted _
    | .comparatorFalls _ | .deglitchComplete _ | .linkRead _ | .pollExpiry | .drainedRead _ | .entryWritten
    | .publication | .netImageWritten => True

/-- No word spells the command, since its row of the table gives no bits; and it is well formed just when its operands
fit. -/
def Statement (i : Instr) : Prop :=
  (∀ nbits w : Nat, decodeTableWord nbits w ≠ some i) ∧ (i.wf = true ↔ operandsFit i)

theorem start : Statement .start := ⟨fun _ _ h => (nomatch h), by simp [Instr.wf, operandsFit]⟩
theorem stop : Statement .stop := ⟨fun _ _ h => (nomatch h), by simp [Instr.wf, operandsFit]⟩
theorem abort : Statement .abort := ⟨fun _ _ h => (nomatch h), by simp [Instr.wf, operandsFit]⟩
theorem clearFault : Statement .clearFault := ⟨fun _ _ h => (nomatch h), by simp [Instr.wf, operandsFit]⟩
theorem calibrate : Statement .calibrate := ⟨fun _ _ h => (nomatch h), by simp [Instr.wf, operandsFit]⟩
theorem reset : Statement .reset := ⟨fun _ _ h => (nomatch h), by simp [Instr.wf, operandsFit]⟩
theorem commandUnknown (code : Byte) : Statement (.commandUnknown code) := by
  refine ⟨fun _ _ h => (nomatch h), ?_⟩
  simp [Instr.wf, operandsFit]
theorem wake (value : Word32) : Statement (.wake value) := ⟨fun _ _ h => (nomatch h), by simp [Instr.wf, operandsFit]⟩
theorem stationBaseWrite (write : StationWrite) : Statement (.stationBaseWrite write) :=
  ⟨fun _ _ h => (nomatch h), by simp [Instr.wf, operandsFit]⟩
theorem intStatusWrite (value : Word32) : Statement (.intStatusWrite value) :=
  ⟨fun _ _ h => (nomatch h), by simp [Instr.wf, operandsFit]⟩
theorem intEnableWrite (value : Word32) : Statement (.intEnableWrite value) :=
  ⟨fun _ _ h => (nomatch h), by simp [Instr.wf, operandsFit]⟩
theorem powerOnReset : Statement .powerOnReset := ⟨fun _ _ h => (nomatch h), by simp [Instr.wf, operandsFit]⟩
theorem arrived (c : Carriage) (at_ : Pos) : Statement (.arrived c at_) :=
  ⟨fun _ _ h => (nomatch h), by simp [Instr.wf, operandsFit]⟩
theorem halted (c : Carriage) (at_ : Pos) : Statement (.halted c at_) :=
  ⟨fun _ _ h => (nomatch h), by simp [Instr.wf, operandsFit]⟩
theorem touched (c : Carriage) (depth : Nat) : Statement (.touched c depth) :=
  ⟨fun _ _ h => (nomatch h), by simp [Instr.wf, operandsFit]⟩
theorem noTouch (c : Carriage) : Statement (.noTouch c) := ⟨fun _ _ h => (nomatch h), by simp [Instr.wf, operandsFit]⟩
theorem lifted (c : Carriage) : Statement (.lifted c) := ⟨fun _ _ h => (nomatch h), by simp [Instr.wf, operandsFit]⟩
theorem position (c : Carriage) (at_ : Pos) (zUp : Bool) : Statement (.position c at_ zUp) :=
  ⟨fun _ _ h => (nomatch h), by simp [Instr.wf, operandsFit]⟩
theorem driveFault (c : Carriage) (code : Byte) : Statement (.driveFault c code) :=
  ⟨fun _ _ h => (nomatch h), by simp [Instr.wf, operandsFit]⟩
theorem linkFrameDropped (why : LinkDrop) : Statement (.linkFrameDropped why) := by
  refine ⟨fun _ _ h => (nomatch h), ?_⟩
  cases why <;> simp [Instr.wf, operandsFit]
theorem requestTimeout (c : Carriage) : Statement (.requestTimeout c) :=
  ⟨fun _ _ h => (nomatch h), by simp [Instr.wf, operandsFit]⟩
theorem forceLineAsserted (c : Carriage) : Statement (.forceLineAsserted c) :=
  ⟨fun _ _ h => (nomatch h), by simp [Instr.wf, operandsFit]⟩
theorem forceLineDrops (c : Carriage) : Statement (.forceLineDrops c) :=
  ⟨fun _ _ h => (nomatch h), by simp [Instr.wf, operandsFit]⟩
theorem filterTimeComplete (c : Carriage) : Statement (.filterTimeComplete c) :=
  ⟨fun _ _ h => (nomatch h), by simp [Instr.wf, operandsFit]⟩
theorem limitTime (c : Carriage) : Statement (.limitTime c) :=
  ⟨fun _ _ h => (nomatch h), by simp [Instr.wf, operandsFit]⟩
theorem precheckEnd (codes : List Code) : Statement (.precheckEnd codes) := by
  refine ⟨fun _ _ h => (nomatch h), ?_⟩
  simp [Instr.wf, operandsFit, Config.precheckSamples]
theorem dummyEnd : Statement .dummyEnd := ⟨fun _ _ h => (nomatch h), by simp [Instr.wf, operandsFit]⟩
theorem settleEnd : Statement .settleEnd := ⟨fun _ _ h => (nomatch h), by simp [Instr.wf, operandsFit]⟩
theorem skipEnd : Statement .skipEnd := ⟨fun _ _ h => (nomatch h), by simp [Instr.wf, operandsFit]⟩
theorem countEnd (samples : List Sample) : Statement (.countEnd samples) := by
  refine ⟨fun _ _ h => (nomatch h), ?_⟩
  simp [Instr.wf, operandsFit]
theorem pairCheckCountEnd (samples : List Sample) : Statement (.pairCheckCountEnd samples) := by
  refine ⟨fun _ _ h => (nomatch h), ?_⟩
  simp [Instr.wf, operandsFit, Config.pairSamples]
theorem chargeThreshold (ticks : Ticks) : Statement (.chargeThreshold ticks) :=
  ⟨fun _ _ h => (nomatch h), by simp [Instr.wf, operandsFit]⟩
theorem timerLimit : Statement .timerLimit := ⟨fun _ _ h => (nomatch h), by simp [Instr.wf, operandsFit]⟩
theorem chargeCompliance (ticks : Ticks) : Statement (.chargeCompliance ticks) :=
  ⟨fun _ _ h => (nomatch h), by simp [Instr.wf, operandsFit]⟩
theorem dwellEnd : Statement .dwellEnd := ⟨fun _ _ h => (nomatch h), by simp [Instr.wf, operandsFit]⟩
theorem guardDwellEnd : Statement .guardDwellEnd := ⟨fun _ _ h => (nomatch h), by simp [Instr.wf, operandsFit]⟩
theorem calCountEnd (codes : List Code) : Statement (.calCountEnd codes) := by
  refine ⟨fun _ _ h => (nomatch h), ?_⟩
  simp [Instr.wf, operandsFit, Config.calSamples]
theorem comparatorAsserted (which : Comparator) : Statement (.comparatorAsserted which) :=
  ⟨fun _ _ h => (nomatch h), by simp [Instr.wf, operandsFit]⟩
theorem comparatorFalls (which : Comparator) : Statement (.comparatorFalls which) :=
  ⟨fun _ _ h => (nomatch h), by simp [Instr.wf, operandsFit]⟩
theorem deglitchComplete (which : Comparator) : Statement (.deglitchComplete which) :=
  ⟨fun _ _ h => (nomatch h), by simp [Instr.wf, operandsFit]⟩
theorem stationBlockRead (bytes : List Byte) : Statement (.stationBlockRead bytes) := by
  refine ⟨fun _ _ h => (nomatch h), ?_⟩
  simp [Instr.wf, operandsFit]
theorem setupRecordRead (bytes : List Byte) : Statement (.setupRecordRead bytes) := by
  refine ⟨fun _ _ h => (nomatch h), ?_⟩
  simp [Instr.wf, operandsFit]
theorem headerRead (bytes : List Byte) : Statement (.headerRead bytes) := by
  refine ⟨fun _ _ h => (nomatch h), ?_⟩
  simp [Instr.wf, operandsFit]
theorem recordRead (bytes : List Byte) : Statement (.recordRead bytes) := by
  refine ⟨fun _ _ h => (nomatch h), ?_⟩
  simp [Instr.wf, operandsFit]
theorem linkRead (link : Word64) : Statement (.linkRead link) :=
  ⟨fun _ _ h => (nomatch h), by simp [Instr.wf, operandsFit]⟩
theorem pollExpiry : Statement .pollExpiry := ⟨fun _ _ h => (nomatch h), by simp [Instr.wf, operandsFit]⟩
theorem drainedRead (count : Word32) : Statement (.drainedRead count) :=
  ⟨fun _ _ h => (nomatch h), by simp [Instr.wf, operandsFit]⟩
theorem entryWritten : Statement .entryWritten := ⟨fun _ _ h => (nomatch h), by simp [Instr.wf, operandsFit]⟩
theorem publication : Statement .publication := ⟨fun _ _ h => (nomatch h), by simp [Instr.wf, operandsFit]⟩
theorem netImageWritten : Statement .netImageWritten := ⟨fun _ _ h => (nomatch h), by simp [Instr.wf, operandsFit]⟩

end Sys2Proof.Laws.Table
end

