-- ==== Sys2Proof/Tests/Slice0.lean ====
section
/-! SUPPORT. The model's own tests: an ill-formed command for each check of WellFormed, one or two steps on small states
for each command, and for every statement with hypotheses a named witness `witness_<statement>` that meets them. Expected
values are the manual's own worked values where a rule is named, else worked by hand from the rule. -/

namespace Sys2Proof.Tests

set_option Elab.async false

open Sys2Proof.Machine

/-! ## A small machine -/

/-- The state a command leads to. -/
def after (i : Instr) (s : State) : State :=
  match exec i s with
  | .next t => t
  | .fault _ | .refused _ => s

/-- Four carriages, T1, T2, B1 and B2, on fields of 100 lanes of 5,000 µm, with guard 2 and no tip offset. -/
def rigSetup : Setup :=
  let c : CarriageSetup := ⟨true, 0, 50000, 0, 2, .force, 0, 1000, 500⟩
  { State.reset.setup with
    laneFactor := 20, moveMs := 800, descendMs := 150, liftMs := 100, zLimit := 1500, reland := 2, scrub := 150
    filter0 := 20, contactLimit := 2000000, dwell := 50, residualLimit := 1000, residualMode := .report
    overloadMode := .retry, fields := .both ⟨0, 500000⟩
    carriages := ⟨c, c, { c with enabled := false }, { c with enabled := false }, c, c⟩ }

/-- A carriage at rest in a lane of the rig. -/
def resting (lane : Nat) : CarriageRec :=
  { CarriageRec.reset with state := .idle, position := some ⟨5000 * lane + 2500, 0⟩, probeUp := true }

/-- The machine RUNNING, T1 and B1 in lane 10, T2 and B2 in lane 30, each owning its span. -/
def rig : State :=
  let t : ClaimTable := ⟨paint ⟨28, 32⟩ (some .t2) (paint ⟨8, 12⟩ (some .t1) (List.replicate 128 none)), []⟩
  let b : ClaimTable := ⟨paint ⟨28, 32⟩ (some .b2) (paint ⟨8, 12⟩ (some .b1) (List.replicate 128 none)), []⟩
  { State.reset with
    run := { State.reset.run with state := .running, mirror := true }
    regs := ⟨0x5000, 0, 0x3F⟩
    setup := rigSetup
    claims := ⟨t, b⟩
    carriages := ⟨resting 10, resting 30, .reset, .reset, resting 10, resting 30⟩
    mu := { MeasUnit.powerOn with calOrder := false, z := ⟨0, 0, 0, 0, 0⟩, zAge := 3 }
    log := { State.reset.log with started := true, capacity := 64, base := 0x100000 } }

/-- The rig in a controller state. -/
def rigIn (q : RunState) : State := { rig with run := { rig.run with state := q } }

/-- The rig with a changed carriage record. -/
def rigWith (c : Carriage) (f : CarriageRec → CarriageRec) : State := rig.modCarr c f

/-- T1 in a state, with a request outstanding and its timer running. -/
def waits (c : Carriage) (st : CarriageState) (k : RequestKind) : State :=
  rigWith c fun r => { r with state := st, request := some ⟨k, false⟩, timer := some 100 }

/-- A two-probe step of a kind, from T1's lane to T2's, with n = 16. -/
def copyOf (k : Kind) : StepCopy where
  tag := 7
  kindCode := 1
  kind := k
  autorange := false
  barrier := false
  skipIfNetFailed := false
  loPresent := false
  hiPresent := false
  retest := 1
  range := 3
  gainRead := 1
  gainInit := 1
  gainMin := 0
  gainMax := 4
  window := 16
  extension := 0
  skip := 0
  settle := 10
  threshold := 1000
  lo := 0
  hi := 0
  points := [⟨.top, .hi, 3, ⟨52500, 0⟩⟩, ⟨.top, .lo, 4, ⟨152500, 0⟩⟩]
  seq := 9
  offsets := .both ⟨0, 0⟩
  netCount := 40
  clamped := false

/-- The step of a copy in slot 0, on T1 and T2. -/
def entryOf (k : StepCopy) (st : DispatchState) : Entry where
  slot := 0
  copy := k
  state := st
  overtake := 0
  assignment := [some .t1, some .t2]
  lastCarriages := [some .t1, some .t2]
  yields := []
  arrived := [true, true]
  ready := [true, true]
  attempts := 0
  dispatchTime := some 0
  fallback := false
  outcome := none
  retestHeld := false
  eval := none

/-- The rig with one step in the window, its two carriages in a state. -/
def serving (e : Entry) (st : CarriageState) : State :=
  let f (role : Role) (r : CarriageRec) : CarriageRec := { r with state := st, service := some ⟨0, role⟩, probeUp := false }
  { ((rig.modCarr .t1 (f .hi)).modCarr .t2 (f .lo)) with disp := { State.reset.disp with window := [e] } }

/-- The rig with that step's measurement in a phase, at a gain, no transition owed. -/
def measuring (e : Entry) (ph : Phase) (gain : Nat) : State :=
  let s := serving { e with state := .measuring } .engaged
  { s with mu := { s.mu with
      op := .measurement, phase := some ph, step := some 0, cls := .twoWire, source := .board, range := some e.copy.range
      gain := gain, convGain := gain, lastClass := some .twoWire, lastRange := some e.copy.range } }

/-- T1 and T2 in CHECK, partners of an electrical landing each, their pair check in COUNT. -/
def checking : State :=
  let l (role : Role) (p : Carriage) : Landing := ⟨0, role, some p, 1, .electrical, .notUsed, .running, false⟩
  let k := { copyOf .res4 with points := [⟨.top, .forceHi, 3, ⟨52500, 0⟩⟩, ⟨.top, .senseHi, 3, ⟨152500, 0⟩⟩] }
  let s := serving { entryOf k .landing with ready := [false, false] } .check
  { s with
    qual := { s.qual with landings := { s.qual.landings with t1 := some (l .forceHi .t2), t2 := some (l .senseHi .t1) } }
    mu := { s.mu with
      op := .pairCheck, phase := some .count, pair := some ⟨0, .t1, .t2⟩, cls := .twoWire, source := .board, range := some 3
      gain := 1 } }

/-- That check under way for T1 alone, under scrub index `i` of three relands, its point at y 500,000 so that position 2 is
out of field; T2 has landed again with a fresh FORCE record. -/
def relanded (i : Nat) : State :=
  let s := checking.modEntry 0 fun e =>
    { e with copy := { e.copy with points := [⟨.top, .forceHi, 3, ⟨52500, 500000⟩⟩, ⟨.top, .senseHi, 3, ⟨152500, 0⟩⟩] } }
  ((s.updSetup fun t => { t with reland := 3 }).modCarr .t1 fun r => { r with scrubIndex := i }).setLanding .t2
    (some ⟨0, .senseHi, some .t1, 1, .force, .watching none 300, .notUsed, false⟩)

/-- T1 in CHECK with a landing record of method FORCE, in a force progress. -/
def landed (f : ForceProgress) : State :=
  let s := serving { entryOf (copyOf .res2) .landing with ready := [false, true] } .check
  { s with qual := { s.qual with landings := { s.qual.landings with t1 := some ⟨0, .hi, none, 1, .force, f, .notUsed, false⟩ } } }

/-- A calibration in COUNT at a gain, with the offsets formed before it. -/
def calibrating (gain : Nat) (z : List Int) : State :=
  { rigIn .powerupCal with mu := { rig.mu with op := .calibration, phase := some .count, gain := gain, newZ := z
                                               newClamped := z.map fun _ => false } }

/-- Samples of one code and then zeros, n in all. -/
def samples (n : Nat) (a : Code) : List Sample := ⟨a, false⟩ :: List.replicate (n - 1) ⟨0, false⟩

/-- The outcome of slot 0. -/
def outcome0 (s : State) : Option Outcome := (s.entry 0).bind (·.outcome)

/-- The rig with an entry write in a stage, its step of slot 0 HELD. -/
def writingIn (k : EntryKind) (stage : WriteStage) : State :=
  let o : Outcome := ⟨.pass, .none, 5, false, false, false, false, false, false, 1, 3, 1, [some .t1, some .t2], 9⟩
  { rig with
    disp := { rig.disp with window := [{ entryOf (copyOf .res2) .held with outcome := some o, assignment := [none, none] }] }
    log := { rig.log with writing := some ⟨k, List.replicate 32 0xA5, stage⟩ } }

/-- The rig with a fetch read in progress at a position. -/
def fetching (k : ReadKind) (ph : FetchPhase) : State :=
  { rig with fetch := { rig.fetch with
      reading := some ⟨k, false, false⟩, pos := some ⟨0x1000, 4, .steps, 2, ph⟩, retire := [⟨4, .steps, false, 2⟩] } }

/-! ## Well-formed commands -/

theorem smoke_commandUnknown : (Instr.commandUnknown 1).wf = false ∧ (Instr.commandUnknown 7).wf = true := by decide
theorem smoke_linkFrameDropped :
    (Instr.linkFrameDropped (.badDrive 6)).wf = false ∧ (Instr.linkFrameDropped (.badDrive 7)).wf = true := by decide
theorem smoke_precheckEnd : (Instr.precheckEnd (List.replicate 15 0)).wf = false := by decide +kernel
theorem smoke_countEnd : (Instr.countEnd []).wf = false := by decide
theorem smoke_pairCheckCountEnd : (Instr.pairCheckCountEnd (samples 17 0)).wf = false := by decide +kernel
theorem smoke_calCountEnd : (Instr.calCountEnd [0]).wf = false := by decide +kernel
theorem smoke_stationBlockRead : (Instr.stationBlockRead (List.replicate 63 0)).wf = false := by decide +kernel
theorem smoke_setupRecordRead : (Instr.setupRecordRead []).wf = false := by decide +kernel
theorem smoke_headerRead : (Instr.headerRead [0, 0, 0, 0, 2]).wf = false := by decide +kernel
theorem smoke_recordRead : (Instr.recordRead (List.replicate 81 0)).wf = false := by decide +kernel
theorem smoke_well_formed : Instr.start.wf = true ∧ (Instr.recordRead (List.replicate 80 0)).wf = true := by
  decide +kernel

/-! ## The host's commands and registers -/

theorem test_start : (after .start (rigIn .idle)).run.state = .starting ∧
    (after .start (rigIn .idle)).run.stage = some .stationBlock := by decide +kernel
theorem test_start_ignored : (after .start rig).run.last = .ignored := by decide +kernel
theorem test_stop : (after .stop rig).run.state = .stopped ∨ (after .stop rig).run.state = .draining := by decide +kernel
theorem test_stop_parks : (after .stop rig).run.runPark = .both .issued := by decide +kernel
theorem test_abort : (after .abort rig).run.state = .aborting ∧ (after .abort rig).disp.window = [] := by decide +kernel
theorem test_clearFault : (after .clearFault (rigIn .halted)).run.state = .stopped ∧
    (after .clearFault (rigIn .halted)).regs.intStatus = 16 := by decide +kernel
theorem test_calibrate : (after .calibrate (rigIn .idle)).run.state = .calibrating ∧
    (after .calibrate (rigIn .idle)).mu.op = .calibration := by decide +kernel
theorem test_reset : (after .reset rig).run.state = .idle ∧ (after .reset rig).mu.zAge = 3 ∧
    (after .reset rig).claimOf .t1 = none := by decide +kernel
theorem test_commandUnknown : (after (.commandUnknown 9) rig).run.last = .ignored := by decide +kernel
theorem test_wake : (after (.wake 1) rig).log.reading = true := by decide +kernel
theorem test_stationBaseWrite : (after (.stationBaseWrite (.high 2)) (rigIn .idle)).regs.stationBase = 0x200005000 ∧
    (after (.stationBaseWrite (.high 2)) rig).regs.stationBase = 0x5000 := by decide +kernel
theorem test_intStatusWrite :
    (after (.intStatusWrite 0x12) { rig with regs := ⟨0, 0x3F, 0⟩ }).regs.intStatus = 0x2D := by decide +kernel
theorem test_intEnableWrite : (after (.intEnableWrite 0xFFFFFFC5) rig).regs.intEnable = 5 := by decide +kernel
theorem test_powerOnReset : (after .powerOnReset rig).mu.zAge = 65535 ∧ (after .powerOnReset rig).run.state = .powerupCal ∧
    (after .powerOnReset rig).regs.stationBase = 0 := by decide +kernel
theorem test_step_idles : step rig = .next { rig with clock := 1 } := by rfl
theorem test_step_takes_front : step { rig with pending := [.intEnableWrite 1, .stop] } =
    .next { rig with pending := [.stop], regs := ⟨0x5000, 0, 1⟩ } := by rfl
theorem test_no_row_gives_bits : decodeTableWord 16 0 = none ∧ rig.withFetchWord 16 0 = rig := by decide +kernel

/-! ## The axis link -/

/-- T1 travelling to lane 14 with the sweep 8..16 owned. -/
def moving (p : Purpose) : State :=
  let s := (waits .t1 .travel .move).modCarr .t1 fun r =>
    { r with phase := some .moving, purpose := some p, target := some ⟨72500, 40⟩ }
  s.modTable .top fun t => { t with cells := paint ⟨8, 16⟩ (some .t1) t.cells }

theorem test_arrived_step : ((after (.arrived .t1 ⟨72500, 40⟩) (moving .step)).carr .t1).state = .descend ∧
    (after (.arrived .t1 ⟨72500, 40⟩) (moving .step)).claimOf .t1 = some ⟨12, 16⟩ := by decide +kernel
theorem test_arrived_outside : ((after (.arrived .t1 ⟨90000, 0⟩) (moving .park)).carr .t1).state = .fault ∧
    (after (.arrived .t1 ⟨90000, 0⟩) (moving .park)).claimOf .t1 = some ⟨8, 16⟩ := by decide +kernel

/-- The same travel with HALT sent over it. -/
def halting : State := (moving .step).modCarr .t1 fun r => { r with request := some ⟨.halt, true⟩, phase := some .halting }

theorem test_halted : ((after (.halted .t1 ⟨62500, 7⟩) halting).carr .t1).position = some ⟨62500, 7⟩ ∧
    (after (.halted .t1 ⟨62500, 7⟩) halting).claimOf .t1 = some ⟨10, 14⟩ := by decide +kernel
theorem test_arrived_superseded : ((after (.arrived .t1 ⟨72500, 40⟩) halting).carr .t1).request = some ⟨.halt, false⟩ ∧
    (after (.arrived .t1 ⟨72500, 40⟩) halting).claimOf .t1 = some ⟨8, 16⟩ := by decide +kernel

/-- T1 in DESCEND for its point of the step in slot 0. -/
def descending : State :=
  (serving { entryOf (copyOf .res2) .landing with ready := [false, false] } .ready).modCarr .t1 fun r =>
    { r with state := .descend, request := some ⟨.descend, false⟩, timer := some 150 }

theorem test_touched : ((after (.touched .t1 1500) descending).carr .t1).state = .check ∧
    ((after (.touched .t1 1500) descending).landing .t1).map (·.force) = some (.watching none 200) := by decide +kernel
theorem test_touched_too_deep : ((after (.touched .t1 1501) descending).carr .t1).state = .lift := by decide +kernel
/-- R73: the next scrub position; the only scrub position is out of field, so its FIELD failure spends the index and the step ends FIELD. -/
theorem test_noTouch : let s := (descending.updSetup fun t => { t with reland := 1 }).modEntry 0 fun e =>
      { e with copy := { e.copy with points := [⟨.top, .hi, 3, ⟨499950, 0⟩⟩, ⟨.top, .lo, 4, ⟨152500, 0⟩⟩] } }
    ((after (.noTouch .t1) descending).carr .t1).followOn = some (.landAt ⟨52650, 0⟩ .scrub) ∧
    ((after (.noTouch .t1) s).carr .t1).scrubIndex = 1 ∧
    (outcome0 (after (.noTouch .t1) s)).map (·.cause) = some (.landing .field) := by decide +kernel
/-- The pair check under way with both partners out of CHECK by failed landings of their own: T1 in a state that awaits a
response, its relands spent or not, T2 lifting for its reland. -/
def outOfCheck (st : CarriageState) (k : RequestKind) (i : Nat) : State :=
  ((((checking.setLanding .t1 none).setLanding .t2 none).setCarr .t1 st).setCarr .t2 .lift).modCarr .t1 fun r =>
    { r with request := some ⟨k, false⟩, timer := some 100, scrubIndex := i
             followOn := if st = .lift then some (.landAt ⟨155000, 0⟩ .scrub) else none }

/-- R75: NOCONTACT abandons the running check of its step, both partners out of CHECK, that of the other partner pair too;
R72: a failed landing that leaves a reland does not, nor does the ending of another step. -/
theorem test_noTouch_runningCheck : let s := outOfCheck .descend .descend
    let f (s : State) := let t := after (.noTouch .t1) s; (t.mu.op, t.mu.source, (outcome0 t).map (·.verdict))
    f (s 2) = (.idle, .off, some .nocontact) ∧ f (s 1) = (.pairCheck, .board, none) ∧
    f ((s 2).updMu fun u => { u with pair := some ⟨1, .t1, .t2⟩ }) = (.pairCheck, .board, some .nocontact) ∧
    f (((s 2).updMu fun u => { u with pair := some ⟨0, .b1, .b2⟩ }).modEntry 0 fun e => { e with
      assignment := e.assignment ++ [some .b1, some .b2]
      copy := { e.copy with
        points := e.copy.points ++ [⟨.bottom, .forceLo, 3, ⟨52500, 0⟩⟩, ⟨.bottom, .senseLo, 3, ⟨152500, 0⟩⟩] } }) =
      (.idle, .off, some .nocontact) := by decide +kernel
theorem test_lifted : ((after (.lifted .t1) (waits .t1 .lift .lift)).carr .t1).state = .idle := by decide +kernel
theorem test_position :
    (after (.position .t1 ⟨1, 2⟩ false) (waits .t1 .homing .query)).linkOut = [(.t1, .lift)] := by decide +kernel
/-- R46: an expiry taken after the response that stopped its timer is no fault, though LIFT's timer runs. -/
theorem test_requestTimeout_stale : ((after (.requestTimeout .t1)
    (after (.position .t1 ⟨1, 2⟩ false) (waits .t1 .homing .query))).carr .t1).state = .homing := by decide +kernel
theorem test_driveFault : ((after (.driveFault .t1 9) rig).carr .t1).state = .fault ∧
    (after (.driveFault .t1 9) rig).claimOf .t1 = some ⟨8, 12⟩ := by decide +kernel
theorem test_driveFault_late : ((after (.driveFault .t3 9) rig).carr .t3).state = .off ∧
    (after (.driveFault .t3 9) rig).log.writing = none := by decide +kernel
theorem test_linkFrameDropped : after (.linkFrameDropped .checkFailed) rig = rig := by decide +kernel
theorem test_requestTimeout :
    ((after (.requestTimeout .t1) (waits .t1 .lift .lift)).carr .t1).state = .fault := by decide +kernel

/-! ## Contact -/

theorem test_forceLineAsserted : ((after (.forceLineAsserted .t1) (landed (.watching none 200))).landing .t1).map (·.force) =
    some (.watching (some 0) 200) := by decide +kernel
theorem test_forceLineDrops : ((after (.forceLineDrops .t1) (landed (.watching (some 3) 200))).landing .t1).map (·.force) =
    some (.watching none 200) := by decide +kernel
theorem test_filterTimeComplete :
    (after (.filterTimeComplete .t1) (landed (.watching (some 3) 200))).mu.step = some 0 := by decide +kernel
theorem test_limitTime : ((after (.limitTime .t1) (landed (.watching none 200))).carr .t1).state = .lift := by decide +kernel

/-! ## Measurement -/

/-- R132's note: VOLT at gain 2 with n = 25 and A = −4 gives −3 µV. -/
def volt25 : State := measuring (entryOf { copyOf .volt with window := 25 } .measuring) .count 2

theorem test_countEnd_volt : (outcome0 (after (.countEnd (samples 25 (-4))) volt25)).map (·.value) = some (-3) := by
  decide +kernel

/-- The DIODE case of 7.10: 64 samples of 12,992 at gain 1 are A = 831,488, 812,000 µV, HIGH above 750,000. -/
def diode64 : State :=
  measuring (entryOf { copyOf .diode with window := 64, loPresent := true, hiPresent := true, lo := 550000, hi := 750000
                                          retest := 0 } .measuring) .count 1

theorem test_countEnd_diode :
    (outcome0 (after (.countEnd (List.replicate 64 ⟨12992, false⟩)) diode64)).map (fun o => (o.value, o.verdict)) =
      some (812000, .high) := by decide +kernel

/-- The CAP case of 7.8: range 1, 1,000 mV, strays of 1,500 fF, 2,000 ticks: 97,000 fF. -/
def cap2000 : State :=
  (measuring (entryOf { copyOf .cap with range := 1, autorange := true } .measuring) .charge 0).updSetup fun t =>
    { t with carriages := { t.carriages with
        t1 := { t.carriages.t1 with stray := 1500 }, t2 := { t.carriages.t2 with stray := 1500 } } }

theorem test_chargeThreshold :
    (outcome0 (after (.chargeThreshold 2000) cap2000)).map (fun o => (o.value, o.range, o.ranged)) =
      some (97000, 1, false) := by decide +kernel
theorem test_timerLimit_ranges : (after .timerLimit cap2000).mu.dwellNext = .repeatAt 2 := by decide +kernel
theorem test_chargeCompliance :
    (outcome0 (after (.chargeCompliance 5) cap2000)).map (fun o => (o.value, o.clipped)) = some (838860750, true) := by
  decide +kernel

/-- A pair check: A = 832 reads 3,250,000 µΩ and A = 320 reads 1,250,000 µΩ, against a limit of 2,000,000 (4.9). -/
theorem test_pairCheckCountEnd_fails :
    ((after (.pairCheckCountEnd (samples 16 832)) checking).carr .t1).state = .lift ∧
    ((after (.pairCheckCountEnd (List.replicate 16 ⟨0, true⟩)) (relanded 0)).landing .t2).map (·.elec) = some .notUsed ∧
    ((after (.pairCheckCountEnd (List.replicate 16 ⟨0, true⟩)) (relanded 1)).landing .t2).map (·.elec) =
      some .waitingPartner := by decide +kernel
theorem test_pairCheckCountEnd_passes :
    ((after (.pairCheckCountEnd (samples 16 320)) checking).carr .t1).state = .engaged := by decide +kernel

/-- The pre-check's mean is A × 125 µV: 16 codes of 500 are at the limit of 1,000 mV, one code more is above. -/
theorem test_precheckEnd_limit : let s := measuring (entryOf (copyOf .res2) .measuring) .precheck 0
    (after (.precheckEnd (List.replicate 16 500)) s).mu.phase = some .settle ∧
    (outcome0 (after (.precheckEnd (501 :: List.replicate 15 500)) s)).map (·.cause) = some .guard := by decide +kernel
/-- R119: a pre-check in progress is not ended by the PRECHECK_END of one abandoned in the same microsecond. -/
theorem test_precheckEnd_crossed : let s := measuring (entryOf (copyOf .res2) .measuring) .precheck 0
    (after (.precheckEnd (List.replicate 16 500)) (s.updMu fun u => { u with cut := some (.precheck, 0) })).mu = s.mu := by
  decide +kernel
theorem test_dummyEnd : (after .dummyEnd (measuring (entryOf (copyOf .res2) .measuring) .dummy 1)).mu.phase =
    some .settle := by decide +kernel
theorem test_settleEnd : (after .settleEnd (measuring (entryOf { copyOf .res2 with skip := 3 } .measuring) .settle 1)).mu.phase =
    some .skip := by decide +kernel
theorem test_skipEnd : (after .skipEnd (measuring (entryOf (copyOf .res2) .measuring) .skip 1)).mu.phase = some .count := by
  decide +kernel
theorem test_dwellEnd : ((after .dwellEnd (measuring (entryOf (copyOf .iso) .measuring) .dwell 1)).carr .t2).state = .lift ∧
    (after .dwellEnd (measuring (entryOf (copyOf .iso) .measuring) .dwell 1)).mu.cls = .opened := by decide +kernel
theorem test_guardDwellEnd : (after .guardDwellEnd (measuring (entryOf (copyOf .res2) .measuring) .guardDwell 1)).mu.phase =
    some .precheck := by decide +kernel

/-- The calibration of 6.9: the fifth mean, 2,150,000 / 1,024, is kept at 2,047, and cal_range is set. -/
theorem test_calCountEnd : (after (.calCountEnd (List.replicate 647 2100 ++ List.replicate 377 2099))
    (calibrating 4 [-2, 5, 20, 82])).mu.z = ⟨-2, 5, 20, 82, 2047⟩ := by decide +kernel
theorem test_calCountEnd_half : (after (.calCountEnd (List.replicate 512 (-2) ++ List.replicate 512 (-1)))
    (calibrating 0 [])).mu.newZ = [-2] := by decide +kernel

/-! ## The Source Guard -/

theorem test_comparatorAsserted : (after (.comparatorAsserted .sense)
    (measuring (entryOf (copyOf .res2) .measuring) .settle 1)).guard.senseTimer = some 0 := by decide +kernel
theorem test_comparatorFalls : (after (.comparatorFalls .source)
    { rig with guard := { rig.guard with sourceTimer := some 0 } }).guard.sourceTimer = none := by decide +kernel

/-- The rig's measurement with an overload held for the deglitch time. -/
def overloaded : State :=
  let s := measuring (entryOf (copyOf .res2) .measuring) .count 1
  { s with guard := { s.guard with senseTimer := some 0 }, pins := { s.pins with sense := true } }

theorem test_deglitchComplete : (after (.deglitchComplete .sense) overloaded).mu.phase = some .guardDwell ∧
    (after (.deglitchComplete .sense) overloaded).guard.retries = 1 := by decide +kernel

/-- R148: with both comparators timing, the source's completion answered RETRY leaves the sense completion that comes with it
without effect. -/
theorem test_deglitchComplete_together : let s := overloaded.updGuard fun g => { g with sourceTimer := some 0 }
    (after (.deglitchComplete .source) s).guard.senseCut = some s.clock ∧
    (after (.deglitchComplete .source) s).guard.sourceOver = true := by decide +kernel

/-! ## Host memory -/

theorem test_stationBlockRead :
    ((after (.stationBlockRead (leBytes 8 0x1007 ++ leBytes 8 0x6000 ++ leBytes 8 0x10001F ++ leBytes 40 5))
      { rigIn .starting with run := { rig.run with state := .starting, stage := some .stationBlock } }).run.held) =
      some ⟨0x1000, 0x6000, 0x100000, 64, 1, 0⟩ := by decide +kernel

/-- START waiting for its setup record. -/
def awaitingSetup : State := { rig with run := { rig.run with state := .starting, stage := some .setupRecord, ret := some .idle } }

/-- A setup record of two fields of 128 lanes of 5,000 µm, with no carriage enabled. -/
def setupBytes : List Byte :=
  [20, 0] ++ List.replicate 30 0 ++ leBytes 4 10000 ++ leBytes 4 650000 ++ leBytes 4 10000 ++ leBytes 4 650000 ++
    List.replicate 208 0

theorem test_setupRecordRead_refused : (after (.setupRecordRead (List.replicate 256 0)) awaitingSetup).run.last = .refused ∧
    (after (.setupRecordRead (List.replicate 256 0)) awaitingSetup).run.state = .idle := by decide +kernel
theorem test_setupRecordRead_taken : (after (.setupRecordRead setupBytes) awaitingSetup).setup.laneFactor = 20 ∧
    (parseSetup setupBytes).fieldLanes .top = 128 := by decide +kernel

/-- A STEPS header of sequence 4 with two records. -/
def header4 : List Byte := leBytes 4 4 ++ [1, 2] ++ List.replicate 10 0

theorem test_headerRead_no_frame : (after (.headerRead header4) (fetching .header .header)).fetch.broken = true ∧
    (after (.headerRead header4) (fetching .header .header)).regs.intStatus.getLsbD 3 = true := by decide +kernel
theorem test_headerRead : (after (.headerRead header4)
    { fetching .header .header with frame := { State.reset.frame with state := .opened } }).fetch.expected = some 5 := by
  decide +kernel

/-- The record of RES2 with the probe count of a four-probe kind. -/
theorem test_recordRead_bad_step : (outcome0 (after (.recordRead (leBytes 4 7 ++ [1, 4] ++ List.replicate 74 0))
    (fetching .record (.records 0)))).map (fun o => (o.verdict, o.cause, o.value)) = some (.error, .badStep, 512) := by
  decide +kernel
theorem test_linkRead : (after (.linkRead 0x2003) (fetching .link .link)).fetch.pos = some ⟨0x2000, 0, .steps, 0, .header⟩ ∧
    (after (.linkRead 7) (fetching .link .link)).fetch.waiting = true := by decide +kernel
theorem test_pollExpiry : (after .pollExpiry
    { rig with fetch := { rig.fetch with pollOn := true }, log := { rig.log with room := .roomWait } }).log.reading = true := by
  decide +kernel
theorem test_drainedRead : (after (.drainedRead 9)
    { rig with log := { rig.log with reading := true, published := 6 } }).log.drained = 6 := by decide +kernel
theorem test_entryWritten : (after .entryWritten (writingIn (.result 0) .bytes)).frame.counts.pass = 1 ∧
    (after .entryWritten (writingIn (.result 0) .bytes)).hostByte 0x10001F = some 0xA5 := by decide +kernel
theorem test_publication : (after .publication (writingIn (.result 0) .publish)).disp.window = [] ∧
    (after .publication (writingIn (.result 0) .publish)).hostByte 0x5024 = some 1 := by decide +kernel

/-- The net image byte of a FAIL net with 100 failures is 0xFE (R168). -/
def imaging : State :=
  { rig with
    nets := ⟨[(1, ⟨.fail, 100, some 7⟩)], 2⟩
    frame := { State.reset.frame with state := .closing, reason := some .boardEnd, imageAddr := 0x9000, imageBusy := true } }

theorem test_netImageWritten : (after .netImageWritten imaging).hostByte 0x9001 = some 0xFE ∧
    (after .netImageWritten imaging).hostByte 0x9000 = some 0 := by decide +kernel

/-! ## Worked values -/

theorem test_clip_values : clipValue .iso 0 0 1 .positive = 40000000000000 ∧ clipValue .res4 5 4 1 .positive = 320000 := by
  decide
theorem test_res4_value : resistanceValue 1024000 400 5 4 0 = 25000 := by decide +kernel
theorem test_res2_value : resistanceValue 150012 100 2 0 400000 = 30002000000 := by decide +kernel

/-! ## Witnesses: for each statement with hypotheses, values that meet them together -/

/-- The answer is a next state. -/
def answersNext : Host.Outcome State Fault Refusal → Bool
  | .next _ => true
  | .fault _ | .refused _ => false

theorem next_of_answersNext {o : Host.Outcome State Fault Refusal} (h : answersNext o = true) : ∃ t, o = .next t := by
  cases o with
  | next t => exact ⟨t, rfl⟩
  | fault f => exact absurd h (by simp [answersNext])
  | refused r => exact absurd h (by simp [answersNext])

/-- A table on which two carriages of its side own one interval each, in index order, is lawful. -/
theorem lawful_of_two {d : Side} {t : ClaimTable} {x y : Carriage} {a b u v : Nat} (hl : t.cells.length = 128)
    (hc : ∀ k < 128, t.cells[k]? = some (if a ≤ k ∧ k ≤ b then some x else if u ≤ k ∧ k ≤ v then some y else none))
    (hx : sideOf x = d) (hy : sideOf y = d) (hxy : driveNumber x < driveNumber y) (hbu : b < u)
    (once : (t.pend.map (·.carriage)).Nodup)
    (covers : ∀ e ∈ t.pend, sideOf e.carriage = d ∧
      ∃ k, claimFrom e.carriage 0 t.cells = some k ∧ e.span.lo ≤ k.lo ∧ k.hi ≤ e.span.hi) : t.Lawful d := by
  have key : ∀ (k : Nat) (c : Carriage), t.cells[k]? = some (some c) →
      k < 128 ∧ ((c = x ∧ a ≤ k ∧ k ≤ b) ∨ (c = y ∧ u ≤ k ∧ k ≤ v ∧ ¬ (a ≤ k ∧ k ≤ b))) := by
    intro k c h
    have hk : k < 128 := by
      rw [← hl]
      exact (List.getElem?_eq_some_iff.mp h).1
    refine ⟨hk, ?_⟩
    rw [hc k hk] at h
    split at h
    · next q => simp at h; exact .inl ⟨h.symm, q⟩
    · next q =>
      split at h
      · next r => simp at h; exact .inr ⟨h.symm, r.1, r.2, q⟩
      · simp at h
  have ne : x ≠ y := by rintro rfl; omega
  refine ⟨hl, ?_, ?_, ?_, once, covers⟩
  · intro k c h
    obtain ⟨-, ⟨rfl, -⟩ | ⟨rfl, -⟩⟩ := key k c h
    · exact hx
    · exact hy
  · intro c m n k hm hn h1 h2
    obtain ⟨-, hm⟩ := key m c hm
    obtain ⟨hn', hn⟩ := key n c hn
    rw [hc k (by omega)]
    rcases hm with ⟨rfl, m1⟩ | ⟨rfl, m1⟩ <;> rcases hn with ⟨e, n1⟩ | ⟨e, n1⟩
    · rw [if_pos (by omega)]
    · exact absurd e ne
    · exact absurd e.symm ne
    · rw [if_neg (by omega), if_pos (by omega)]
  · intro p q m n hm hn hd
    obtain ⟨-, hm⟩ := key m p hm
    obtain ⟨-, hn⟩ := key n q hn
    rcases hm with ⟨rfl, m1⟩ | ⟨rfl, m1⟩ <;> rcases hn with ⟨rfl, n1⟩ | ⟨rfl, n1⟩ <;> omega

/-- The laws of both sides, with no START in hand. -/
theorem laws_of_sides {s : State} (ht : (s.table .top).Lawful .top) (hb : (s.table .bottom).Lawful .bottom)
    (hs : s.run.saved = none := by rfl) : s.ClaimLaws :=
  ⟨fun d => match d with
    | .top => ht
    | .bottom => hb, fun _ hv => nomatch hs.symm.trans hv⟩

theorem rig_bottom_lawful : (rig.table .bottom).Lawful .bottom :=
  lawful_of_two (x := .b1) (y := .b2) (a := 8) (b := 12) (u := 28) (v := 32) (by decide +kernel) (by decide +kernel)
    rfl rfl (by decide) (by decide) (by decide +kernel) (fun _ h => nomatch h)

theorem rig_laws : rig.ClaimLaws :=
  laws_of_sides (lawful_of_two (x := .t1) (y := .t2) (a := 8) (b := 12) (u := 28) (v := 32) (by decide +kernel)
    (by decide +kernel) rfl rfl (by decide) (by decide) (by decide +kernel) (fun _ h => nomatch h)) rig_bottom_lawful

theorem moving_laws (p : Purpose) : (moving p).ClaimLaws := by
  have h : ((moving .step).table .top).Lawful .top :=
    lawful_of_two (x := .t1) (y := .t2) (a := 8) (b := 16) (u := 28) (v := 32) (by decide +kernel) (by decide +kernel)
      rfl rfl (by decide) (by decide) (by decide +kernel) (fun _ h => nomatch h)
  cases p <;> exact laws_of_sides h rig_bottom_lawful

/-- The rig with a wait of T2 for lanes 20..32 in the pending list. -/
def waiting : State := rig.modTable .top fun t => { t with pend := [⟨.t2, .step, ⟨20, 32⟩⟩] }

theorem waiting_laws : waiting.ClaimLaws :=
  laws_of_sides (lawful_of_two (x := .t1) (y := .t2) (a := 8) (b := 12) (u := 28) (v := 32) (by decide +kernel)
    (by decide +kernel) rfl rfl (by decide) (by decide) (by decide +kernel) (fun e h => by
      rw [List.mem_singleton.mp (show e ∈ [ClaimEntry.mk .t2 .step ⟨20, 32⟩] from h)]
      exact ⟨rfl, ⟨28, 32⟩, by decide +kernel, by decide, by decide⟩)) rig_bottom_lawful

theorem witness_StepRunsFrontCommand : ({ rig with pending := [.stop, .abort] } : State).pending = .stop :: [.abort] ∧
    rig.pending = [] := by decide +kernel

theorem witness_CanonicalKept : imaging.Canonical ∧ ∃ t, step { imaging with pending := [.netImageWritten] } = .next t :=
  ⟨⟨by decide +kernel, by decide +kernel⟩, next_of_answersNext (by decide +kernel)⟩

theorem witness_ClaimLawsKept : waiting.ClaimLaws ∧ ∃ t, step waiting = .next t :=
  ⟨waiting_laws, next_of_answersNext (by decide +kernel)⟩

theorem witness_BoundsKept : (writingIn (.result 0) .publish).Bounded ∧ ∃ t, step (writingIn (.result 0) .publish) = .next t :=
  ⟨⟨by decide +kernel, by decide +kernel, by decide +kernel, by decide +kernel, ⟨by decide +kernel, by decide +kernel⟩,
    by decide +kernel, ⟨by decide +kernel, fun _ h => nomatch h⟩, by decide +kernel, by decide +kernel, by decide +kernel,
    by decide +kernel⟩, next_of_answersNext (by decide +kernel)⟩

theorem witness_LogFitsKept : (writingIn .note .bytes).LogFits ∧ ∃ t, step (writingIn .note .bytes) = .next t :=
  ⟨⟨by decide +kernel, fun _ h => (nomatch h), by decide +kernel, by decide +kernel, by decide +kernel,
    fun _ => by decide +kernel, fun _ _ _ => by decide +kernel, fun w h k => by cases h; exact nomatch k⟩,
    next_of_answersNext (by decide +kernel)⟩

theorem witness_LanesLeaveOnlyByReport : (moving .step).ClaimLaws ∧
    (∃ t, exec (.arrived .t1 ⟨72500, 40⟩) (moving .step) = .next t) ∧
    ((moving .step).table .top).cells[8]? = some (some .t1) :=
  ⟨moving_laws _, next_of_answersNext (by decide +kernel), by decide +kernel⟩

theorem witness_SetupChangesOnlyByStart : ∃ t, exec (.setupRecordRead setupBytes) awaitingSetup = .next t :=
  next_of_answersNext (by decide +kernel)

theorem witness_OffsetsChangeOnlyByCalibration :
    ∃ t, exec (.calCountEnd [5]) (calibrating 4 [1, 2, 3, 4]) = .next t := next_of_answersNext (by decide +kernel)

theorem witness_RegistersChangeOnlyByWrites : (∃ t, exec (.intStatusWrite 2) { rig with regs := ⟨0, 3, 0⟩ } = .next t) ∧
    ({ rig with regs := ⟨0, 3, 0⟩ } : State).regs.intStatus.getLsbD 0 = true :=
  ⟨next_of_answersNext (by decide +kernel), by decide +kernel⟩

theorem witness_HostMemoryFrame_entry : (∃ t, exec .entryWritten (writingIn .note .bytes) = .next t) ∧
    (∃ t, exec .reset (writingIn .note .bytes) = .next t) ∧
    (∀ o ∈ [0x24, 0x28, 0x2C, 0x30], ∀ j < 4, 0x100020 ≠
      ((writingIn .note .bytes).station + BitVec.ofNat 64 (o + j)).toNat) ∧
    ∀ k b, (writingIn .note .bytes).log.writing = some ⟨k, b, .bytes⟩ → ∀ j < b.length,
      0x100020 ≠ ((writingIn .note .bytes).log.base + BitVec.ofNat 64 (32 * (writingIn .note .bytes).log.widx + j)).toNat :=
  ⟨next_of_answersNext (by decide +kernel), ⟨_, rfl⟩, by decide +kernel, fun k b h => by cases h; decide +kernel⟩

theorem witness_HostMemoryFrame_image : (∃ t, exec .netImageWritten imaging = .next t) ∧
    (∃ t, exec .powerOnReset imaging = .next t) ∧ imaging.frame.imageBusy = true ∧
    (∀ o ∈ [0x24, 0x28, 0x2C, 0x30], ∀ j < 4, 0x9002 ≠ (imaging.station + BitVec.ofNat 64 (o + j)).toNat) ∧
    ∀ j < imaging.nets.inUse, 0x9002 ≠ (imaging.frame.imageAddr + BitVec.ofNat 64 j).toNat :=
  ⟨next_of_answersNext (by decide +kernel), ⟨_, rfl⟩, by decide +kernel, by decide +kernel, by decide +kernel⟩

/-- A net image, an entry's bytes or a published count in progress, and an address outside them. -/
theorem witness_Resets : (rig.frame.imageBusy = false ∧ rig.log.writing = none) ∧
    (imaging.frame.imageBusy = true ∧ imaging.log.writing = none ∧ imaging.nets.inUse = 2) ∧
    ((writingIn .note .bytes).frame.imageBusy = false ∧
      (writingIn .note .bytes).log.writing = some ⟨.note, List.replicate 32 0xA5, .bytes⟩) ∧
    (writingIn .note .publish).log.writing = some ⟨.note, List.replicate 32 0xA5, .publish⟩ ∧
    (∀ j < 4, 0x5028 ≠ ((writingIn .note .publish).station + BitVec.ofNat 64 (0x24 + j)).toNat) ∧
    ∀ j < imaging.nets.inUse, 0x9002 ≠ (imaging.frame.imageAddr + BitVec.ofNat 64 j).toNat := by decide +kernel

theorem witness_CommandsIgnored : rig.run.state ∉ [.idle, .stopped] ∧ (rigIn .draining).run.state ≠ .running ∧
    (rigIn .aborting).run.state ∉ [.running, .draining, .stopped, .halted] ∧ rig.run.state ≠ .halted ∧
    (rigIn .starting).run.state ∈ [.powerupCal, .calibrating, .starting, .aborting] := by decide +kernel

theorem witness_StartAccepted : (rigIn .idle).run.state = .idle ∧ (rigIn .stopped).run.state = .stopped := by
  decide +kernel

theorem witness_StopDrains : rig.run.state = .running ∧
    (let s := (rigIn .draining).updRun fun q => { q with runPark := .both .due };
      s.run.runPark.get .top = .due ∧ s.run.framePark.get .top = .none ∧
      ∀ c ∈ carriagesOf .top, (s.carr c).inService = true → (s.carr c).state = .idle) ∧
    (let s := (rigIn .draining).updRun fun q => { q with runPark := .both .issued, pendingCal := true };
      s.run.runPark = .both .issued ∧ (∀ c ∈ allCarriages, (s.carr c).state ≠ .travel) ∧ s.fetch.reading = none ∧
      s.disp.window = [] ∧ s.run.pendingCal = true) ∧
    (let s := (rigIn .aborting).updRun fun q => { q with runPark := .both .issued };
      s.fetch.reading = none ∧ s.log.writing = none ∧ s.frame.abortDiscards = none) := by decide +kernel

/-- The park of a BOARD_END: its FRAME_END written, the park due, under way and over, and the Fetcher held for it. -/
theorem witness_StopDrains_frame : let s (m : ParkMark) := rig.updRun fun q => { q with framePark := .both m }
    (let w := ((writingIn .frameEnd .bytes).updFrame fun f => { f with parkOnClose := true }).updFetch fun f =>
        { f with hold := some .frameEnd };
      w.log.writing = some ⟨.frameEnd, List.replicate 32 0xA5, .bytes⟩ ∧ w.frame.parkOnClose = true ∧
      w.frame.abortDiscards = none ∧ w.run.state ∈ [.running, .draining] ∧ w.fetch.hold = some .frameEnd ∧
      (w.updRun fun q => { q with state := .stopped }).run.state ∉ [.running, .draining]) ∧
    ((s .due).run.framePark.get .top = .due ∧ (∀ c ∈ carriagesOf .top, ((s .due).carr c).inService = true →
      ((s .due).carr c).state = .idle) ∧ (((s .due).setCarr .t1 .lift).carr .t1).state ≠ .idle) ∧
    ((s .issued).run.framePark.get .bottom = .issued ∧ (∀ c ∈ carriagesOf .bottom, ((s .issued).carr c).state ≠ .travel) ∧
      (((s .issued).setCarr .b1 .travel).carr .b1).state = .travel) ∧
    (let h := (s .none).updFetch fun f => { f with hold := some .park };
      h.fetch.hold = some .park ∧ h.run.framePark = .both .none) ∧
    (let l (h : Option HoldFor) := (fetching .link .hold).updFetch fun f => { f with hold := h, next := some 0x2000 };
      (l none).fetch.hold = none ∧ (l (some .park)).fetch.hold ≠ none ∧ (l none).fetch.next = some 0x2000 ∧
      (l none).fetch.pos = some ⟨0x1000, 4, .steps, 2, .hold⟩) := by decide +kernel

/-- A park not issued, and one issued on both sides with T1 still in TRAVEL: neither drain nor abort ends. -/
theorem witness_StopDrains_parking : let s (q : RunState) (m : ParkMark) := (rigIn q).updRun fun r => { r with runPark := .both m }
    let parks (s : State) := (s.runPark .top).runPark .bottom
    (parks (s .draining .none)).run.runPark ≠ .both .issued ∧
    ((parks ((s .aborting .issued).setCarr .t1 .travel)).run.runPark = .both .issued ∧
      ((parks ((s .aborting .issued).setCarr .t1 .travel)).carr .t1).state = .travel) ∧
    ((parks (s .draining .issued)).run.runPark = .both .issued ∧
      ∀ c ∈ allCarriages, ((parks (s .draining .issued)).carr c).state ≠ .travel) := by decide +kernel

/-- R196: a quiet drain with both parks due issues them, T1 and B1 moving off first; with every carriage at its park point it ends in the same answer; and
a step in MOVING keeps it back. -/
theorem witness_StopDrains_issues : let s (q : RunState) := (rigIn q).updRun fun r => { r with runPark := .both .due }
    let home := (s .draining).updCarriages fun v =>
      let r : CarriageRec := { v.t1 with position := some ⟨50000, 0⟩ }
      ⟨r, r, .reset, .reset, r, r⟩
    ((s .draining).drainLevel.run.runPark = .both .issued ∧ (s .draining).drainLevel.linkOut.map (·.1) = [.t1, .b1] ∧
      (s .draining).drainLevel.run.state = .draining) ∧
    home.drainLevel.run.state = .stopped ∧
    ((s .aborting).abortLevel.linkOut.map (·.1) = [.t1, .b1] ∧ (s .aborting).abortLevel.run.state = .aborting) ∧
    (home.updRun fun r => { r with state := .aborting }).abortLevel.run.state = .idle ∧
    (let m := { s .draining with disp := { rig.disp with window := [entryOf (copyOf .res2) .moving] } };
      m.drainLevel.linkOut = []) := by decide +kernel

/-- R30, R38: right-movers from the highest index down. T1 goes from lane 10 to 12 and T2 from lane 30 to 34. -/
theorem test_batch_order : let s := rig.updSetup fun t => { t with carriages := { t.carriages with
      t1 := { t.carriages.t1 with parkX := 60000 }, t2 := { t.carriages.t2 with parkX := 170000 } } }
    (s.batch .top .park).linkOut.map (·.1) = [.t2, .t1] := by decide +kernel

theorem witness_CalibrateOrders : (rigIn .idle).run.state = .idle ∧ (rigIn .stopped).run.state = .stopped ∧
    (rigIn .halted).run.state ∈ [.running, .draining, .halted] := by decide +kernel

theorem witness_ClearFaultStops : (rigIn .halted).run.state = .halted ∧ (rigIn .halted).run.mirror = true := by
  decide +kernel

theorem witness_AbortEndsWork : rig.run.state ∈ [.running, .draining, .stopped, .halted] ∧
    ((writingIn (.result 0) .bytes).log.writing = some ⟨.result 0, List.replicate 32 0xA5, .bytes⟩ ∧
      ((writingIn (.result 0) .bytes).disp.window.map (·.slot)) = [0] ∧
      (writingIn (.result 0) .bytes).mu.op ≠ .measurement) ∧
    ((imaging.frame.state ≠ .none ∧ imaging.log.writing = none) ∧
      (writingIn (.frameStart ⟨1, 2, .both ⟨0, 0⟩, 40, 0x9000, 4, 0⟩) .bytes).log.writing.isSome = true) := by decide +kernel

theorem witness_RegisterWrites : (fetching .link .link).fetch.reading = some ⟨.link, false, false⟩ ∧
    (rig.fetch.reading = none ∧ rig.fetch.waiting = false ∧ rig.log.started = true ∧ rig.log.reading = false) ∧
    (let s := rig.updFetch fun f => { f with waiting := true };
      s.fetch.reading = none ∧ s.run.state = .running ∧ s.fetch.waiting = true) ∧
    (State.reset.log.started = false ∧ (rig.updLog fun l => { l with reading := true }).log.reading = true) ∧
    rig.run.state ≠ .idle ∧ (rigIn .idle).run.state = .idle := by decide +kernel

/-- R189's command codes: only bits 7:0 of a COMMAND write count. -/
theorem test_registerWrite : registerWrite 0x08 0xABCDEF04 = some .clearFault ∧
    registerWrite 0x08 0x1FF = some (.commandUnknown 0xFF) ∧ registerWrite 0x10 5 = none := by decide +kernel

/-- R189: STATE is read at 0x10, and 0x1C has no register. -/
theorem test_readOffset : rig.readOffset 0x10 = some rig.stateReg ∧ rig.readOffset 0x04 = some 0 ∧
    rig.readOffset 0x00 = some 0x5000 ∧ rig.readOffset 0x18 = some 0x3F ∧ rig.readOffset 0x1C = none := by decide +kernel

/-- The facts a completed travel asks for. -/
theorem witness_ArrivedCompletesTravel : (moving .step).ClaimLaws ∧ (moving .park).ClaimLaws ∧
    ((moving .step).carr .t1).state = .travel ∧ ((moving .step).carr .t1).awaits .move = true ∧
    (moving .step).pendingOf .t1 = none ∧ (moving .step).claimOf .t1 = some ⟨8, 16⟩ ∧
    ((moving .step).setup.span .t1 ((moving .step).setup.laneFor .t1 74999)).within ⟨8, 16⟩ = true ∧
    ((moving .step).carr .t1).purpose = some .step ∧ ((moving .park).carr .t1).purpose = some .park :=
  ⟨moving_laws _, moving_laws _, by decide +kernel⟩

theorem witness_HaltedComesToRest : halting.ClaimLaws ∧ (halting.carr .t1).state = .travel ∧
    (halting.carr .t1).awaits .halt = true ∧ halting.pendingOf .t1 = none ∧ halting.claimOf .t1 = some ⟨8, 16⟩ ∧
    (halting.setup.span .t1 (halting.setup.laneFor .t1 50000)).within ⟨8, 16⟩ = true :=
  ⟨⟨(moving_laws .step).table, (moving_laws .step).saved⟩, by decide +kernel⟩

theorem witness_CarriageFaults_stale :
    let s := (waits .t1 .lift .lift).modCarr .t1 fun r => { r with timerCut := some 0 }
    ((s.carr .t1).timerCut = some s.clock ∧ (s.carr .t1).timer = some 100) ∧
    ((rig.carr .t1).timerCut ≠ some rig.clock ∧ (rig.carr .t1).timer = none) ∧
    (((waits .t1 .homing .query).carr .t1).awaits .query = true ∧ ((waits .t1 .homing .query).carr .t1).timer ≠ none) ∧
    (let d := waits .t1 .descend .descend;
      (d.carr .t1).awaits .descend = true ∧ (d.carr .t1).timer ≠ none ∧ d.pendingOf .t1 = none) := by decide +kernel

theorem witness_CarriageFaults : (rig.carr .t1).inService = true ∧
    ((waits .t1 .lift .lift).carr .t1).timerCut ≠ some (waits .t1 .lift .lift).clock ∧
    (((waits .t1 .lift .lift).carr .t1).timer = some 100 ∧ ((waits .t1 .lift .lift).carr .t1).request = some ⟨.lift, false⟩) ∧
    ((moving .step).claimOf .t1 = some ⟨8, 16⟩ ∧ ((moving .step).carr .t1).awaits .move = true ∧
      ((moving .step).setup.span .t1 ((moving .step).setup.laneFor .t1 75000)).within ⟨8, 16⟩ = false) ∧
    (halting.claimOf .t1 = some ⟨8, 16⟩ ∧ (halting.carr .t1).awaits .halt = true ∧
      (halting.setup.span .t1 (halting.setup.laneFor .t1 49999)).within ⟨8, 16⟩ = false) ∧
    rig.log.notes.length < 8 := by decide +kernel

/-- T1 serves a step with T2, in every state a carriage may have; in ENGAGED with the measurement in hand; named by the pair
check in hand; with the outcome decided. -/
theorem witness_CarriageFaults_served : let e := entryOf (copyOf .res2) .landing
    (∀ q ∈ [CarriageState.homing, .idle, .travel, .descend, .check, .ready, .engaged, .lift], let s := serving e q
      (s.carr .t1).inService = true ∧ (s.carr .t2).state = q ∧ s.servedBy .t1 = some e ∧ s.entry e.slot = some e ∧
      (s.table .top).pend = [] ∧ (s.table .bottom).pend = []) ∧
    (e.outcome = none ∧ .t2 ∈ e.serving) ∧
    (let m := measuring e .count 1;
      (m.carr .t1).state = .engaged ∧ m.mu.op = .measurement ∧ m.mu.step = some e.slot) ∧
    (let m := (measuring e .count 1).setCarr .t1 .ready;
      (m.carr .t1).state ≠ .engaged ∧ m.mu.op = .measurement ∧ (m.carr .t2).state = .engaged) ∧
    (checking.mu.op = .pairCheck ∧ checking.mu.pair = some ⟨0, .t1, .t2⟩ ∧ checking.run.state ≠ .halted) ∧
    (let s := (serving e .ready).modEntry 0 (fun e => { e with outcome := some (e.endedOutcome .nocontact (.landing .force) 0) });
      (s.servedBy .t1).map (·.outcome.isSome) = some true ∧ s.entry 0 = s.servedBy .t1) := by decide +kernel

/-- A pending entry of T2 for a step and for a yield that meets T1's claim, and a MOVING step that waits for a yield of T1. -/
theorem witness_CarriageFaults_blocked : let e := entryOf (copyOf .res2) .moving
    let s (p : Purpose) : State := ((serving e .travel).modCarr .t2 fun r =>
        { r with phase := some .claimWait, purpose := some p }).modTable .top fun t => { t with pend := [⟨.t2, p, ⟨10, 32⟩⟩] }
    ((s .step).claimOf .t1 = some ⟨8, 12⟩ ∧ (⟨10, 32⟩ : Interval).meets ⟨8, 12⟩ = true ∧
      ((s .step).carr .t2).purpose ∈ [some .step, some .scrub] ∧ (s .step).servedBy .t2 = some e) ∧
    ((s .yield).carr .t2).purpose = some .yield ∧
    (let w := (s .yield).modEntry 0 fun e => { e with yields := [⟨.t1, 20, false⟩, ⟨.t2, 40, false⟩] };
      w.disp.window.map (fun f => (f.state, f.outcome, f.yields.map (·.carriage))) = [(.moving, none, [.t1, .t2])]) := by
  decide +kernel

/-- A waiting claim of a step whose carriages travel, and steps that are not withdrawn. -/
theorem witness_CarriageFaults_withdrawn : let s := { (waiting.setCarr .t2 .travel).modCarr .t2 fun r => { r with phase := some .claimWait } with
      disp := { State.reset.disp with window := [entryOf (copyOf .res2) .moving] } }
    s.ClaimLaws ∧ s.entry 0 = some (entryOf (copyOf .res2) .moving) ∧ .t2 ∈ (entryOf (copyOf .res2) .moving).serving ∧ (s.carr .t2).state = .travel ∧ (s.carr .t2).phase = some .claimWait ∧
    (∀ q ∈ [DispatchState.moving, .landing, .measureQueued],
      (serving (entryOf (copyOf .res2) q) .travel).entry 0 = some (entryOf (copyOf .res2) q)) ∧
    (∀ q ∈ [DispatchState.waiting, .measuring, .discharging, .lifting, .held, .done], q ∉ [.moving, .landing, .measureQueued]) ∧
    rig.entry 0 = none ∧ (measuring (entryOf (copyOf .res2) .landing) .count 1).mu.op = .measurement ∧
    (∀ p ∈ [TravelPhase.claimWait, .moving, .halting],
      let t := (serving (entryOf (copyOf .res2) .moving) .travel).modCarr .t1 fun r => { r with phase := some p }
      (t.carr .t1).phase = some p ∧ (t.table .top).pend = []) :=
  ⟨⟨waiting_laws.table, waiting_laws.saved⟩, by decide +kernel⟩

/-- Nothing owed to the Dispatcher, and a LIFTING step without a carriage: one round, and it is HELD. -/
theorem witness_CarriageFaults_stage :
    let s := { rig with disp := { State.reset.disp with window :=
      [{ entryOf (copyOf .res2) .lifting with assignment := [none, none], outcome := outcome0 (writingIn .note .bytes) }] } }
    rig.dispatchOwed = false ∧ s.dispatchOwed = true ∧ s.dispatchRound.dispatchOwed = false ∧
    (s.dispatcherStage.entry 0).map (·.state) = some .held := by decide +kernel

theorem witness_LateResponses : (rig.carr .t1).awaits .move = false ∧ (rig.carr .t1).request ≠ some ⟨.halt, true⟩ ∧
    (rig.carr .t1).awaits .descend = false ∧ (rig.carr .t1).awaits .lift = false ∧ (rig.carr .t1).awaits .halt = false ∧
    (rig.carr .t1).awaits .query = false ∧ (rig.carr .t3).inService = false ∧ (rig.carr .t3).state = .off ∧
    (halting.carr .t1).awaits .move = false ∧ (halting.carr .t1).request = some ⟨.halt, true⟩ := by decide +kernel

theorem witness_TouchedOpensLanding : (descending.carr .t1).state = .descend ∧ (descending.carr .t1).awaits .descend = true ∧
    1500 ≤ descending.setup.zLimit ∧ (descending.carr .t1).ended = false ∧
    (descending.servedBy .t1).map (fun e => (e.pointOf .t1, e.copy.points[0]?.map (·.role))) = some (some 0, some .hi) := by
  decide +kernel

theorem witness_TouchedOpensLanding_ended : let s := descending.modCarr .t1 fun r => { r with ended := true }
    (s.carr .t1).state = .descend ∧ (s.carr .t1).awaits .descend = true ∧ (s.carr .t1).ended = true := by decide +kernel

theorem witness_FailedTouchLifts : (descending.carr .t1).awaits .descend = true ∧ descending.pendingOf .t1 = none ∧
    descending.setup.zLimit < 1501 ∧ (descending.carr .t1).ended = false ∧
    (descending.servedBy .t1).map (fun e => (e.nominalOf .t1, e.partnerOf .t1)) = some (some ⟨52500, 0⟩, none) ∧
    (descending.carr .t1).scrubIndex < descending.setup.reland ∧
    descending.setup.inField .t1 (scrubPoint ⟨52500, 0⟩ descending.setup.scrub 1) = true := by decide +kernel

theorem witness_FailedTouchLifts_spent : let s := descending.modCarr .t1 fun r => { r with scrubIndex := 2 }
    s.setup.reland ≤ (s.carr .t1).scrubIndex ∧ (s.carr .t1).awaits .descend = true ∧
    (s.servedBy .t1).map (·.outcome) = some none ∧ s.entry 0 = s.servedBy .t1 := by decide +kernel

/-- A step whose point of T1 lies at y 500,000, so that its scrub position 2 is out of field. -/
def edgeEntry : Entry :=
  { entryOf { copyOf .res2 with points := [⟨.top, .hi, 3, ⟨52500, 500000⟩⟩, ⟨.top, .lo, 4, ⟨152500, 0⟩⟩] } .landing with
    ready := [false, false] }

/-- T1 with that step under scrub index 1, in a state that awaits a response, with so many relands. -/
def edging (st : CarriageState) (k : RequestKind) (r : Nat) : State :=
  ((serving edgeEntry .ready).updSetup fun t => { t with reland := r }).modCarr .t1 fun q =>
    { q with state := st, request := some ⟨k, false⟩, timer := some 100, scrubIndex := 1
             followOn := if st = .lift then some (.landAt ⟨155000, 0⟩ .scrub) else none }

/-- Index 2 is passed over and 3 taken; with two relands none is left. -/
theorem witness_FailedTouchLifts_field : let s := edging .descend .descend
    ((s 3).carr .t1).awaits .descend = true ∧ (s 3).pendingOf .t1 = none ∧ ((s 3).carr .t1).ended = false ∧
    ((s 3).servedBy .t1).map (fun e => (e.nominalOf .t1, e.partnerOf .t1)) = some (some ⟨52500, 500000⟩, none) ∧
    ((s 3).setup.reland ≤ 3 ∧ ((s 3).carr .t1).scrubIndex = 1 ∧ 3 ≤ (s 3).setup.reland) ∧
    (s 3).setup.inField .t1 (scrubPoint ⟨52500, 500000⟩ (s 3).setup.scrub 3) = true ∧
    (s 3).setup.inField .t1 (scrubPoint ⟨52500, 500000⟩ (s 3).setup.scrub 2) = false ∧
    ((s 2).setup.reland = 2 ∧ ((s 2).servedBy .t1).map (·.outcome) = some none ∧ (s 2).entry 0 = (s 2).servedBy .t1) := by
  decide +kernel

theorem witness_FailedTouchLifts_check : let s := outOfCheck .descend .descend
    ((s 2).carr .t1).awaits .descend = true ∧ (s 2).pendingOf .t1 = none ∧ ((s 2).carr .t1).ended = false ∧
    (s 2).landing .t2 = none ∧ (s 2).setup.reland ≤ ((s 2).carr .t1).scrubIndex ∧
    ((s 1).carr .t1).scrubIndex < (s 1).setup.reland ∧
    ((s 2).servedBy .t1).map (fun e => (e.nominalOf .t1, e.partnerOf .t1, e.outcome, e.slot)) =
      some (some ⟨52500, 0⟩, some .t2, none, 0) ∧
    (s 2).entry 0 = (s 2).servedBy .t1 ∧ (s 2).mu.op = .pairCheck ∧ (s 2).mu.pair = some ⟨0, .t1, .t2⟩ := by decide +kernel

theorem witness_LiftedActsOnFollowOn_check : let s := outOfCheck .lift .lift 2
    (s.carr .t1).awaits .lift = true ∧ (s.carr .t1).ended = false ∧ s.pendingOf .t1 = none ∧ s.landing .t2 = none ∧
    (s.carr .t1).followOn = some (.landAt ⟨155000, 0⟩ .scrub) ∧ s.claimAnswer .t1 ⟨8, 33⟩ ≠ .granted ∧
    s.setup.laneFor .t1 155000 ≠ s.laneNow .t1 ∧ s.setup.reland ≤ (s.carr .t1).scrubIndex ∧
    (s.servedBy .t1).map (fun e => (e.partnerOf .t1, e.outcome, e.slot)) = some (some .t2, none, 0) ∧
    s.entry 0 = s.servedBy .t1 ∧ s.mu.op = .pairCheck ∧ s.mu.pair = some ⟨0, .t1, .t2⟩ ∧
    (after (.lifted .t1) s).mu.op = .idle := by decide +kernel

/-- T1 in LIFT with a landing at a machine point to follow. -/
def following (p : Pos) : State := (waits .t1 .lift .lift).modCarr .t1 fun r => { r with followOn := some (.landAt p .step) }

theorem witness_LiftedActsOnFollowOn : ((waits .t1 .lift .lift).carr .t1).state = .lift ∧
    ((waits .t1 .lift .lift).carr .t1).awaits .lift = true ∧ ((waits .t1 .lift .lift).carr .t1).followOn = none ∧
    ((following ⟨52500, 0⟩).carr .t1).ended = false ∧
    ((following ⟨52500, 0⟩).carr .t1).position = some ((following ⟨52500, 0⟩).setup.target .t1 ⟨52500, 0⟩) ∧
    (following ⟨54999, 0⟩).setup.laneFor .t1 54999 = (following ⟨54999, 0⟩).laneNow .t1 ∧
    (following ⟨55000, 0⟩).claimAnswer .t1 ⟨8, 13⟩ = .granted ∧ (following ⟨155000, 0⟩).claimAnswer .t1 ⟨8, 33⟩ = .pending := by
  decide +kernel

/-- T1 in LIFT with a scrub position of its step to follow, under a scrub index. -/
def scrubbing (p : Pos) (n : Nat) : State :=
  (serving { entryOf (copyOf .res2) .landing with ready := [false, false] } .ready).modCarr .t1 fun r =>
    { r with state := .lift, request := some ⟨.lift, false⟩, timer := some 100, scrubIndex := n
             followOn := some (.landAt p .scrub) }

theorem witness_LiftedActsOnFollowOn_scrub : let s := scrubbing ⟨155000, 0⟩
    ((s 1).carr .t1).awaits .lift = true ∧ ((s 1).carr .t1).ended = false ∧ (s 1).pendingOf .t1 = none ∧
    ((s 1).servedBy .t1).map (fun e => (e.partnerOf .t1, e.nominalOf .t1, e.outcome)) = some (none, some ⟨52500, 0⟩, none) ∧
    ((scrubbing ⟨52500, 0⟩ 1).carr .t1).position = some ((s 1).setup.target .t1 ⟨52500, 0⟩) ∧
    (s 1).setup.laneFor .t1 52650 = (s 1).laneNow .t1 ∧ (s 1).claimAnswer .t1 ⟨8, 13⟩ = .granted ∧
    (s 1).claimAnswer .t1 ⟨8, 33⟩ ≠ .granted ∧ (s 2).setup.reland ≤ ((s 2).carr .t1).scrubIndex ∧
    (s 2).entry 0 = (s 2).servedBy .t1 ∧
    (((s 1).carr .t1).scrubIndex < (s 1).setup.reland ∧
      (s 1).setup.inField .t1 (scrubPoint ⟨52500, 0⟩ (s 1).setup.scrub 2) = true ∧
      (s 1).setup.laneFor .t1 ((s 1).setup.target .t1 (scrubPoint ⟨52500, 0⟩ (s 1).setup.scrub 2)).x = (s 1).laneNow .t1) := by
  decide +kernel

theorem witness_LiftedActsOnFollowOn_field : let s := edging .lift .lift
    ((s 3).carr .t1).awaits .lift = true ∧ ((s 3).carr .t1).ended = false ∧ (s 3).pendingOf .t1 = none ∧
    ((s 3).servedBy .t1).map (fun e => (e.partnerOf .t1, e.nominalOf .t1, e.outcome)) =
      some (none, some ⟨52500, 500000⟩, none) ∧ (s 3).claimAnswer .t1 ⟨8, 33⟩ ≠ .granted ∧
    (s 3).setup.laneFor .t1 155000 ≠ (s 3).laneNow .t1 ∧ (s 2).entry 0 = (s 2).servedBy .t1 ∧
    (s 3).setup.inField .t1 (scrubPoint ⟨52500, 500000⟩ (s 3).setup.scrub 3) = true ∧
    (s 3).setup.inField .t1 (scrubPoint ⟨52500, 500000⟩ (s 3).setup.scrub 2) = false ∧
    (s 3).setup.laneFor .t1 ((s 3).setup.target .t1 (scrubPoint ⟨52500, 500000⟩ (s 3).setup.scrub 3)).x =
      (s 3).laneNow .t1 := by decide +kernel

/-- The rig in STARTING, its carriages homing, T2 silent in FAULT or not, the answers of the others in. -/
def homing (t2 : CarriageState) : State :=
  let h (r : CarriageRec) : CarriageRec := { r with state := .homing }
  { rig with
    run := { rig.run with
      state := .starting, stage := some .answers, ret := some .idle, saved := some ⟨rigSetup, rig.carriages, rig.claims⟩
      held := some ⟨0x1000, 0x6000, 0x100000, 64, 1, 0⟩
      answers := ⟨some ⟨52500, 0⟩, none, none, none, some ⟨52500, 0⟩, some ⟨152500, 0⟩⟩ }
    carriages := { rig.carriages with
      t1 := h rig.carriages.t1, t2 := { rig.carriages.t2 with state := t2 }, b1 := h rig.carriages.b1, b2 := h rig.carriages.b2 } }

theorem witness_HomingAnswers : ((waits .t1 .homing .query).carr .t1).state = .homing ∧
    ((waits .t1 .homing .query).carr .t1).awaits .query = true ∧
    ((waits .t1 .homing .lift).carr .t1).awaits .lift = true ∧
    (∀ d ∈ [Side.top, .bottom], (homing .fault).setup.fieldLanes d ≤ 128) ∧ (homing .fault).orderOk .top = true ∧
    ((homing .fault).run.stage = some .answers ∧ (homing .fault).run.unset = [] ∧ ∀ c ∈ allCarriages,
      ((homing .fault).cset c).enabled = true →
        (homing .fault).run.answers.get c ≠ none ∨ ((homing .fault).carr c).state = .fault) ∧
    ((homing .fault).run.saved.isSome = true ∧ ((homing .fault).carr .b1).request = none) := by decide +kernel

/-- R36, R61: carriages out of order refuse START, and the table that was held before it is back. -/
theorem test_position_orderFault : let s := ((homing .homing).modCarr .t2 fun r =>
      { r with request := some ⟨.query, false⟩, timer := some 100 }).updClaims fun _ => .both .reset
    (after (.position .t2 ⟨27500, 0⟩ true) s).run.orderFault = true ∧
    (after (.position .t2 ⟨27500, 0⟩ true) s).claims = rig.claims := by decide +kernel

/-- R36's test of a silent carriage takes its position from before the START, not one it reported since. -/
theorem witness_HomingAnswers_before :
    let now := (homing .fault).modCarr .t2 fun r => { r with position := some ⟨52500, 0⟩ }
    let before := (homing .fault).updRun fun q => { q with saved := q.saved.map fun v =>
      { v with carriages := v.carriages.set .t2 { v.carriages.t2 with position := some ⟨52500, 0⟩ } } }
    now.orderOk .top = true ∧ before.orderOk .top = false := by decide +kernel

/-- A carriage to be set that is at rest, one that still lifts, and the saved record of each. -/
theorem witness_HomingAnswers_sets :
    let s (q : CarriageState) := ((homing .idle).updRun fun r => { r with unset := [.t2] }).modCarr .t2 fun r =>
      { r with state := q }
    (s .idle).run.unset = [.t2] ∧ ((s .idle).carr .t2).state = .idle ∧ ((s .lift).carr .t2).state = .lift ∧
    ((s .idle).cset .t2).enabled = true ∧ (s .idle).run.saved.isSome = true := by decide +kernel

/-- All six waiting to be set, T1 still lifting and T4 not enabled: the others are asked, and the answers wait for T1; and the
stage of the home batches, with T1 HOMING. -/
theorem witness_HomingAnswers_stages : let s := ((rigWith .t1 fun r => { r with state := .lift }).setCarr .t4 .idle).updRun fun r =>
      { r with state := .starting, stage := some .answers, unset := allCarriages, saved := some ⟨rigSetup, rig.carriages, rig.claims⟩ }
    let h := ((rig.setCarr .t1 .homing).updRun fun r => { r with state := .starting, stage := some .homing })
    (s.startLevel.linkOut = [(.t2, .query), (.b1, .query), (.b2, .query)] ∧ s.startLevel.run.unset = [.t1] ∧
      (s.startLevel.carr .t4).state = .off ∧ s.startLevel.run.stage = some .answers) ∧
    (h.startLevel.run.homeIssued = ⟨false, true⟩ ∧ h.startLevel.run.state = .starting ∧
      h.startLevel.linkOut.map (·.1) = [.b1]) ∧
    rig.run.stage = none := by decide +kernel

theorem witness_HomingAnswers_ends : let s (o : Origin) (b : Bool) := rig.updRun fun q =>
      { q with state := .starting, stage := some .homing, homeIssued := .both b, origin := some o
               held := some ⟨0x1000, 0x6000, 0x100000, 64, 1, 0⟩ }
    ((s .fromIdle false).run.homeIssued.get .top = false ∧
      ∀ c ∈ carriagesOf .top, ((s .fromIdle false).carr c).state ≠ .homing) ∧
    ((s .fromIdle true).run.homeIssued = .both true ∧ (s .fromStopped true).run.origin = some .fromStopped ∧
      ∀ c ∈ allCarriages, ((s .fromIdle true).cset c).enabled = true →
        ((s .fromIdle true).carr c).state ≠ .homing ∧ ((s .fromIdle true).carr c).state ≠ .travel) := by decide +kernel

theorem witness_ForceLines : ((landed (.watching none 200)).landing .t1).isSome = true := by decide +kernel

theorem witness_ForceTimes : let s := landed (.watching (some 3) 200)
    ((s.landing .t1).map fun l => (l.method, l.elec, l.force, l.partner)) =
      some (.force, .notUsed, .watching (some 3) 200, none) ∧ s.pendingOf .t1 = none ∧
    (s.servedBy .t1).bind (·.pointOf .t1) = some 0 ∧ s.mu.measQueue = [] := by decide +kernel

/-- T1 in CHECK under both methods, the pair check to come or passed. -/
def bothMethods (e : ElecProgress) : State :=
  (landed .notUsed).setLanding .t1 (some ⟨0, .forceHi, some .t2, 1, .forceAndElectrical, .watching (some 3) 200, e, false⟩)

theorem witness_ForceTimes_both : ((bothMethods .passed).landing .t1).map (fun l => (l.method, l.elec, l.force)) =
      some (.forceAndElectrical, .passed, .watching (some 3) 200) ∧ (bothMethods .passed).landing .t2 = none ∧
    (bothMethods .passed).pendingOf .t1 = none ∧
    ((bothMethods .waitingPartner).landing .t1).map (·.elec) = some .waitingPartner ∧
    ((landed (.watching none 200)).landing .t1).map (·.force) = some (.watching none 200) := by decide +kernel

/-- T1 and T2 in CHECK as partners of one step, each with its own method and electrical progress, both watching. -/
def partnered (a b : Method) (e f : ElecProgress) : State :=
  let l (role : Role) (p : Carriage) (m : Method) (e : ElecProgress) : Landing :=
    ⟨0, role, some p, 1, m, .watching (some 3) 200, e, false⟩
  (((checking.updMu fun u => { u with op := .idle, phase := none, pair := none }).modCarr .t1 fun r => { r with scrubIndex := 0 }
    ).setLanding .t1 (some (l .forceHi .t2 a e))).setLanding .t2 (some (l .senseHi .t1 b f))

/-- A settled record beside the partner's, one whose check is owed, and FORCE_OR_ELECTRICAL alone. -/
theorem witness_ForceTimes_partner : let s := partnered .force .forceAndElectrical .notUsed .passed
    (((s.landing .t1).map fun l => (l.partner, l.method, l.elec)) = some (some .t2, .force, .notUsed) ∧
      ((s.landing .t2).map fun l => (l.method, l.elec, l.force)) =
        some (.forceAndElectrical, .passed, .watching (some 3) 200) ∧ s.pendingOf .t1 = none) ∧
    ((s.servedBy .t1).map fun e => (e.partnerOf .t1, e.nominalOf .t1)) = some (some .t2, some ⟨52500, 0⟩) ∧
    ((s.carr .t1).scrubIndex < s.setup.reland ∧
      s.setup.inField .t1 (scrubPoint ⟨52500, 0⟩ s.setup.scrub ((s.carr .t1).scrubIndex + 1)) = true) ∧
    (let o := partnered .forceOrElectrical .force .owed .owed;
      (o.landing .t1).map (fun l => (l.method, l.elec)) = some (.forceOrElectrical, .owed) ∧
      (o.landing .t2).map (·.elec) = some .owed) ∧
    (let o := (partnered .forceOrElectrical .force .waitingPartner .notUsed).setLanding .t2 none;
      (o.landing .t1).map (·.elec) = some .waitingPartner ∧ o.landing .t2 = none) := by decide +kernel

/-- T1 in CHECK with FORCE_OR_ELECTRICAL, T2 its partner in the descent, by method ELECTRICAL or FORCE. -/
def landingFirst (m : Method) : State :=
  (((partnered .forceOrElectrical m .waitingPartner .notUsed).setLanding .t2 none).modCarr .t2 fun r =>
    { r with state := .descend }).updSetup fun t =>
      { t with carriages := t.carriages.set .t2 { t.carriages.get .t2 with method := m } }

/-- T1 in its descent beside the open record of T2, its partner, of a method and an electrical progress, with so many pairs in
the contact-check queue and one pair owed. -/
def joining (m : Method) (e : ElecProgress) (n : Nat) : State :=
  (((((partnered .force m .notUsed e).setLanding .t1 none).modCarr .t1 fun r =>
    { r with state := .descend, request := some ⟨.descend, false⟩, ended := false }).updMu fun u =>
      { u with checkQueue := List.replicate n ⟨5, .b1, .b2⟩ }).updQual fun q => { q with owed := [⟨4, .b1, .b2⟩] })

/-- The check is needed beside an ELECTRICAL record that waits, and not beside one of FORCE; the queue holds 0, 1 or 2. -/
theorem witness_TouchedOpensLanding_pair : let s := joining .electrical .waitingPartner
    ((s 0).carr .t1).state = .descend ∧ ((s 0).carr .t1).awaits .descend = true ∧ ((s 0).carr .t1).ended = false ∧
    1500 ≤ (s 0).setup.zLimit ∧
    ((s 0).servedBy .t1).map (fun e => (e.slot, e.attempts, e.pointOf .t1)) = some (0, 0, some 0) ∧
    ((s 0).servedBy .t1).map (fun e => (e.copy.points[0]?.map (·.role), (partnerRole .forceHi).bind e.carriageOf)) =
      some (some .forceHi, some .t2) ∧
    ((s 0).landing .t2).map (fun m => (m.slot, m.attempt)) = some (0, 1) ∧
    ((s 0).landing .t2).map (fun m => (m.elec, m.method)) = some (.waitingPartner, .electrical) ∧
    ((s 0).cset .t1).method = .force ∧ ([0, 1, 2].map fun n => (s n).mu.checkQueue.length) = [0, 1, 2] ∧
    ((joining .force .notUsed 0).landing .t2).map (fun m => (m.elec, m.method)) = some (.notUsed, .force) ∧
    ((s 0).setLanding .t2 none).landing .t2 = none := by decide +kernel

theorem witness_ForceTimes_waits : let s := landingFirst .electrical
    (((s.landing .t1).map fun l => (l.method, l.elec, l.force, l.partner)) =
      some (.forceOrElectrical, .waitingPartner, .watching (some 3) 200, some .t2) ∧ s.landing .t2 = none ∧
      (s.carr .t2).state ≠ .ready ∧ (s.cset .t2).method ≠ .force) ∧ ((landingFirst .force).cset .t2).method = .force ∧
    (let o := (partnered .force .forceOrElectrical .owed .owed).modLanding .t2 fun l => { l with force := .unqualified };
      (o.landing .t2).map (fun l => (l.method, l.elec, l.force)) = some (.forceOrElectrical, .owed, .unqualified)) := by
  decide +kernel

/-- R70 and R72: the force time of FORCE_OR_ELECTRICAL makes a waiting carriage READY and leaves one whose check is owed; a
FORCE landing that fails beside its partner's sends the partner back to waiting. -/
theorem test_filterTimeComplete_either :
    ((after (.filterTimeComplete .t1) ((partnered .forceOrElectrical .force .waitingPartner .notUsed).setLanding .t2 none)
      ).carr .t1).state = .ready ∧
    ((after (.filterTimeComplete .t1) (partnered .forceOrElectrical .force .running .running)).carr .t1).state = .check := by
  decide +kernel
/-- R70: FORCE_OR_ELECTRICAL fails by force at once beside a FORCE partner that is to land, and waits for an ELECTRICAL
one; R72: one whose force has failed waits on when its partner's FORCE landing fails. -/
theorem test_limitTime_partner :
    ((after (.limitTime .t1) (landingFirst .force)).carr .t1).state = .lift ∧
    ((after (.limitTime .t1) (landingFirst .electrical)).carr .t1).state = .check ∧
    (let o := (partnered .force .forceOrElectrical .owed .owed).modLanding .t2 fun l => { l with force := .unqualified };
      ((after (.limitTime .t1) o).landing .t2).map (fun l => (l.elec, l.force)) = some (.waitingPartner, .unqualified)) := by
  decide +kernel

/-- The hypotheses of the measurement statements: the phase, the step in hand and no outcome. -/
def inPhase (s : State) (ph : Phase) : Bool :=
  s.mu.op == .measurement && s.mu.phase == some ph && (s.inHand.map (·.outcome)) == some none

theorem witness_PrecheckEnds : inPhase (measuring (entryOf (copyOf .res2) .measuring) .precheck 0) .precheck = true ∧
    125 * (((List.replicate 16 (500 : Code)).map fun (k : Code) => k.toInt - 0).sum).natAbs = 1000 * rigSetup.residualLimit ∧
    1000 * rigSetup.residualLimit < 125 * (((501 :: List.replicate 15 (500 : Code)).map fun (k : Code) => k.toInt - 0).sum).natAbs ∧
    ((0x7FFF : Code) ∈ (0x7FFF : Code) :: List.replicate 15 0) ∧
    (measuring (entryOf (copyOf .res2) .measuring) .precheck 0).mu.cut = none := by
  decide +kernel

theorem witness_PhasesAdvance : inPhase (measuring (entryOf (copyOf .res2) .measuring) .dummy 1) .dummy = true ∧
    inPhase (measuring (entryOf (copyOf .res2) .measuring) .settle 1) .settle = true ∧
    inPhase (measuring (entryOf (copyOf .res2) .measuring) .skip 1) .skip = true ∧
    (let s := checking.updMu fun u => { u with phase := some .dummy };
      s.mu.op = .pairCheck ∧ s.mu.phase = some .dummy) ∧
    (let s := checking.updMu fun u => { u with phase := some .settle };
      s.mu.op = .pairCheck ∧ s.mu.phase = some .settle ∧ s.mu.source = .board) ∧
    State.reset.mu.op = .calibration ∧ State.reset.mu.phase = some .dummy ∧ State.reset.mu.cut = none ∧
    checking.mu.cut = none ∧ (measuring (entryOf (copyOf .res2) .measuring) .dummy 1).mu.cut = none := by decide +kernel

/-- A phase end that crosses an abandonment: the mark that T1's fault leaves, and the two operations it is left by. -/
theorem witness_PhasesAdvance_cut : let s := measuring (entryOf (copyOf .res2) .measuring) .precheck 0
    (s.mu.phase = some .precheck ∧ s.mu.op = .measurement ∧ s.mu.cut = none) ∧
    (checking.mu.phase = some .count ∧ checking.mu.op = .pairCheck ∧ checking.mu.pair ≠ none ∧ checking.mu.cut = none) ∧
    (after (.driveFault .t1 0x20) s).mu.cut = some (.precheck, s.clock) ∧
    (let m (p : Phase) := rig.updMu fun u => { u with cut := some (p, 0) };
      ∀ p ∈ [Phase.precheck, .dummy, .settle, .dwell, .guardDwell], (m p).mu.cut = some (p, (m p).clock)) := by
  decide +kernel

/-- The arbiter's four cases: a pair waits, a step waits, a calibration is ordered, nothing waits. -/
theorem witness_PhasesAdvance_arbiter :
    (let s := checking.updMu fun u => { u with op := .idle, checkQueue := [⟨0, .t1, .t2⟩], lastClass := none };
      s.mu.op = .idle ∧ s.run.state ≠ .aborting ∧ s.mu.lastClass ≠ some .twoWire ∧ (s.carr .t1).state = .check) ∧
    (let s := (serving (entryOf (copyOf .res2) .measureQueued) .ready).updMu fun u => { u with op := .idle, measQueue := [0] };
      s.mu.checkQueue = [] ∧ (s.entry 0).isSome = true ∧ (s.carr .t1).state = .ready) ∧
    (let s := rig.updMu fun u => { u with op := .idle, calOrder := true };
      s.mu.checkQueue = [] ∧ s.mu.measQueue = [] ∧ s.mu.calOrder = true) ∧ State.reset.mu.op ≠ .idle := by decide +kernel

theorem witness_CountEnds : inPhase volt25 .count = true ∧ (copyOf .volt).kind ≠ .cap ∧
    (samples 25 (-4)).length = ({ copyOf .volt with window := 25 } : StepCopy).counted := by decide +kernel

/-- A RES2 step that AUTORANGE repeats: 16 samples of 100 at gain 1 are below a sixteenth of full scale. -/
theorem witness_CountEnds_again : inPhase (measuring (entryOf { copyOf .res2 with autorange := true } .measuring) .count 1) .count = true ∧
    nextGain false 1600 16 1 0 4 [] = some 2 := by decide +kernel

theorem witness_ChargeEnds : inPhase cap2000 .charge = true ∧ (cap2000.inHand.map (·.copy.kind)) = some .cap ∧
    nextRange .timerLimit 16777215 1 [] = some 2 ∧ nextRange .threshold 1023 1 [] = some 0 ∧
    nextRange .threshold 1024 1 [] = none := by decide +kernel

theorem witness_DwellsEnd : inPhase (measuring (entryOf (copyOf .iso) .measuring) .dwell 1) .dwell = true ∧
    (measuring (entryOf (copyOf .iso) .measuring) .dwell 1).mu.dwellNext = .release ∧
    (((measuring (entryOf (copyOf .iso) .measuring) .dwell 1).carr .t1).state = .engaged ∧
      .t1 ∈ (entryOf (copyOf .iso) .measuring).serving) ∧
    (let s := (measuring (entryOf (copyOf .cap) .measuring) .dwell 0).updMu fun u => { u with dwellNext := .repeatAt 2 };
      inPhase s .dwell = true ∧ s.mu.dwellNext = .repeatAt 2 ∧ (s.inHand.map (·.copy.kind)) = some .cap) ∧
    inPhase (measuring (entryOf (copyOf .res2) .measuring) .guardDwell 1) .guardDwell = true ∧
    (measuring (entryOf (copyOf .res2) .measuring) .guardDwell 1).mu.cut = none := by decide +kernel

theorem witness_PairCheckEnds : checking.mu.op = .pairCheck ∧ checking.mu.phase = some .count ∧
    checking.mu.pair = some ⟨0, .t1, .t2⟩ ∧ checking.mu.cls = .twoWire ∧ checking.mu.range = some 3 ∧
    ((checking.landing .t1).map fun l => (l.method, l.elec, l.partner)) = some (.electrical, .running, some .t2) ∧
    ((checking.landing .t2).map fun l => (l.method, l.elec, l.partner)) = some (.electrical, .running, some .t1) ∧
    (checking.carr .t1).state = .check ∧ (checking.carr .t2).state = .check ∧ checking.pendingOf .t1 = none ∧
    checking.pendingOf .t2 = none ∧ checking.setup.contactLimit ≤ 100000000 ∧ (samples 16 832).length = 16 := by
  decide +kernel

/-- A check of T1 alone: from index 0 the next position is in field, from index 1 position 2 is passed over. -/
theorem witness_PairCheckEnds_alone : let s := relanded
    ((s 0).mu.op = .pairCheck ∧ (s 0).mu.phase = some .count ∧ (s 0).mu.pair = some ⟨0, .t1, .t2⟩ ∧
      ((s 0).carr .t1).state = .check) ∧
    ((s 0).landing .t1).map (fun l => (l.elec, l.method, l.partner)) = some (.running, .electrical, some .t2) ∧
    ((s 0).landing .t2).map (fun l => (l.elec, l.method, l.force)) = some (.notUsed, .force, .watching none 300) ∧
    ((s 0).servedBy .t1).map (fun e => (e.nominalOf .t1, e.partnerOf .t1)) = some (some ⟨52500, 500000⟩, some .t2) ∧
    (((s 0).carr .t1).scrubIndex = 0 ∧ ((s 1).carr .t1).scrubIndex = 1 ∧ (s 0).setup.reland = 3) ∧
    ([1, 2, 3].map fun j => (s 0).setup.inField .t1 (scrubPoint ⟨52500, 500000⟩ (s 0).setup.scrub j)) =
      [true, false, true] := by decide +kernel

theorem witness_CalibrationCounts : (calibrating 3 [1, 2, 3]).mu.op = .calibration ∧
    (calibrating 3 [1, 2, 3]).mu.phase = some .count ∧ (List.replicate 1024 (5 : Code)).length = 1024 ∧
    (calibrating 3 [1, 2, 3]).mu.gain < 4 ∧ (calibrating 4 [1, 2, 3, 4]).mu.gain = 4 ∧
    (calibrating 4 [1, 2, 3, 4]).mu.newZ = [1, 2, 3, 4] ∧ (calibrating 4 [1, 2, 3, 4]).run.state = .powerupCal := by
  decide +kernel

theorem witness_CalibrationCounts_ordered : let s := (calibrating 4 [1, 2, 3, 4]).updRun fun r =>
      { r with state := .calibrating, ret := some .stopped }
    s.mu.op = .calibration ∧ s.run.state = .calibrating ∧ s.mu.calOrder = false ∧ s.run.ret = some .stopped := by
  decide +kernel

/-- Gain 1 clamped, gain 4 not, a frame open, room for both notes, and CALIBRATE given in IDLE. -/
theorem witness_CalibrationCounts_notes : let s := ((calibrating 4 [1, 2047, 3, 4]).updMu fun u =>
      { u with newClamped := [false, true, false, false] }).updRun fun r => { r with state := .calibrating, ret := some .idle }
    let s := s.updFrame fun f => { f with state := .opened }
    s.mu.newClamped = [false, true, false, false] ∧ s.frame.state ≠ .none ∧ s.log.notes.length + 2 ≤ 8 ∧
    (s.run.state = .calibrating ∧ s.mu.calOrder = false ∧ s.run.ret = some .idle) := by decide +kernel

theorem witness_Comparators : overloaded.guard.senseTimer = some 0 ∧ rig.guard.senseTimer = none ∧
    (overloaded.updGuard fun g => { g with sourceTimer := some 5 }).guard.sourceTimer = some 5 ∧
    rig.guard.sourceTimer = none ∧ overloaded.guard.senseCut ≠ some overloaded.clock ∧
    (overloaded.updGuard fun g => { g with senseCut := some 0 }).guard.senseCut = some overloaded.clock := by decide +kernel

/-- From BOARD to BOARD at the end of SETTLE the run goes on, at the end of a pair check both timers stop, and at the end of
DUMMY a comparator asserted before starts its timer. -/
theorem witness_Comparators_watch : let e := entryOf (copyOf .res2) .measuring
    let on (s : State) : State := { s with
      clock := 9, pins := { s.pins with sense := true }
      guard := { s.guard with senseTimer := some 4, senseRaised := true } }
    let settle := on (measuring e .settle 1)
    let dummy := on { measuring e .dummy 1 with mu := { (measuring e .dummy 1).mu with source := .load } }
    (settle.mu.cut = none ∧ settle.inHand.isSome = true ∧ (after .settleEnd settle).guard.senseTimer = some 4 ∧
      (after .settleEnd settle).guard.senseRaised = true) ∧
    ((after (.pairCheckCountEnd []) (on checking)).guard.senseTimer = none ∧
      (after (.pairCheckCountEnd []) (on checking)).guard.senseRaised = false) ∧
    ((after .dummyEnd dummy).guard.senseTimer = some 9 ∧ (after .dummyEnd dummy).mu.phase = some .settle) ∧
    (on volt25).mu.phase = some .count ∧ (on (measuring e .skip 1)).mu.phase = some .skip ∧
    ((on cap2000).mu.phase = some .charge ∧ (cap2000.inHand.map (·.copy.kind)) = some .cap) := by decide +kernel

/-- The hypotheses of the guard's responses, with the overload mode and the retry count. -/
theorem witness_GuardResponses : inPhase overloaded .count = true ∧ Phase.count ≠ .dwell ∧ Phase.count ≠ .guardDwell ∧
    (overloaded.inHand.map (·.retestHeld)) = some false ∧ overloaded.setup.overloadMode = .retry ∧
    overloaded.guard.retries < 3 ∧ overloaded.setup.residualMode = .report ∧ overloaded.log.notes.length < 8 := by
  decide +kernel

theorem witness_GuardResponses_modes : let m (g : GuardMode) (n : Nat) := (overloaded.updSetup fun t =>
      { t with overloadMode := g, dwell := 0 }).updGuard fun q => { q with retries := n }
    inPhase (m .latch 0) .count = true ∧ inPhase (m .ignore 0) .count = true ∧ inPhase (m .retry 3) .count = true ∧
    (m .retry 3).guard.retries = 3 ∧ (m .latch 0).setup.dwell = 0 := by decide +kernel

/-- The same in a dwell, in a guard dwell, and in a pair check. -/
theorem witness_GuardResponses_dwells :
    inPhase (measuring (entryOf (copyOf .iso) .measuring) .dwell 1) .dwell = true ∧
    (let s := measuring (entryOf (copyOf .res2) .measuring) .guardDwell 1;
      inPhase s .guardDwell = true ∧ (s.inHand.map (·.retestHeld)) = some false) ∧
    (checking.mu.op = .pairCheck ∧ checking.mu.phase = some .count ∧ checking.mu.pair = some ⟨0, .t1, .t2⟩ ∧
      ((checking.landing .t1).map fun l => (l.elec, l.partner)) = some (.running, some .t2) ∧
      ((checking.landing .t2).map fun l => (l.elec, l.partner)) = some (.running, some .t1) ∧
      (checking.carr .t1).state = .check ∧ (checking.carr .t2).state = .check ∧ checking.pendingOf .t1 = none ∧
      checking.pendingOf .t2 = none ∧ (checking.entry 0).isSome = true) ∧
    State.reset.mu.op ≠ .measurement ∧ State.reset.mu.op ≠ .pairCheck ∧
    (measuring (entryOf (copyOf .iso) .measuring) .dwell 1).mu.cut = none := by decide +kernel

/-- LATCH in the measurement of slot 0 with a step in MOVING, its T3 in CLAIM_WAIT and B1 on its way, and one WAITING; and in a
pair check. -/
theorem witness_GuardResponses_latch : let m (g : GuardMode) (s : State) := s.updSetup fun t => { t with overloadMode := g }
    let s := m .latch ((((overloaded.setCarr .t3 .travel).modCarr .t3 fun r => { r with phase := some .claimWait }).setCarr .b1
      .travel).modCarr .b1 fun r => { r with phase := some .moving })
    let f (n : Nat) (q : DispatchState) (a : List (Option Carriage)) : Entry := { entryOf (copyOf .res2) q with slot := n, assignment := a }
    let s := s.updDisp fun d => { d with window := d.window ++ [f 1 .moving [some .t3, some .b1], f 2 .waiting []] }
    let u := s.raiseCondition .senseOver
    ((s.disp.window.map (·.slot)).Nodup ∧ s.mu.phase = some .count ∧ s.mu.op = .measurement ∧
      (s.inHand.map (·.serving)) = some [.t1, .t2] ∧ s.pendingOf .t1 = none ∧ s.pendingOf .t2 = none) ∧
    (u.disp.window.map fun e => (e.state, e.outcome.map (·.cause))) =
      [(.lifting, some .guard), (.lifting, some .halted), (.waiting, none)] ∧
    ((u.carr .t3).state = .idle ∧ (u.carr .b1).state = .travel ∧ (u.carr .b1).ended = true ∧ (u.carr .t1).state = .lift) ∧
    (let c := m .latch checking;
      c.mu.op = .pairCheck ∧ c.mu.pair ≠ none ∧ c.mu.phase ≠ none ∧ c.setup.overloadMode = .latch ∧
      ((c.raiseCondition .senseOver).landing .t1) = none) := by decide +kernel

theorem witness_StartReads : awaitingSetup.run.state = .starting ∧ awaitingSetup.run.stage = some .setupRecord ∧
    (parseSetup setupBytes).valid = true ∧ (parseSetup (List.replicate 256 0)).valid = false ∧
    (awaitingSetup.updRun fun r => { r with stage := some .stationBlock }).run.stage = some .stationBlock := by
  decide +kernel

/-- The header read of the rig, its frame OPEN, with an expected sequence. -/
def headed (e : Option Word32) : State :=
  { fetching .header .header with
    frame := { State.reset.frame with state := .opened }, fetch := { (fetching .header .header).fetch with expected := e } }

theorem witness_HeaderChecked : (headed none).fetch.reading = some ⟨.header, false, false⟩ ∧ (headed none).fetch.pos.isSome = true ∧
    ((headed (some 5)).fetch.expected ≠ none ∧ (headed (some 5)).fetch.expected ≠ some (BitVec.ofNat 32 (fieldAt header4 0 4))) ∧
    segmentKindOf (byteAt [4, 0, 0, 0, 4] 4) = none ∧
    (segmentKindOf (byteAt header4 4) = some .steps ∧ (fetching .header .header).frame.state ≠ .opened ∧
      (headed (some 4)).frame.state = .opened) ∧
    segmentKindOf (byteAt [4, 0, 0, 0, 2] 4) = some .boardBegin ∧ segmentKindOf (byteAt [4, 0, 0, 0, 3] 4) = some .boardEnd := by
  decide +kernel

/-- A BOARD_END with its PARK flag, and one without. -/
theorem witness_HeaderChecked_park : let b (f : Byte) : List Byte := [4, 0, 0, 0, 3] ++ List.replicate 11 0 ++ [f]
    Nat.testBit (byteAt (b 1) 0x10) 0 = true ∧ Nat.testBit (byteAt (b 0) 0x10) 0 = false ∧
    (fetching .header .header).run.state ∈ [.running, .draining] ∧ (fetching .header .header).frame.state ≠ .opened := by
  decide +kernel

/-- R161: the body of a BOARD_BEGIN with a net count of 0, a top dx of 5,001 µm and a bottom dy of −5,000. -/
theorem test_headerRead_body :
    let offsets : List Byte := leSigned 4 5001 ++ leSigned 4 0 ++ leSigned 4 0 ++ leSigned 4 (-5000)
    let body : List Byte := leBytes 8 77 ++ leBytes 4 5 ++ leBytes 4 0 ++ offsets ++ leBytes 8 0x9001
    parseBoardBegin (leBytes 4 4 ++ [2] ++ List.replicate 11 0 ++ body) =
      ⟨77, 5, ⟨⟨5000, 0⟩, ⟨0, -5000⟩⟩, 1, 0x9001, 4, 1⟩ := by decide +kernel

theorem witness_RecordAdmitted : let s := fetching .record (.records 1)
    s.fetch.reading = some ⟨.record, false, false⟩ ∧ s.fetch.pos = some ⟨0x1000, 4, .steps, 2, .records 1⟩ ∧
    s.freeSlot = some 0 ∧ (s.judge (parseStep (List.replicate 80 0)) 4).2 = some (.badStep, 256) := by decide +kernel

/-- A RES2 step on (55,000; 0) and (155,000; 0) of the rig's top side passes every check. -/
def goodRecord : List Byte :=
  leBytes 4 7 ++ [1, 2, 0, 0, 3, 0, 0, 4] ++ leBytes 2 5 ++ List.replicate 18 0 ++
    [0, 1] ++ leBytes 2 3 ++ leBytes 4 55000 ++ leBytes 4 0 ++ [0, 2] ++ leBytes 2 4 ++ leBytes 4 155000 ++ leBytes 4 0 ++
    List.replicate 24 0

theorem witness_RecordAdmitted_waiting : let s := { fetching .record (.records 1) with
      frame := { State.reset.frame with state := .opened, netCount := 5 } }
    s.freeSlot = some 0 ∧ (s.judge (parseStep goodRecord) 4).2 = none := by decide +kernel

/-- Checks 10 and 11 of that step: outside the field on its second point, and with T2 in FAULT. -/
theorem witness_RecordAdmitted_judge : let s := { fetching .record (.records 1) with
      frame := { State.reset.frame with state := .opened, netCount := 5 } }
    (parseStep goodRecord).failing 5 = none ∧ (parseStep (List.replicate 80 0)).failing 5 = some (1, 0) ∧
    ((s.updSetup fun t => { t with fields := .both ⟨0, 155000⟩ }).judge (parseStep goodRecord) 4).2 =
      some (.outOfField, 2561) ∧
    ((s.setCarr .t2 .fault).judge (parseStep goodRecord) 4).2 = some (.noCarriages, 2816) := by decide +kernel

/-- Records that pass checks 1 to 9 at the bounds of the clamps: K = W and W − 1, gain initial at and over the maximum, settle
1,023 and 1,024, and a CAP threshold of 99 and 100. -/
theorem witness_RecordAdmitted_copy : let r := { parseStep goodRecord with gainMax := 3 }
    let c := { r with kind := 5, range := 0 }
    let copied (r : RawStep) := let k := r.copy true 4 (.both ⟨-10, 20⟩) 5;
      ([k.skip, k.gainInit, k.settle, k.threshold], k.clamped)
    let l : List RawStep := [{ r with skip := 5 }, { r with skip := 4 }, { r with gainInit := 4 }, { r with gainInit := 3 },
      { r with settle := 1024 }, { r with settle := 1023 }, { c with threshold := 99, skip := 9 }, { c with threshold := 100 }]
    (∀ r ∈ l, r.failing 5 = none) ∧ (∀ p ∈ r.used, (sideCode p.side).isSome = true ∧ (roleOf p.role).isSome = true) ∧
    l.map copied = [([4, 0, 0, 0], true), ([4, 0, 0, 0], false), ([0, 3, 0, 0], true), ([0, 3, 0, 0], false),
      ([0, 0, 1023, 0], true), ([0, 0, 1023, 0], false), ([9, 0, 0, 100], true), ([0, 0, 0, 100], false)] := by decide +kernel

/-- R17: a step ended by check 10 reports the gain initial as read, 4, though the copy of it is kept within gain maximum. -/
theorem test_recordRead_gain : ((outcome0 (after (.recordRead ((goodRecord.set 9 4).set 11 2))
    { fetching .record (.records 1) with
      setup := { rigSetup with fields := .both ⟨0, 155000⟩ }
      frame := { State.reset.frame with state := .opened, netCount := 5 } })).map fun o => (o.cause, o.gain)) =
      some (.outOfField, 4) := by decide +kernel

/-- Raw steps that fail checks 1 to 9 one by one, at a net count of 5. -/
theorem witness_AdmissionChecks : let r := parseStep goodRecord
    let c := { r with kind := 5, range := 0, threshold := 5000 }
    kindOf r.kind.toNat = some .res2 ∧ r.failing 5 = none ∧ ({ r with kind := 0 } : RawStep).failing 5 = some (1, 0) ∧
    ({ r with probes := 4 } : RawStep).failing 5 = some (2, 0) ∧ ({ r with kind := 3, probes := 4 } : RawStep).failing 5 = some (3, 0) ∧
    ({ r with range := 1 } : RawStep).failing 5 = some (4, 0) ∧ ({ r with gainMin := 5 } : RawStep).failing 5 = some (5, 0) ∧
    ({ r with window := 0 } : RawStep).failing 5 = some (6, 0) ∧ ({ r with retest := 4 } : RawStep).failing 5 = some (6, 0) ∧
    ({ r with flags := 0x18, lo := 1 } : RawStep).failing 5 = some (7, 0) ∧ r.failing 4 = some (8, 1) ∧
    c.failing 5 = none ∧ ({ c with threshold := 5001 } : RawStep).failing 5 = some (9, 0) := by decide +kernel

theorem witness_LinkTaken : let s := fetching .link .link
    s.fetch.reading = some ⟨.link, false, false⟩ ∧ s.fetch.pos.isSome = true ∧ (0x2003 : Word64) &&& ~~~7 ≠ 0 ∧
    (7 : Word64) &&& ~~~7 = 0 ∧ s.fetch.reread = false ∧ s.fetch.hold = none ∧ s.fetch.waiting = false ∧
    s.run.state = .running ∧ (rig.updFetch fun f => { f with reading := some ⟨.link, true, false⟩ }).fetch.reading =
      some ⟨.link, true, false⟩ := by decide +kernel

/-- A re-read that has outlived a leaving of RUNNING, and one read out of it. -/
theorem witness_LinkTaken_outlived : let s := (fetching .link .link).updFetch fun f => { f with reading := some ⟨.link, false, true⟩ }
    s.fetch.reading = some ⟨.link, false, true⟩ ∧ s.fetch.waiting = false ∧ s.run.state = .running ∧
    (s.updRun fun r => { r with state := .stopped }).run.state ≠ .running := by decide +kernel

/-- R180: a 0 that it gives in RUNNING enters CHAIN_WAIT with its cause; one read in STOPPED raises nothing. -/
theorem test_linkRead_outlived : let s := (fetching .link .link).updFetch fun f => { f with reading := some ⟨.link, false, true⟩ }
    ((after (.linkRead 0) s).fetch.waiting = true ∧ (after (.linkRead 0) s).regs.intStatus = 4) ∧
    (let t := after (.linkRead 0) (s.updRun fun r => { r with state := .stopped });
      t.fetch.waiting = false ∧ t.regs.intStatus = 0) := by decide +kernel

theorem witness_LinkTaken_reread : let s := (fetching .link .link).updFetch fun f =>
      { f with reread := true, waiting := true, hold := some .park }
    s.fetch.reading = some ⟨.link, false, false⟩ ∧ s.fetch.reread = true ∧ s.run.state = .running ∧ s.fetch.hold ≠ none := by
  decide +kernel

/-- The Fetcher's own progress: each phase of the position, the retire list at 31 and at 32, refill active and not, and the
hold that is over. -/
theorem witness_LinkTaken_kick : let s (ph : FetchPhase) (n : Nat) (r : Bool) : State := rig.updFetch fun f =>
      { f with pos := some ⟨0x1000, 4, .steps, 2, ph⟩, refill := r, retire := List.replicate n ⟨4, .steps, false, 2⟩ }
    let read (s : State) := s.fetchKick.fetch.reading.map (·.kind)
    (read (s .header 31 false) = some .header ∧ read (s .waitList 31 false) = some .header ∧ read (s .header 32 false) = none ∧
      (s .header 32 false).fetchKick.fetch.pos.map (·.phase) = some .waitList) ∧
    (read (s (.records 0) 1 true) = some .record ∧ read (s (.records 0) 1 false) = none ∧ read (s .link 1 false) = some .link) ∧
    (read ((s .link 1 false).updFetch fun f => { f with waiting := true }) = none ∧
      read ((s .hold 1 false).updFetch fun f => { f with next := some 0x2000 }) = some .header ∧
      read ((s .hold 1 false).updFetch fun f => { f with hold := some .park }) = none) ∧
    (read ((s .link 1 false).updRun fun r => { r with state := .draining }) = none ∧ rig.fetch.pos = none ∧
      rig.fetch.reading = none ∧ rig.fetch.broken = false ∧ rig.fetch.waiting = false ∧ rig.log.room = .ready) := by
  decide +kernel

/-- R178: refill at 11, 12, 15 and 16 occupied slots, active before or not. -/
theorem witness_LinkTaken_refill : let s (n : Nat) (r : Bool) : State :=
      { rig with
        disp := { rig.disp with window := List.replicate n (entryOf (copyOf .res2) .waiting) }
        fetch := { rig.fetch with refill := r } }
    [11, 12, 15, 16].map (fun n => ((s n false).updateRefill.fetch.refill, (s n true).updateRefill.fetch.refill)) =
      [(true, true), (false, true), (false, true), (false, false)] := by decide +kernel

/-- A full log with a note to write, its drained count being read. -/
def fullLog : State :=
  let n : Note := ⟨.calDone, none, 0, 0, 0, 0⟩
  { rig with
    frame := { State.reset.frame with state := .opened }
    log := { rig.log with reading := true, published := 64, notes := [⟨n, 0⟩] } }

theorem witness_PollAndDrained : fullLog.log.reading = true ∧ fullLog.log.reread = false ∧ fullLog.log.writing = none ∧
    ((fullLog.nextEntry.map fun k => fullLog.log.hasRoom k) = some false) ∧
    (rig.updFetch fun f => { f with pollOn := true }).fetch.pollOn = true ∧ rig.fetch.pollOn = false ∧
    (fullLog.updLog fun l => { l with reread := true }).log.reread = true := by decide +kernel

/-- Free rooms 0, 1 and 2. -/
theorem witness_PollAndDrained_room : [64, 63, 62].map (fun n => let l : LogWriter := { fullLog.log with published := n };
      ((l.capacity : Int) - (l.published - l.drained).toNat, l.hasRoom .frameEnd, l.hasRoom .note)) =
    [(0, false, false), (1, true, false), (2, true, true)] := by decide +kernel

/-- A FRAME_START and a FRAME_END due, either list head offered earlier, nothing due, and a RESULT with an outcome refused. -/
theorem witness_PollAndDrained_next : let n : Note := ⟨.calDone, none, 0, 0, 0, 0⟩
    let b : BoardBegin := ⟨1, 2, .both ⟨0, 0⟩, 40, 0x9000, 4, 0⟩
    let s (f : FrameState) (r k : Nat) : State :=
      (rig.updFrame fun q => { q with state := f }).updLog fun l => { l with results := [⟨0, r⟩], notes := [⟨n, k⟩] }
    (let t := rig.updLog fun l => { l with due := some b };
      t.nextEntry = some (.frameStart b) ∧ t.frame.state = .none ∧ t.mu.calOrder = false ∧ t.mu.op ≠ .calibration) ∧
    ((s .opened 1 2).updFrame fun q => { q with abortDiscards := some 0 }).nextEntry = some .frameEnd ∧
    ((s .closing 1 2).updFrame fun q => { q with imageAddr := 0 }).nextEntry = some .frameEnd ∧
    (s .opened 1 2).nextEntry = some (.result 0) ∧ (s .opened 2 1).nextEntry = some .note ∧
    (s .none 2 1).nextEntry = some (.result 0) ∧ rig.nextEntry = none ∧ rig.log.writing = none ∧ rig.log.room = .ready ∧
    (rig.updLog fun l => { l with room := .roomWait }).log.room = .roomWait ∧
    ((s .opened 1 2).updDisp fun d => { d with refused := [3] }).logKick.log.results.map (·.slot) = [3] := by decide +kernel

/-- R184: a read with a re-read owed is followed by the test too. -/
theorem test_drainedRead_reread : let t := after (.drainedRead 0) (fullLog.updLog fun l => { l with reread := true })
    t.log.room = .roomWait ∧ t.log.reading = true := by decide +kernel

/-- A BOARD_BEGIN of 40 nets. -/
def begin40 : BoardBegin := ⟨1, 2, .both ⟨0, 0⟩, 40, 0x9000, 4, 0⟩

theorem witness_EntriesWritten : (writingIn .note .bytes).log.writing = some ⟨.note, List.replicate 32 0xA5, .bytes⟩ ∧
    (writingIn (.frameStart begin40) .bytes).log.writing = some ⟨.frameStart begin40, List.replicate 32 0xA5, .bytes⟩ ∧
    (writingIn .frameEnd .bytes).log.writing = some ⟨.frameEnd, List.replicate 32 0xA5, .bytes⟩ ∧
    (writingIn (.result 0) .bytes).log.writing = some ⟨.result 0, List.replicate 32 0xA5, .bytes⟩ ∧
    ((writingIn (.result 0) .bytes).entry 0).isSome = true ∧ (outcome0 (writingIn (.result 0) .bytes)).isSome = true ∧
    (List.replicate 32 (0xA5 : Byte)).length = 32 ∧ (List.replicate 32 (0xA5 : Byte))[31]? = some 0xA5 ∧
    imaging.frame.imageBusy = true ∧ imaging.nets.inUse ≤ 4096 ∧ rig.log.writing = none ∧ rig.frame.imageBusy = false ∧
    (∀ i < 4, (0x100000 : Word64) ≠ 0x5000 + BitVec.ofNat 64 (0x28 + i)) := by decide +kernel

/-- A FRAME_START with an offset clamped, the held-note list free and full, that retires its BOARD_BEGIN, and a FRAME_END that
retires its BOARD_END or, after a close by NEXT_BEGIN, nothing. -/
theorem witness_EntriesWritten_retires : let b := { begin40 with clampMarks := 3 }
    let n : HeldNote := ⟨⟨.calDone, none, 0, 0, 0, 0⟩, 0⟩
    let retire (k : SegmentKind) (s : State) : State := s.updFetch fun f => { f with retire := [⟨4, k, true, 1⟩] }
    let s := retire .boardBegin (writingIn (.frameStart b) .bytes)
    let ends (r : CloseReason) := retire .boardEnd ((writingIn .frameEnd .bytes).updFrame fun f => { f with reason := some r })
    ((after .entryWritten s).log.notes.map (·.note.code) = [3] ∧ (after .entryWritten s).fetch.retire = [] ∧
      (after .entryWritten s).fetch.retiredSeq = 4 ∧ b.clampMarks ≠ 0 ∧ begin40.clampMarks = 0) ∧
    ((s.updLog fun l => { l with notes := List.replicate 8 n }).log.notes.length = 8 ∧
      (after .entryWritten (s.updLog fun l => { l with notes := List.replicate 8 n, dropped := 5 })).log.dropped = 1) ∧
    ((after .entryWritten (ends .boardEnd)).fetch.retiredSeq = 4 ∧ (after .entryWritten (ends .nextBegin)).fetch.retiredSeq = 0 ∧
      (after .entryWritten (ends .nextBegin)).fetch.retire.length = 1) := by decide +kernel

theorem witness_PublicationCompletes :
    (writingIn (.result 0) .publish).log.writing = some ⟨.result 0, List.replicate 32 0xA5, .publish⟩ ∧
    (writingIn .note .publish).log.writing = some ⟨.note, List.replicate 32 0xA5, .publish⟩ ∧
    (writingIn .frameEnd .publish).log.writing = some ⟨.frameEnd, List.replicate 32 0xA5, .publish⟩ ∧
    (writingIn (.result 0) .publish).entry 0 ≠ none ∧
    (let s := (writingIn .note .publish).updLog fun l => { l with notify := 2 };
      ¬ s.log.notify ≤ (s.log.published + 1 - s.log.notified).toNat) ∧
    (writingIn (.result 3) .publish).entry 3 = none := by decide +kernel

/-- The publication of the last RESULT that a left segment owes lets its sequence retire (R182). -/
theorem test_publication_retires : let s := (writingIn (.result 0) .publish).updFetch fun f =>
      { f with retire := [⟨9, .steps, true, 1⟩, ⟨10, .boardEnd, false, 0⟩] }
    (after .publication s).fetch.retiredSeq = 9 ∧ (after .publication s).fetch.retire = [⟨10, .boardEnd, false, 0⟩] := by
  decide +kernel

theorem witness_ResultLayout : (-140737488355328 : Int) ≤ -140737488355328 ∧ (140737488355327 : Int) < 140737488355328 ∧
    keysRise imaging.nets.recs = true ∧ (1 < imaging.nets.inUse ∧ (imaging.nets.get 1).verdict = .fail ∧
      (imaging.nets.get 1).firstTag = some 7 ∧ (imaging.nets.get 0).verdict ≠ .fail) ∧ begin40.netCount < 65536 ∧
    (∀ n < rig.nets.inUse, (rig.nets.get n).verdict ≠ .fail) := by decide +kernel

theorem witness_NetAndBoardVerdicts : (∃ p ∈ (copyOf .res2).points, p.net = 3) ∧ (∀ p ∈ (copyOf .res2).points, p.net ≠ 5) ∧
    keysRise imaging.nets.recs = true ∧ (imaging.nets.get 1).verdict = .fail ∧ 1 < imaging.nets.inUse ∧
    imaging.frame.reason ≠ some .nextBegin := by decide +kernel

/-- R96, R100: two LIFTING steps without a carriage, with places for one outcome and for none. -/
theorem witness_NetAndBoardVerdicts_held : let o := outcome0 (writingIn .note .bytes)
    let f (n : Nat) : Entry := { entryOf (copyOf .res2) .lifting with slot := n, assignment := [none, none], outcome := o }
    let s (k : Nat) : State := { rig with
      disp := { rig.disp with window := [f 4, f 2] }, log := { rig.log with results := List.replicate k ⟨9, 0⟩ } }
    ((s 2).disp.window.map (·.slot)).Nodup ∧ (s 2).holdLifted.disp.window.map (·.state) = [.held, .held] ∧
    ((s 2).holdLifted.log.results.map (·.slot) = [9, 9, 4] ∧ (s 2).holdLifted.disp.refused = [2]) ∧
    (s 3).holdLifted.disp.refused = [4, 2] ∧ ((s 2).holdLifted.nets.get 3).verdict = .pass ∧
    (s 2).entry 4 = some (f 4) ∧ o.isSome = true ∧ rig.entry 0 = none := by decide +kernel

theorem witness_SpanAndSweep : (spanAt 7 127).hi = 127 ∧ (sweepAt 2 3 0).lo = 0 ∧ min 3 0 ≤ 1 ∧ 1 ≤ max 3 0 := by decide

/-- A request of T1 with its target set, for each of the four answers. -/
theorem witness_ClaimAnswers : ((moving .step).carr .t1).target = some ⟨72500, 40⟩ ∧
    (moving .step).claimAnswer .t1 ⟨12, 27⟩ = .granted ∧ (moving .step).claimAnswer .t1 ⟨12, 28⟩ = .pending ∧
    (moving .step).claimAnswer .t3 ⟨40, 44⟩ = .denied ∧
    ((moving .step).setCarr .t2 .fault).claimAnswer .t1 ⟨12, 28⟩ = .blocked := by decide +kernel

theorem witness_ReviewGrants : waiting.ClaimLaws ∧ (waiting.table .top).pend = [⟨.t2, .step, ⟨20, 32⟩⟩] :=
  ⟨waiting_laws, by decide +kernel⟩

/-- The assignment of 2.10: T1 on HI and T2 on LO, T3 packed outward to lane 52. -/
def worked : State :=
  let c (tip : Int) (g : Nat) : CarriageSetup := ⟨true, tip, 0, 0, g, .force, 0, 0, 0⟩
  let at_ (x : Int) : CarriageRec := { CarriageRec.reset with state := .idle, position := some ⟨x, 0⟩, probeUp := true }
  let paints : List (Option Carriage) → List (Option Carriage) := fun l =>
    paint ⟨16, 20⟩ (some .t1) (paint ⟨28, 32⟩ (some .t2) (paint ⟨39, 41⟩ (some .t3) (paint ⟨76, 80⟩ (some .t4) l)))
  { rig with
    setup := { rigSetup with
      fields := ⟨⟨10000, 650000⟩, ⟨15000, 645000⟩⟩
      carriages := ⟨c 8000 2, c (-6000) 2, c 4000 1, c (-12000) 2, c 10000 2, c (-10000) 2⟩ }
    claims := { rig.claims with top := ⟨paints (List.replicate 128 none), []⟩ }
    carriages := ⟨at_ 100000, at_ 160000, at_ 210000, { at_ 400000 with state := .ready }, .reset, .reset⟩ }

/-- The points of that step. -/
def workedPoints : List Point := [⟨.top, .hi, 1, ⟨236000, 120000⟩⟩, ⟨.top, .lo, 2, ⟨246000, 120000⟩⟩]

theorem test_worked_dispatch : (worked.choose .top workedPoints).map (·.lanes) = some [(.t1, 43), (.t2, 48)] ∧
    worked.setup.lanePos .top 52 = 272500 := by decide +kernel

theorem witness_ReachabilityRule : workedPoints ≠ [] ∧ worked.setup.fieldLanes .top ≤ 128 ∧
    worked.sideReaches .top workedPoints = true ∧ (worked.inService .top).length < [0, 1, 2, 3, 4].length ∧
    (worked.carr .t4).inService = true := by decide +kernel

/-- A WAITING step of more points than T1 and T2 serve, its gain initial clamped at admission from 4 to 1. -/
def starved : Entry :=
  newEntry 0 { copyOf .res2 with gainRead := 4, points := List.replicate 3 ⟨.top, .hi, 3, ⟨52500, 0⟩⟩ }

/-- R13, R17 and R82 on it: NO_CARRIAGES, 2,816, and the gain as read. -/
theorem witness_ReachabilityRule_ends : let s := { rig with disp := { rig.disp with window := [starved] } }
    s.entry starved.slot = some starved ∧ starved.state = .waiting ∧ starved.outcome = none ∧
    s.unreachable starved.copy = some .noCarriages ∧
    ((outcome0 (s.testReach starved)).map fun o => (o.cause, o.value, o.gain)) = some (.noCarriages, 2816, 4) ∧
    s.unreachable (copyOf .res2) = none := by decide +kernel

theorem witness_LeastTravelWins : (worked.choose .top workedPoints).isSome = true ∧
    [.t1, .t2] ∈ injections workedPoints (worked.inService .top) := by decide +kernel

theorem witness_LeastTravelWins_choice : worked.setup.fieldLanes .top ≤ 128 ∧ workedPoints ≠ [] ∧
    (worked.choiceOf .top workedPoints [.t1, .t2]).map (fun h => (h.lanes, h.yields, h.cost)) =
      some ([(.t1, 43), (.t2, 48)], [(.t3, 52)], 55) ∧
    worked.setup.laneFor .t1 (236000 - 8000) = 43 ∧ worked.setup.laneFor .t2 (246000 + 6000) = 48 := by decide +kernel

/-- The step of 2.10 in the window of that machine, behind a WAITING step that needs T4. -/
def workedWindow : State :=
  let e (n : Nat) (l : List Point) (skip : Bool) : Entry :=
    { newEntry n { copyOf .res2 with points := l, skipIfNetFailed := skip } with slot := n }
  { worked with
    disp := { worked.disp with window :=
      [e 0 [⟨.top, .hi, 7, ⟨400000, 0⟩⟩, ⟨.top, .lo, 8, ⟨410000, 0⟩⟩, ⟨.top, .hi, 9, ⟨420000, 0⟩⟩] false,
        e 1 workedPoints true] } }

/-- R83 to R92 on it: the older step is passed over and its overtake count raised; the younger one is dispatched with T3's
yield; with its net FAIL it is SKIPPED instead. -/
theorem witness_DispatchScan : let s := workedWindow
    let t := s.scan 17
    s.run.state = .running ∧ (s.disp.window.map (·.slot)) = [0, 1] ∧
    (t.disp.window.map fun e => (e.state, e.overtake, e.assignment)) =
      [(.waiting, 1, []), (.moving, 0, [some .t1, some .t2])] ∧
    ((t.entry 1).map (·.yields)) = some [⟨.t3, 52, false⟩] ∧
    (((s.updNets fun n => n.put 2 ⟨.fail, 1, some 7⟩).scan 17).disp.window.map fun e => (e.state, e.overtake)) =
      [(.waiting, 0), (.held, 0)] := by decide +kernel

/-- With only the scan owed, the stage ends with it; after a skip, which calls for a further scan, it goes on. -/
theorem witness_DispatchScan_stage : let s := workedWindow.markScan
    let only (s : State) : Bool := s.disp.scan && s.disp.withdraw.isEmpty && !s.disp.reach &&
      s.disp.window.all fun e => e.state != .lifting
    let failed := s.updNets fun n => n.put 2 ⟨.fail, 1, some 7⟩
    let scanned (s : State) : State := State.scan 17 { s with disp := { s.disp with scan := false } }
    (only s = true ∧ (scanned s).dispatchOwed = false) ∧ only failed = true ∧ (scanned failed).dispatchOwed = true := by
  decide +kernel

theorem witness_ValuesAndClips : 0 < 1 ∧ StopKind.timerLimit ≠ .threshold ∧ (16777215 : Nat) ≤ 16777215 ∧ 3 ≤ 3 ∧
    100 ≤ 100 := by decide

theorem witness_AttemptVerdicts : (0 : Int) ≤ 0 ∧ (parseStep goodRecord).failing 5 = none ∧
    (let r := { parseStep goodRecord with flags := 0x18 };
      r.failing 5 = none ∧ r.flag 3 = true ∧ r.flag 4 = true) ∧ StopKind.compliance ≠ .threshold := by decide +kernel

end Sys2Proof.Tests
end

section
/-! PROOFS. The span and the sweep of a carriage, and the guard read from a setup record (R23). -/

namespace Sys2Proof.Machine

/-! ## Spans and sweeps for a guard -/

/-- The lanes of a span are those no further than the guard from its lane. -/
theorem mem_spanAt (g l n : Nat) :
    (spanAt g l).lo ≤ n ∧ n ≤ (spanAt g l).hi ↔ l ≤ n + g ∧ n ≤ l + g ∧ n ≤ 127 := by
  simp only [spanAt, lastLane, Config.lanes]
  omega

/-- The lanes of a sweep are those no further than the guard from the lanes between its ends. -/
theorem mem_sweepAt (g l0 l1 n : Nat) :
    (sweepAt g l0 l1).lo ≤ n ∧ n ≤ (sweepAt g l0 l1).hi ↔
      min l0 l1 ≤ n + g ∧ n ≤ max l0 l1 + g ∧ n ≤ 127 := by
  simp only [sweepAt, lastLane, Config.lanes]
  omega

/-- Every lane of the side between the ends of a move is in its sweep, whatever the guard. -/
theorem between_mem_sweepAt (g : Nat) {l0 l1 n : Nat} (hlo : min l0 l1 ≤ n) (hhi : n ≤ max l0 l1) (hn : n ≤ 127) :
    (sweepAt g l0 l1).lo ≤ n ∧ n ≤ (sweepAt g l0 l1).hi :=
  (mem_sweepAt g l0 l1 n).2 ⟨Nat.le_add_right_of_le hlo, Nat.le_add_right_of_le hhi, hn⟩

/-- A sweep is the smallest interval that contains the spans at both ends: the cut to 0..127 keeps their order. -/
theorem sweepAt_eq_hull (g l0 l1 : Nat) : sweepAt g l0 l1 = (spanAt g l0).hull (spanAt g l1) := by
  simp only [sweepAt, spanAt, Interval.hull, Interval.mk.injEq]
  omega

theorem Interval.hull_self (i : Interval) : i.hull i = i := by
  simp [Interval.hull]

theorem Interval.hull_bounds_left (i j : Interval) : (i.hull j).lo ≤ i.lo ∧ i.hi ≤ (i.hull j).hi :=
  ⟨Nat.min_le_left .., Nat.le_max_left ..⟩

theorem Interval.hull_bounds_right (i j : Interval) : (i.hull j).lo ≤ j.lo ∧ j.hi ≤ (i.hull j).hi :=
  ⟨Nat.min_le_right .., Nat.le_max_right ..⟩

/-- The sweep of a move of a carriage is the hull of its spans at the two lanes. -/
theorem Setup.sweep_eq_hull (t : Setup) (c : Carriage) (l0 l1 : Nat) :
    t.sweep c l0 l1 = (t.span c l0).hull (t.span c l1) :=
  sweepAt_eq_hull ..

/-! ## The guard of a setup record -/

/-- The block of each carriage in a setup record: 32 bytes a carriage from 0x40, in the order of the drive numbers, as
the enable bits are (R200). -/
theorem parseSetup_carriage (b : List Byte) (c : Carriage) :
    (parseSetup b).carriages.get c =
      parseCarriage b (0x40 + 0x20 * (driveNumber c - 1)) (driveNumber c - 1) := by
  cases c <;> rfl

/-- The guard is the byte at 0x0C of the carriage's block, clamped (R23, R200). -/
theorem parseSetup_guard (b : List Byte) (c : Carriage) : ((parseSetup b).carriages.get c).guard =
    min 7 (byteAt b (0x40 + 0x20 * (driveNumber c - 1) + 0x0C)) := by
  rw [parseSetup_carriage, parseCarriage]

/-- Settles O53: a sweep is the hull of the spans at its ends, which gives its bounds on them and its value for equal
ends; the lanes of each are read from its edges, and the guard from the carriage's block. -/
theorem spanAndSweep : Obligations.SpanAndSweep := by
  unfold Obligations.SpanAndSweep
  refine ⟨fun t c l0 l1 n => ⟨mem_spanAt .., mem_sweepAt .., ?_, ?_, between_mem_sweepAt _, ?_⟩,
    parseSetup_guard, by decide, by decide⟩
  · rw [t.sweep_eq_hull]
    exact Interval.hull_bounds_left ..
  · rw [t.sweep_eq_hull]
    exact Interval.hull_bounds_right ..
  · rw [t.sweep_eq_hull, Interval.hull_self]

end Sys2Proof.Machine
end

section
/-! PROOFS. The verdict of an attempt: the unclipped comparison, the order of the limits that admission checks, and the
outcome of a clipped conversion (R130, R139, R140). -/

namespace Sys2Proof.Machine

/-! ## The unclipped comparison -/

section
variable {loP hiP : Bool} {lo hi v : Int}

theorem verdictOf_unclipped (loP hiP : Bool) (lo hi v : Int) : verdictOf loP hiP lo hi none v =
    if loP ∧ v < lo then .low else if hiP ∧ hi < v then .high else .pass := rfl

theorem verdictOf_unclipped_eq_low_iff : verdictOf loP hiP lo hi none v = .low ↔ loP = true ∧ v < lo := by
  rw [verdictOf_unclipped]
  split_ifs with hlow hhigh <;> simp [hlow]

/-- LOW is tested first; limits in order keep it from hiding a HIGH. -/
theorem verdictOf_unclipped_eq_high_iff (hord : loP = true → hiP = true → lo ≤ hi) :
    verdictOf loP hiP lo hi none v = .high ↔ hiP = true ∧ hi < v := by
  rw [verdictOf_unclipped]
  split_ifs with hlow hhigh
  · have not_high : ¬ (hiP = true ∧ hi < v) := fun ⟨hp, hv⟩ => by
      have := hord hlow.1 hp
      omega
    simp [not_high]
  · simp [hhigh]
  · simp only [hhigh]

theorem verdictOf_unclipped_eq_pass_iff :
    verdictOf loP hiP lo hi none v = .pass ↔ (loP = true → lo ≤ v) ∧ (hiP = true → v ≤ hi) := by
  rw [verdictOf_unclipped]
  split_ifs with hlow hhigh
  · have not_within : ¬ (loP = true → lo ≤ v) := fun h => not_le.2 hlow.2 (h hlow.1)
    simp [not_within]
  · have not_within : ¬ (hiP = true → v ≤ hi) := fun h => not_le.2 hhigh.2 (h hhigh.1)
    simp [not_within]
  · simpa using And.intro hlow hhigh
end

/-! ## The tables of the two clip ends -/

theorem verdictOf_clipped_positive (lo hi v : Int) : (∀ p, verdictOf p true lo hi (some .positive) v = .high) ∧
    verdictOf false false lo hi (some .positive) v = .pass ∧
    verdictOf true false lo hi (some .positive) v = if lo ≤ v then .pass else .unresolved := by
  refine ⟨fun _ => rfl, rfl, ?_⟩
  by_cases h : lo ≤ v <;> simp [verdictOf, h]

theorem verdictOf_clipped_negative (lo hi v : Int) : (∀ p, verdictOf true p lo hi (some .negative) v = .low) ∧
    verdictOf false false lo hi (some .negative) v = .pass ∧
    verdictOf false true lo hi (some .negative) v = if v ≤ hi then .pass else .unresolved := by
  refine ⟨fun _ => rfl, rfl, ?_⟩
  by_cases h : v ≤ hi <;> simp [verdictOf, h]

/-! ## The limits of an admitted step -/

/-- Limits out of order fail check 7, unless an earlier check fails (R12). -/
theorem RawStep.failing_ne_none_of_hi_lt_lo {r : RawStep} (hlo : r.flag 3 = true) (hhi : r.flag 4 = true)
    (h : r.hi < r.lo) (n : Nat) : r.failing n ≠ none := by
  unfold RawStep.failing
  cases kindOf r.kind.toNat with
  | none => simp
  | some k =>
    cases hrole : badRole k 0 [] r.used with
    | some i => simp only [hrole]; split <;> simp
    | none => simp only [hrole, hlo, hhi, h, and_self, if_true]; split_ifs <;> simp

/-! ## The clip end and the outcome of a clipped conversion -/

theorem Kind.isVoltage_iff (k : Kind) : k.isVoltage = true ↔ k = .volt ∨ k = .diode := by
  cases k <;> decide

theorem clipEndOf_eq (k : Kind) (a : Int) :
    clipEndOf k a = if (k = .volt ∨ k = .diode) ∧ a < 0 then .negative else .positive := by
  simp only [clipEndOf, Bool.and_eq_true, k.isVoltage_iff, decide_eq_true_eq]

theorem sampledConversion_clipped (k : Kind) (a : Int) (n range gain leads : Nat) :
    sampledConversion k a true n range gain leads =
      ⟨clipValue k range gain 1 (clipEndOf k a), some (clipEndOf k a), gain, range⟩ := rfl

theorem chargeConversion_clipped {stop : StopKind} (h : stop ≠ .threshold) (ticks range gain threshold strays : Nat) :
    chargeConversion stop ticks range gain threshold strays =
      ⟨clipValue .cap range gain threshold .positive, some .positive, gain, range⟩ := by
  cases stop with
  | threshold => exact absurd rfl h
  | timerLimit => rfl
  | compliance => rfl

/-- What an outcome takes from its standing conversion and the limits of the admitted copy. -/
theorem Entry.finalOutcome_of_conversion (e : Entry) (r : EvalRec) (v : Conversion) (clock : Nat) :
    (e.finalOutcome r v clock).verdict =
        verdictOf e.copy.loPresent e.copy.hiPresent e.copy.lo e.copy.hi v.clip v.value ∧
      (e.finalOutcome r v clock).value = v.value ∧ (e.finalOutcome r v clock).clipped = v.clip.isSome ∧
      (e.finalOutcome r v clock).cause = .none :=
  ⟨rfl, rfl, rfl, rfl⟩

/-- The outcome of a clipped conversion reports its value under the CLIPPED flag. -/
theorem Entry.finalOutcome_of_clip {v : Conversion} {c : ClipEnd} (h : v.clip = some c) (e : Entry) (r : EvalRec)
    (clock : Nat) : (e.finalOutcome r v clock).value = v.value ∧ (e.finalOutcome r v clock).clipped = true := by
  obtain ⟨-, hvalue, hclipped, -⟩ := e.finalOutcome_of_conversion r v clock
  exact ⟨hvalue, by rw [hclipped, h, Option.isSome_some]⟩

/-- Settles O60: the comparison and the two tables of verdictOf, with check 7 for the order of the limits; the outcome
takes what its standing conversion carries, and both kinds of clipped conversion carry the clip value and their end. -/
theorem attemptVerdicts : Obligations.AttemptVerdicts := by
  unfold Obligations.AttemptVerdicts
  refine ⟨fun loP hiP lo hi v hord => ⟨verdictOf_unclipped_eq_low_iff, verdictOf_unclipped_eq_high_iff hord,
      verdictOf_unclipped_eq_pass_iff⟩,
    fun r n hnone hlo hhi => ?_, fun lo hi v => ?_, clipEndOf_eq, fun e r clock a n range gain leads => ?_,
    fun e r clock stop ticks range gain threshold strays hstop => ?_, Entry.finalOutcome_of_conversion⟩
  · by_contra hlt
    exact r.failing_ne_none_of_hi_lt_lo hlo hhi (not_le.1 hlt) n hnone
  · obtain ⟨hhigh, hpassPos, hlow⟩ := verdictOf_clipped_positive lo hi v
    exact ⟨hhigh, hpassPos, hlow, verdictOf_clipped_negative lo hi v⟩
  · rw [sampledConversion_clipped]
    exact e.finalOutcome_of_clip rfl r clock
  · rw [chargeConversion_clipped hstop]
    exact e.finalOutcome_of_clip rfl r clock

end Sys2Proof.Machine
end

section
/-! PROOFS. The laws of the Lane Claim Table along a step (R24, R25). -/

set_option Elab.async false

namespace Sys2Proof.Machine

/-! ## What the laws read -/

section
variable {s t : State}

/-- The laws read the Claim Table and the saved one alone. -/
theorem State.ClaimLaws.congr (h : s.ClaimLaws) (hc : t.claims = s.claims) (hv : t.run.saved = s.run.saved) :
    t.ClaimLaws where
  table d := by
    rw [State.table, hc]
    exact h.table d
  saved v hs := h.saved v (hv ▸ hs)

/-- A change of the table of one side to a lawful one keeps the laws. -/
theorem State.ClaimLaws.modTable {d : Side} {f : ClaimTable → ClaimTable} (h : s.ClaimLaws)
    (hf : (f (s.table d)).Lawful d) : (s.modTable d f).ClaimLaws where
  table e := by
    rw [State.table_modTable]
    split
    · next he =>
      subst he
      exact hf
    · exact h.table e
  saved := h.saved

/-- A change of the controller record saves the present table, or one that was saved before. -/
theorem State.ClaimLaws.updRun {f : RunCtl → RunCtl} (h : s.ClaimLaws) (hf : RunStep s.claims s.run (f s.run)) :
    (s.updRun f).ClaimLaws where
  table := h.table
  saved v hv := by
    obtain ⟨-, -, hsaved⟩ := hf
    obtain hpresent | ⟨w, hw, hold⟩ := hsaved v hv
    · rw [hpresent]
      exact h.table
    · rw [hold]
      exact h.saved w hw
end

/-! ## Pending lists -/

section
variable {t : ClaimTable} {d : Side}

theorem ClaimTable.reset_lawful (d : Side) : ClaimTable.reset.Lawful d where
  lanes := by simp [ClaimTable.reset]
  side k c h := by simp [ClaimTable.reset, List.getElem?_replicate] at h
  contiguous c a b k h := by simp [ClaimTable.reset, List.getElem?_replicate] at h
  order x y a b h := by simp [ClaimTable.reset, List.getElem?_replicate] at h
  once := List.nodup_nil
  covers e h := nomatch h

/-- Entries that leave keep the laws of the list. -/
theorem ClaimTable.Lawful.sublist {l : List ClaimEntry} (h : t.Lawful d) (hl : l.Sublist t.pend) :
    ({ t with pend := l } : ClaimTable).Lawful d :=
  { h with
    once := h.once.sublist (hl.map _)
    covers := fun e he => h.covers e (hl.subset he) }

/-- An entry that joins the tail keeps the laws of the list, where its carriage has none there (R25, R27). -/
theorem ClaimTable.Lawful.join {e : ClaimEntry} {k : Interval} (h : t.Lawful d) (hd : sideOf e.carriage = d)
    (hk : claimFrom e.carriage 0 t.cells = some k) (hlo : e.span.lo ≤ k.lo) (hhi : k.hi ≤ e.span.hi)
    (hnew : ∀ q ∈ t.pend, q.carriage ≠ e.carriage) : ({ t with pend := t.pend ++ [e] } : ClaimTable).Lawful d :=
  { h with
    once := by
      rw [List.map_append, List.nodup_append]
      refine ⟨h.once, by simp, fun x hx y hy => ?_⟩
      obtain ⟨q, hq, rfl⟩ := List.mem_map.1 hx
      obtain rfl : y = e.carriage := by simpa using hy
      exact hnew q hq
    covers := fun q hq => by
      rcases List.mem_append.1 hq with hq | hq
      · exact h.covers q hq
      · obtain rfl := List.mem_singleton.1 hq
        exact ⟨hd, k, hk, hlo, hhi⟩ }

/-- The entries of one carriage in a lawful list are one entry. -/
theorem ClaimTable.Lawful.entry_unique {e q : ClaimEntry} (h : t.Lawful d) (he : e ∈ t.pend) (hq : q ∈ t.pend)
    (hc : q.carriage = e.carriage) : q = e :=
  List.inj_on_of_nodup_map h.once hq he hc
end

/-! ## Requests and grants -/

section
variable {s : State} {c : Carriage} {k : Interval}

/-- The pending interval of a request holds the claim (R25). -/
theorem State.pendingInterval_covers (hk : s.claimOf c = some k) (i : Interval) :
    (s.pendingInterval c i).lo ≤ k.lo ∧ k.hi ≤ (s.pendingInterval c i).hi := by
  rw [State.pendingInterval, hk]
  exact k.hull_bounds_left i

theorem State.not_pending (h : s.pendingOf c = none) : ∀ q ∈ (s.table (sideOf c)).pend, q.carriage ≠ c := fun q hq e => by
  simpa [e] using List.find?_eq_none.1 h q hq

/-- The grant of a request with no entry pending keeps the laws (R27, R28). -/
theorem State.ClaimLaws.take {i : Interval} (h : s.ClaimLaws) (hk : (s.claimOf c).isSome = true)
    (hp : s.pendingOf c = none) (hf : lanesFreeFor c (s.pendingInterval c i) (s.table (sideOf c)).cells = true) :
    (s.takeLanes c (s.pendingInterval c i)).ClaimLaws := by
  obtain ⟨k, hk⟩ := Option.isSome_iff_exists.1 hk
  obtain ⟨hlo, hhi⟩ := State.pendingInterval_covers hk i
  exact h.modTable ((h.table _).grant hk hlo hhi hf fun e he hc => absurd hc (State.not_pending hp e he))

/-- The grant of an entry keeps the laws (R28, R29). -/
theorem State.ClaimLaws.grant {d : Side} {e : ClaimEntry} (h : s.ClaimLaws) (he : e ∈ (s.table d).pend)
    (hf : lanesFreeFor e.carriage e.span (s.table (sideOf e.carriage)).cells = true) :
    (s.takeLanes e.carriage e.span).ClaimLaws := by
  obtain ⟨rfl, k, hk, hlo, hhi⟩ := (h.table d).covers e he
  exact h.modTable ((h.table _).grant hk hlo hhi hf fun q hq hc => by rw [(h.table _).entry_unique he hq hc])

/-- A request that waits keeps the laws (R27). -/
theorem State.ClaimLaws.wait {p : Purpose} {i : Interval} (h : s.ClaimLaws) (hk : (s.claimOf c).isSome = true)
    (hp : s.pendingOf c = none) :
    (s.modTable (sideOf c) fun t => { t with pend := t.pend ++ [⟨c, p, s.pendingInterval c i⟩] }).ClaimLaws := by
  obtain ⟨k, hk⟩ := Option.isSome_iff_exists.1 hk
  obtain ⟨hlo, hhi⟩ := State.pendingInterval_covers hk i
  exact h.modTable ((h.table _).join rfl hk hlo hhi (State.not_pending hp))
end

/-! ## The whole step -/

/-- The laws of the Claim Table are kept by every change the part makes. -/
theorem claimLaws_kept : KeptAll State.ClaimLaws where
  free hs := hs.congr rfl rfl
  linkOut hs := hs.congr rfl rfl
  station _ hs := hs.congr rfl rfl
  cause hs := hs.congr rfl rfl
  run hr hs := hs.updRun hr
  setup _ hs := hs.congr rfl rfl
  restore _ hv hs := ⟨hs.saved _ hv, hs.saved⟩
  carriages hs := hs.congr rfl rfl
  qual hs := hs.congr rfl rfl
  guard _ hs := hs.congr rfl rfl
  frame _ hs := hs.congr rfl rfl
  fetch _ hs := hs.congr rfl rfl
  mu _ hs := hs.congr rfl rfl
  disp _ hs := hs.congr rfl rfl
  deliver _ hs := hs.congr rfl rfl
  nets _ hs := hs.congr rfl rfl
  note hs := hs.congr rfl rfl
  hold _ hs := hs.congr rfl rfl
  log _ hs := hs.congr rfl rfl
  write _ _ hs := hs.congr rfl rfl
  landed _ _ hs := hs.congr rfl rfl
  publish _ hs := hs.congr rfl rfl
  fresh _ hs := hs.congr rfl rfl
  pend hl hs := hs.modTable ((hs.table _).sublist hl)
  wait hk hp hs := hs.wait hk hp
  take hk hp hf hs := hs.take hk hp hf
  grant he hf hs := hs.grant he hf
  clear hs := ⟨fun d => by cases d <;> exact (hs.table _).sublist (List.nil_sublist _), hs.saved⟩
  build _ ht hb hs := ⟨fun d => by cases d; exacts [State.builtCells_lawful ht, State.builtCells_lawful hb], hs.saved⟩
  host hs := hs.congr rfl rfl
  queue hs := hs.congr rfl rfl
  clock hs := hs.congr rfl rfl
  pins hs := hs.congr rfl rfl
  regs hs := hs.congr rfl rfl
  shrink hk hw _ hs := hs.modTable ((hs.table _).release hk hw)
  calibration _ _ _ hs := hs.congr rfl rfl
  block _ hs := hs.congr rfl rfl
  newSetup _ hs := hs.congr rfl rfl
  drained hs := hs.congr rfl rfl
  reset _ := ⟨fun d => by cases d <;> exact ClaimTable.reset_lawful _, fun _ h => nomatch h⟩
  powerOn _ := ⟨fun d => by cases d <;> exact ClaimTable.reset_lawful _, fun _ h => nomatch h⟩

/-- Settles O5: grants, releases and START's build make lawful tables of lawful ones, and the preservation principle carries
this over the whole step. -/
theorem claimLawsKept : Obligations.ClaimLawsKept := by
  unfold Obligations.ClaimLawsKept
  exact fun s t h => claimLaws_kept.step h t

end Sys2Proof.Machine
end

section
/-! PROOFS. The room of the result log along a step (R173, R183, R184). -/

set_option Elab.async false

namespace Sys2Proof.Machine

/-! ## The count of entries not drained -/

/-- The entries published and not drained, modulo 2^32 (R184). -/
def LogWriter.undrained (l : LogWriter) : Nat := (l.published - l.drained).toNat

/-- A publication adds one entry at most. -/
theorem undrained_publish (p d : Word32) : (p + 1 - d).toNat ≤ (p - d).toNat + 1 := by bv_omega

/-- Whatever value is read, the drained count moves towards the published count (R183). -/
theorem undrained_takeDrained (p d v : Word32) : (p - takeDrained p d v).toNat ≤ (p - d).toNat := by
  unfold takeDrained
  split
  · exact le_rfl
  next behind =>
    split
    · simp
    next ahead =>
      rw [BitVec.toInt_eq_toNat_cond] at behind ahead
      bv_omega

theorem takesRoom {l : LogWriter} {k : EntryKind} (h : l.hasRoom k = true) :
    l.undrained + 1 ≤ l.capacity ∧ (k ≠ .frameEnd → l.undrained + 2 ≤ l.capacity) := by
  have room : k.needs ≤ (l.capacity : Int) - l.undrained := by
    simpa [LogWriter.hasRoom, LogWriter.room_, LogWriter.undrained] using h
  cases k <;> simp only [EntryKind.needs] at room <;> simp only [ne_eq, reduceCtorEq, not_true_eq_false,
    not_false_eq_true, false_implies, true_implies, and_true] <;> omega

/-! ## What the room of the log reads -/

section
variable {s t : State}

/-- The room reads the counts, the capacity and the entry in progress, the values held, and whether a frame is open. -/
theorem State.LogFits.congr (h : s.LogFits) (hl : LogStep s.log t.log) (hv : t.run.held = s.run.held ∨ t.run.held = none)
    (hf : FrameStep s t.frame) : t.LogFits := by
  obtain ⟨hp, hd, hc, hi, hw, -⟩ := hl
  refine ⟨hc ▸ h.capacity, fun v e => ?_, by rw [hi, hc]; exact h.index, by rw [hp, hd, hc]; exact h.room, fun e => ?_,
    fun e => ?_, fun w e k => ?_, fun w e k st => ?_⟩
  · rcases hv with hv | hv
    · exact h.held v (hv ▸ e)
    · rw [hv] at e; cases e
  · rw [hp, hd, hc]; exact h.writing (hw ▸ e)
  · rw [hp, hd, hc]
    rcases hf with hf | hf | ⟨w, hw, hk⟩
    · exact absurd hf e
    · exact h.open_ hf
    · have := h.leaves w hw hk
      omega
  · rw [hp, hd, hc]; exact h.leaves w (hw ▸ e) k
  · have e' : s.log.writing = some w := hw ▸ e
    rcases hf with hf | hf | ⟨v, hv, hk⟩
    · exact hf
    · exact absurd (h.closes w e' k st) hf
    · rw [hv] at e'; cases e'; exact absurd k hk

/-- Changes of other blocks leave the room of the log. -/
theorem State.LogFits.other (h : s.LogFits) (hl : t.log = s.log) (hv : t.run.held = s.run.held)
    (hf : t.frame = s.frame) : t.LogFits :=
  h.congr (by rw [hl]; exact ⟨rfl, rfl, rfl, rfl, rfl, le_rfl, le_rfl, id⟩) (.inl hv) (by rw [hf]; exact .same rfl)

/-- A note or an outcome that is offered takes no place of the log. -/
theorem State.LogFits.offer (h : s.LogFits) {n : Note} : (s.offerNote n).LogFits := by
  rw [State.offerNote, State.updLog]
  split <;>
    exact ⟨h.capacity, h.held, h.index, h.room, h.writing, h.open_, h.leaves, h.closes⟩
end

/-! ## The entry in progress -/

section
variable {s : State} {k : EntryKind} {b : List Byte}

/-- A write starts when its room test has passed (R184). -/
theorem State.LogFits.write (h : s.LogFits) (hr : s.log.hasRoom k = true) :
    (s.updLog fun l => { l with writing := some ⟨k, b, .bytes⟩, room := .ready }).LogFits where
  capacity := h.capacity
  held := h.held
  index := h.index
  room := h.room
  writing _ := (takesRoom hr).1
  open_ := h.open_
  leaves w hw hk := by cases hw; exact (takesRoom hr).2 hk
  closes w hw _ hst := by cases hw; cases hst

/-- An entry whose bytes have landed is published next. -/
theorem State.LogFits.landed (h : s.LogFits) (hw : s.log.writing = some ⟨k, b, .bytes⟩)
    (hk : k = .frameEnd → s.frame.state = .none) :
    (s.updLog fun l => { l with writing := some ⟨k, b, .publish⟩ }).LogFits where
  capacity := h.capacity
  held := h.held
  index := h.index
  room := h.room
  writing _ := h.writing (by rw [hw]; rfl)
  open_ := h.open_
  leaves w e hne := by cases e; exact h.leaves _ hw hne
  closes w e hend _ := by cases e; exact hk hend

/-- A publication uses the place that its write was given. -/
theorem State.LogFits.publish (h : s.LogFits) (hw : s.log.writing = some ⟨k, b, .publish⟩) :
    (s.updLog fun l =>
      { l with published := l.published + 1, widx := (l.widx + 1) % l.capacity, writing := none }).LogFits := by
  have one := undrained_publish s.log.published s.log.drained
  have capacity := h.capacity
  refine ⟨h.capacity, h.held, Nat.mod_lt _ (show 0 < s.log.capacity by omega), ?_, fun e => (nomatch e), fun hf => ?_,
    fun w e => (nomatch e), fun w e => (nomatch e)⟩
  · have := h.writing (by rw [hw]; rfl)
    simp only [State.updLog_log]
    omega
  · have hne : k ≠ .frameEnd := fun hk => hf (h.closes _ hw hk rfl)
    have := h.leaves _ hw hne
    simp only [State.updLog_log]
    omega

/-- A log that is not run over stays so when entries are drained. -/
theorem State.LogFits.drained (h : s.LogFits) {v : Word32} :
    (s.updLog fun l =>
      { l with drained := takeDrained l.published l.drained v, reading := l.reread, reread := false }).LogFits := by
  have less := undrained_takeDrained s.log.published s.log.drained v
  exact ⟨h.capacity, h.held, h.index, less.trans h.room, fun e => (Nat.succ_le_succ less).trans (h.writing e),
    fun e => (Nat.succ_le_succ less).trans (h.open_ e),
    fun w e hk => (Nat.add_le_add_right less 2).trans (h.leaves w e hk), h.closes⟩

/-- A START's fresh log is empty, and its capacity is in range (R173, R195). -/
theorem State.LogFits.fresh {v : StationValues} (h : s.LogFits) (hv : s.run.held = some v) :
    (s.updLog fun l =>
      { l with published := 0, widx := 0, drained := 0, notified := 0, room := .ready, reread := false, results := []
               dropped := 0, base := v.base, capacity := v.capacity, notify := v.notify, started := true }).LogFits := by
  obtain ⟨hlo, hhi⟩ := h.held v hv
  have empty : ((0 : Word32) - 0).toNat = 0 := rfl
  refine ⟨⟨hlo, hhi⟩, h.held, ?_, ?_, fun _ => ?_, fun _ => ?_, fun _ _ _ => ?_, h.closes⟩ <;>
    simp only [State.updLog_log, empty] <;> omega
end

/-! ## The whole step -/

theorem parseStation_capacity (b : List Byte) : 64 ≤ (parseStation b).capacity ∧ (parseStation b).capacity ≤ 1048576 := by
  simp only [parseStation, clampNat]
  omega

/-- A log with nothing published, at a capacity in range, and with no frame. -/
theorem State.LogFits.ofEmpty {t : State} (hc : 64 ≤ t.log.capacity ∧ t.log.capacity ≤ 1048576) (hi : t.log.widx = 0)
    (hp : t.log.published = t.log.drained) (hw : t.log.writing = none) (hv : t.run.held = none)
    (hf : t.frame.state = .none) : t.LogFits := by
  refine ⟨hc, fun v e => ?_, by omega, by simp [hp], fun e => ?_, fun e => absurd hf e, fun w e => ?_, fun w e => ?_⟩
  · rw [hv] at e; cases e
  all_goals rw [hw] at e; cases e

/-- The room of the log is kept by every change the part makes. -/
theorem logFits_kept : KeptAll State.LogFits where
  free hs := hs.other rfl rfl rfl
  linkOut hs := hs.other rfl rfl rfl
  station _ hs := hs.other rfl rfl rfl
  cause hs := hs.other rfl rfl rfl
  run hr hs := hs.congr ⟨rfl, rfl, rfl, rfl, rfl, le_rfl, le_rfl, id⟩ hr.2.1 (.same rfl)
  setup _ hs := hs.other rfl rfl rfl
  restore _ _ hs := hs.other rfl rfl rfl
  carriages hs := hs.other rfl rfl rfl
  qual hs := hs.other rfl rfl rfl
  guard _ hs := hs.other rfl rfl rfl
  frame hf hs := hs.congr ⟨rfl, rfl, rfl, rfl, rfl, le_rfl, le_rfl, id⟩ (.inl rfl) hf
  fetch _ hs := hs.other rfl rfl rfl
  mu _ hs := hs.other rfl rfl rfl
  disp _ hs := hs.other rfl rfl rfl
  deliver _ hs := hs.other rfl rfl rfl
  nets _ hs := hs.other rfl rfl rfl
  note hs := hs.offer
  hold _ hs := ⟨hs.capacity, hs.held, hs.index, hs.room, hs.writing, hs.open_, hs.leaves, hs.closes⟩
  log hl hs := hs.congr hl (.inl rfl) (.same rfl)
  write _ hr hs := hs.write hr
  landed hw hk hs := hs.landed hw hk
  publish hw hs := hs.publish hw
  fresh hv hs := hs.fresh hv
  pend _ hs := hs.other rfl rfl rfl
  wait _ _ hs := hs.other rfl rfl rfl
  take _ _ _ hs := hs.other rfl rfl rfl
  grant _ _ hs := hs.other rfl rfl rfl
  clear hs := hs.other rfl rfl rfl
  build _ _ _ hs := hs.other rfl rfl rfl
  host hs := hs.other rfl rfl rfl
  queue hs := hs.other rfl rfl rfl
  clock hs := hs.other rfl rfl rfl
  pins hs := hs.other rfl rfl rfl
  regs hs := hs.other rfl rfl rfl
  shrink _ _ _ hs := hs.other rfl rfl rfl
  calibration _ _ _ hs := hs.other rfl rfl rfl
  block _ hs :=
    { hs with held := fun v e => by cases e; exact parseStation_capacity _ }
  newSetup _ hs := hs.other rfl rfl rfl
  drained hs := hs.drained
  reset hs := .ofEmpty hs.capacity rfl rfl rfl rfl rfl
  powerOn _ := .ofEmpty ⟨le_rfl, show 64 ≤ 1048576 by omega⟩ rfl rfl rfl rfl rfl

/-- Settles O7: only the start of a write, a publication, a drained read and a fresh log touch the counts, and each leaves
the room that the next needs. -/
theorem logFitsKept : Obligations.LogFitsKept := by
  unfold Obligations.LogFitsKept
  exact fun s t h => logFits_kept.step h t

end Sys2Proof.Machine
end

section
/-! PROOFS. The canonical forms and the bounds of the window, the queues and the held lists along a step (R78, R85, R106,
R107, R145, R158, R182, R183). -/

set_option Elab.async false

namespace Sys2Proof.Machine

/-! ## Canonical forms -/

theorem State.Canonical.congr {s t : State} (h : s.Canonical) (hm : t.hostMem = s.hostMem) (hn : t.nets = s.nets) :
    t.Canonical := ⟨hm ▸ h.memory, hn ▸ h.nets⟩

/-- The canonical forms are kept by every change the part makes. -/
theorem canonical_kept : KeptAll State.Canonical where
  free hs := hs.congr rfl rfl
  linkOut hs := hs.congr rfl rfl
  station _ hs := ⟨State.writeStation_wf _ _ _ hs.memory, hs.nets⟩
  cause hs := hs.congr rfl rfl
  run _ hs := hs.congr rfl rfl
  setup _ hs := hs.congr rfl rfl
  restore _ _ hs := hs.congr rfl rfl
  carriages hs := hs.congr rfl rfl
  qual hs := hs.congr rfl rfl
  guard _ hs := hs.congr rfl rfl
  frame _ hs := hs.congr rfl rfl
  fetch _ hs := hs.congr rfl rfl
  mu _ hs := hs.congr rfl rfl
  disp _ hs := hs.congr rfl rfl
  deliver _ hs := hs.congr rfl rfl
  nets hn hs := ⟨hs.memory, hn hs.nets⟩
  note hs := hs.congr rfl rfl
  hold _ hs := hs.congr rfl rfl
  log _ hs := hs.congr rfl rfl
  write _ _ hs := hs.congr rfl rfl
  landed _ _ hs := hs.congr rfl rfl
  publish _ hs := hs.congr rfl rfl
  fresh _ hs := hs.congr rfl rfl
  pend _ hs := hs.congr rfl rfl
  wait _ _ hs := hs.congr rfl rfl
  take _ _ _ hs := hs.congr rfl rfl
  grant _ _ hs := hs.congr rfl rfl
  clear hs := hs.congr rfl rfl
  build _ _ _ hs := hs.congr rfl rfl
  host hs := ⟨State.writeHost_wf _ _ _ hs.memory, hs.nets⟩
  queue hs := hs.congr rfl rfl
  clock hs := hs.congr rfl rfl
  pins hs := hs.congr rfl rfl
  regs hs := hs.congr rfl rfl
  shrink _ _ _ hs := hs.congr rfl rfl
  calibration _ _ _ hs := hs.congr rfl rfl
  block _ hs := hs.congr rfl rfl
  newSetup _ hs := hs.congr rfl rfl
  drained hs := hs.congr rfl rfl
  reset hs := ⟨hs.memory, rfl⟩
  powerOn hs := ⟨hs.memory, rfl⟩

/-- Settles O4: every write to host memory and every change of the net records keeps the keys rising. -/
theorem canonicalKept : Obligations.CanonicalKept := by
  unfold Obligations.CanonicalKept
  exact fun s t h => canonical_kept.step h t

/-! ## Bounds -/

section
variable {s t : State}

/-- The bounds read the window, both queues and the Z age, the retries, the retire list and the held lists. -/
theorem State.Bounded.congr (h : s.Bounded) (hd : t.disp = s.disp) (hm : t.mu = s.mu) (hg : t.guard = s.guard)
    (hf : t.fetch = s.fetch) (hl : LogStep s.log t.log) : t.Bounded := by
  obtain ⟨-, -, -, -, -, hr, hn, hx⟩ := hl
  exact ⟨hd ▸ h.slots, hd ▸ h.places, hd ▸ h.overtake, hm ▸ h.checks, hm ▸ h.measures, hg ▸ h.retries, hf ▸ h.retire,
    hm ▸ h.zAge, hr.trans h.results, hn.trans h.notes, hx h.dropped⟩

/-- Changes of other blocks leave the bounds. -/
theorem State.Bounded.other (h : s.Bounded) (hd : t.disp = s.disp) (hm : t.mu = s.mu) (hg : t.guard = s.guard)
    (hf : t.fetch = s.fetch) (hl : t.log = s.log) : t.Bounded :=
  h.congr hd hm hg hf (by rw [hl]; exact ⟨rfl, rfl, rfl, rfl, rfl, le_rfl, le_rfl, id⟩)

/-- Entries keep their slots or leave, and overtake counts their cap. -/
theorem State.Bounded.updDisp {f : Dispatcher → Dispatcher} (h : s.Bounded) (hf : DispStep s.disp (f s.disp)) :
    (s.updDisp f).Bounded := by
  obtain ⟨hslots, hcap⟩ := hf
  refine { h with slots := h.slots.sublist hslots, places := fun e he => ?_, overtake := hcap h.overtake }
  obtain ⟨o, ho, same⟩ := List.mem_map.1 (hslots.subset (List.mem_map_of_mem he))
  rw [← same]
  exact h.places o ho

theorem State.freeSlot_lt {k : Nat} (h : s.freeSlot = some k) : k < Config.windowSlots :=
  List.mem_range.1 (List.mem_of_find?_eq_some h)

theorem State.freeSlot_unused {k : Nat} (h : s.freeSlot = some k) : ∀ e ∈ s.disp.window, e.slot ≠ k := fun e he hk => by
  have free : s.entry k = none := by simpa using List.find?_some h
  simpa [hk] using List.find?_eq_none.1 free e he

/-- An admitted step takes a place of the window that no entry has (R78). -/
theorem State.Bounded.deliver {k : Nat} {c : StepCopy} (h : s.Bounded) (hk : s.freeSlot = some k) :
    (s.updDisp fun d => { d with window := d.window ++ [newEntry k c] }).Bounded := by
  refine { h with slots := ?_, places := fun e he => ?_, overtake := fun e he => ?_ }
  · simp only [State.updDisp_disp, List.map_append, List.nodup_append]
    refine ⟨h.slots, by simp, fun x hx y hy => ?_⟩
    obtain ⟨e, he, rfl⟩ := List.mem_map.1 hx
    obtain rfl : y = k := by simpa [newEntry] using hy
    exact State.freeSlot_unused hk e he
  · rcases List.mem_append.1 he with he | he
    · exact h.places e he
    · obtain rfl := List.mem_singleton.1 he
      exact State.freeSlot_lt hk
  · rcases List.mem_append.1 he with he | he
    · exact h.overtake e he
    · obtain rfl := List.mem_singleton.1 he
      exact Nat.zero_le _

/-- A change of the unit keeps its queues within their places and the Z age in 16 bits. -/
theorem State.Bounded.updMu {f : MeasUnit → MeasUnit} (h : s.Bounded) (hf : MuStep s.mu (f s.mu)) :
    (s.updMu f).Bounded := by
  obtain ⟨hchecks, hage, -, -, hqueue⟩ := hf
  exact { h with
    checks := hchecks.trans (max_le h.checks le_rfl), zAge := hage h.zAge, measures := hqueue h.measures }

/-- A note that is offered finds a place, or is dropped and counted (R185). -/
theorem State.Bounded.offer {n : Note} (h : s.Bounded) : (s.offerNote n).Bounded := by
  rw [State.offerNote, State.updLog]
  split
  · next room => exact { h with notes := by simpa using room }
  · exact { h with dropped := Nat.min_le_left .. }

/-- A unit with empty queues, an empty window, an empty retire list and empty held lists. -/
theorem State.Bounded.ofEmpty (hd : t.disp = .reset) (hc : t.mu.checkQueue = []) (hm : t.mu.measQueue = [])
    (hz : t.mu.zAge ≤ 65535) (hg : t.guard.retries = 0) (hf : t.fetch.retire = []) (hr : t.fetch.reading = none)
    (hl : t.log.results = []) (hn : t.log.notes = []) (hx : t.log.dropped = 0) : t.Bounded where
  slots := by rw [hd]; exact List.nodup_nil
  places := by rw [hd]; exact fun _ h => nomatch h
  overtake := by rw [hd]; exact fun _ h => nomatch h
  checks := by rw [hc]; exact Nat.zero_le _
  measures := ⟨by rw [hm]; exact Nat.zero_le _, by rw [hm]; exact List.nodup_nil⟩
  retries := by rw [hg]; exact Nat.zero_le _
  retire := ⟨by rw [hf]; exact Nat.zero_le _, fun r h => by rw [hr] at h; cases h⟩
  zAge := hz
  results := by rw [hl]; exact Nat.zero_le _
  notes := by rw [hn]; exact Nat.zero_le _
  dropped := by rw [hx]; exact Nat.zero_le _
end

/-- The bounds are kept by every change the part makes. -/
theorem bounded_kept : KeptAll State.Bounded where
  free hs := hs.other rfl rfl rfl rfl rfl
  linkOut hs := hs.other rfl rfl rfl rfl rfl
  station _ hs := hs.other rfl rfl rfl rfl rfl
  cause hs := hs.other rfl rfl rfl rfl rfl
  run _ hs := hs.other rfl rfl rfl rfl rfl
  setup _ hs := hs.other rfl rfl rfl rfl rfl
  restore _ _ hs := hs.other rfl rfl rfl rfl rfl
  carriages hs := hs.other rfl rfl rfl rfl rfl
  qual hs := hs.other rfl rfl rfl rfl rfl
  guard hg hs := { hs with retries := hg hs.retries }
  frame _ hs := hs.other rfl rfl rfl rfl rfl
  fetch hf hs := { hs with retire := hf hs.retire }
  mu hm hs := hs.updMu hm
  disp hd hs := hs.updDisp hd
  deliver hk hs := hs.deliver hk
  nets _ hs := hs.other rfl rfl rfl rfl rfl
  note hs := hs.offer
  hold hr hs := { hs with results := by simpa using hr }
  log hl hs := hs.congr rfl rfl rfl rfl hl
  write _ _ hs := { hs with }
  landed _ _ hs := { hs with }
  publish _ hs := { hs with }
  fresh _ hs := { hs with results := Nat.zero_le _, dropped := Nat.zero_le _ }
  pend _ hs := hs.other rfl rfl rfl rfl rfl
  wait _ _ hs := hs.other rfl rfl rfl rfl rfl
  take _ _ _ hs := hs.other rfl rfl rfl rfl rfl
  grant _ _ hs := hs.other rfl rfl rfl rfl rfl
  clear hs := hs.other rfl rfl rfl rfl rfl
  build _ _ _ hs := hs.other rfl rfl rfl rfl rfl
  host hs := hs.other rfl rfl rfl rfl rfl
  queue hs := hs.other rfl rfl rfl rfl rfl
  clock hs := hs.other rfl rfl rfl rfl rfl
  pins hs := hs.other rfl rfl rfl rfl rfl
  regs hs := hs.other rfl rfl rfl rfl rfl
  shrink _ _ _ hs := hs.other rfl rfl rfl rfl rfl
  calibration hc hm hz hs :=
    { hs with checks := hc ▸ hs.checks, measures := by rw [MeasUnit.QueueFits, State.updMu_mu, hm]; exact hs.measures
              zAge := hz ▸ Nat.zero_le _ }
  block _ hs := hs.other rfl rfl rfl rfl rfl
  newSetup _ hs := hs.other rfl rfl rfl rfl rfl
  drained hs := { hs with }
  reset hs := .ofEmpty rfl rfl rfl hs.zAge rfl rfl rfl rfl rfl rfl
  powerOn _ := .ofEmpty rfl rfl rfl le_rfl rfl rfl rfl rfl rfl rfl

/-- Settles O6: each block's changes keep its own bounds, and the preservation principle carries them over the step. -/
theorem boundsKept : Obligations.BoundsKept := by
  unfold Obligations.BoundsKept
  exact fun s t h => bounded_kept.step h t

end Sys2Proof.Machine
end

section
/-! PROOFS. What every command answers and what few commands change: the queue and the clock, the setup in force, the
offsets, and the registers (AL 1, AL 2, R122, R189, R190, R193). -/

set_option Elab.async false

namespace Sys2Proof.Machine

/-! ## Every command answers -/

theorem ite_answers {p : Prop} [Decidable p] {a b : Answer} (ha : ∃ t, a = .next t) (hb : ∃ t, b = .next t) :
    ∃ t, (if p then a else b) = .next t := by
  split
  · exact ha
  · exact hb

/-- Every branch of every meaning is a next state. -/
theorem exec_answers (i : Instr) (s : State) : ∃ t, exec i s = .next t := by
  cases i with
  | start => change ∃ t, execStart s = _; unfold execStart; split <;> exact ⟨_, rfl⟩
  | stop => change ∃ t, execStop s = _; unfold execStop; split <;> exact ⟨_, rfl⟩
  | abort => change ∃ t, execAbort s = _; unfold execAbort; split <;> exact ⟨_, rfl⟩
  | clearFault => change ∃ t, execClearFault s = _; unfold execClearFault; split <;> exact ⟨_, rfl⟩
  | calibrate => change ∃ t, execCalibrate s = _; unfold execCalibrate; split <;> exact ⟨_, rfl⟩
  | reset | commandUnknown | wake | intStatusWrite | intEnableWrite | powerOnReset | linkFrameDropped
  | forceLineAsserted | forceLineDrops | deglitchComplete => exact ⟨_, rfl⟩
  | stationBaseWrite | driveFault | halted | noTouch | position | stationBlockRead | pollExpiry | drainedRead
  | netImageWritten => exact ite_answers ⟨_, rfl⟩ ⟨_, rfl⟩
  | arrived => exact ite_answers ⟨_, rfl⟩ (ite_answers ⟨_, rfl⟩ ⟨_, rfl⟩)
  | touched => exact ite_answers (ite_answers ⟨_, rfl⟩ (ite_answers ⟨_, rfl⟩ ⟨_, rfl⟩)) ⟨_, rfl⟩
  | setupRecordRead => exact ite_answers (ite_answers ⟨_, rfl⟩ ⟨_, rfl⟩) ⟨_, rfl⟩
  | lifted c =>
    refine ite_answers ?_ (ite_answers ⟨_, rfl⟩ ⟨_, rfl⟩)
    split <;> exact ⟨_, rfl⟩
  | requestTimeout c =>
    refine ite_answers ⟨_, rfl⟩ ?_
    split <;> exact ⟨_, rfl⟩
  | filterTimeComplete c => change ∃ t, execFilterTimeComplete c s = _; unfold execFilterTimeComplete; split <;> exact ⟨_, rfl⟩
  | limitTime c => change ∃ t, execLimitTime c s = _; unfold execLimitTime; split <;> exact ⟨_, rfl⟩
  | precheckEnd l =>
    refine ite_answers ⟨_, rfl⟩ ?_
    split
    · exact ite_answers ⟨_, rfl⟩ ⟨_, rfl⟩
    · exact ⟨_, rfl⟩
  | dummyEnd => refine ite_answers ⟨_, rfl⟩ ?_; split <;> exact ⟨_, rfl⟩
  | settleEnd => refine ite_answers ⟨_, rfl⟩ ?_; split <;> exact ⟨_, rfl⟩
  | guardDwellEnd => refine ite_answers ⟨_, rfl⟩ ?_; split <;> exact ⟨_, rfl⟩
  | dwellEnd =>
    refine ite_answers ⟨_, rfl⟩ ?_
    split
    · split <;> exact ⟨_, rfl⟩
    · exact ⟨_, rfl⟩
  | skipEnd => change ∃ t, execSkipEnd s = _; unfold execSkipEnd; split <;> exact ⟨_, rfl⟩
  | countEnd l => change ∃ t, execCountEnd l s = _; unfold execCountEnd; split <;> exact ⟨_, rfl⟩
  | pairCheckCountEnd l =>
    change ∃ t, execPairCheckCountEnd l s = _; unfold execPairCheckCountEnd; split <;> exact ⟨_, rfl⟩
  | chargeThreshold n =>
    change ∃ t, execChargeThreshold n s = _; unfold execChargeThreshold; split <;> exact ⟨_, rfl⟩
  | timerLimit => change ∃ t, execTimerLimit s = _; unfold execTimerLimit; split <;> exact ⟨_, rfl⟩
  | chargeCompliance n =>
    change ∃ t, execChargeCompliance n s = _; unfold execChargeCompliance; split <;> exact ⟨_, rfl⟩
  | calCountEnd l =>
    change ∃ t, execCalCountEnd l s = _
    unfold execCalCountEnd
    split
    · exact ite_answers ⟨_, rfl⟩ ⟨_, rfl⟩
    · exact ⟨_, rfl⟩
  | comparatorAsserted w => refine ite_answers ?_ ⟨_, rfl⟩; cases w <;> exact ⟨_, rfl⟩
  | comparatorFalls w => cases w <;> exact ⟨_, rfl⟩
  | headerRead b => change ∃ t, execHeaderRead b s = _; unfold execHeaderRead; split <;> exact ⟨_, rfl⟩
  | recordRead b => change ∃ t, execRecordRead b s = _; unfold execRecordRead; split <;> exact ⟨_, rfl⟩
  | linkRead a => change ∃ t, execLinkRead a s = _; unfold execLinkRead; split <;> exact ⟨_, rfl⟩
  | entryWritten => change ∃ t, execEntryWritten s = _; unfold execEntryWritten; split <;> exact ⟨_, rfl⟩
  | publication => change ∃ t, execPublication s = _; unfold execPublication; split <;> exact ⟨_, rfl⟩

/-! ## What a command may change -/

/-- What the changes that command `i` makes from `s` on may have done to the queue, the clock, the setup in force, the
offsets and the registers, `t` being a state on the way. -/
structure Framed (i : Instr) (s t : State) : Prop where
  queue : t.pending = s.pending ∧ t.clock = s.clock
  stage : t.run.stage = some .answers → s.run.stage = some .answers ∨ ∃ b, i = .setupRecordRead b
  setup : t.setup = s.setup ∨ i = .powerOnReset ∨ s.run.stage = some .answers ∨ ∃ b, i = .setupRecordRead b
  offsets : (t.mu.z = s.mu.z ∧ t.mu.calRange = s.mu.calRange) ∨ i = .powerOnReset ∨ ∃ l, i = .calCountEnd l
  base : t.regs.stationBase = s.regs.stationBase ∨ i = .powerOnReset ∨ ∃ w, i = .stationBaseWrite w
  enable : t.regs.intEnable = s.regs.intEnable ∨ i = .powerOnReset ∨ i = .reset ∨ ∃ v, i = .intEnableWrite v
  status : ∀ b : Nat, s.regs.intStatus.getLsbD b = true → t.regs.intStatus.getLsbD b = true ∨ i = .powerOnReset ∨
    i = .reset ∨ ∃ v : Word32, i = .intStatusWrite v ∧ v.getLsbD b = true

section
variable {i : Instr} {s t u : State}

theorem Framed.refl (i : Instr) (s : State) : Framed i s s :=
  ⟨⟨rfl, rfl⟩, .inl, .inl rfl, .inl ⟨rfl, rfl⟩, .inl rfl, .inl rfl, fun _ h => .inl h⟩

/-- A change of other blocks. -/
theorem Framed.other (h : Framed i s t) (hq : u.pending = t.pending ∧ u.clock = t.clock) (hr : u.run = t.run)
    (ht : u.setup = t.setup) (hm : u.mu = t.mu) (hg : u.regs = t.regs) : Framed i s u where
  queue := ⟨hq.1.trans h.queue.1, hq.2.trans h.queue.2⟩
  stage := hr ▸ h.stage
  setup := ht ▸ h.setup
  offsets := hm ▸ h.offsets
  base := hg ▸ h.base
  enable := hg ▸ h.enable
  status := hg ▸ h.status

/-- A bit that survives a write of INT_STATUS, or is written as 1. -/
theorem intStatus_kept (x : BitVec 6) (v : Word32) (b : Nat) (h : x.getLsbD b = true) :
    (x &&& ~~~(v.setWidth 6)).getLsbD b = true ∨ v.getLsbD b = true := by
  have inside : b < 6 := BitVec.lt_of_getLsbD h
  cases hv : v.getLsbD b <;> simp [h, hv, inside]

theorem framed_kept (i : Instr) (s : State) : KeptBy (Framed i s) i where
  free hs := hs.other ⟨rfl, rfl⟩ rfl rfl rfl rfl
  linkOut hs := hs.other ⟨rfl, rfl⟩ rfl rfl rfl rfl
  station _ hs := hs.other ⟨rfl, rfl⟩ rfl rfl rfl rfl
  cause hs := { hs with
    status := fun b hb => (hs.status b hb).imp_left fun h => by simp [State.raise, BitVec.getLsbD_or, h] }
  run hr hs := { hs with stage := fun e => hs.stage (hr.1 e) }
  setup ha hs := { hs with setup := .inr (.inr (hs.stage ha)) }
  restore _ _ hs := hs.other ⟨rfl, rfl⟩ rfl rfl rfl rfl
  carriages hs := hs.other ⟨rfl, rfl⟩ rfl rfl rfl rfl
  qual hs := hs.other ⟨rfl, rfl⟩ rfl rfl rfl rfl
  guard _ hs := hs.other ⟨rfl, rfl⟩ rfl rfl rfl rfl
  frame _ hs := hs.other ⟨rfl, rfl⟩ rfl rfl rfl rfl
  fetch _ hs := hs.other ⟨rfl, rfl⟩ rfl rfl rfl rfl
  mu hm hs := by
    obtain ⟨-, -, hz, hc, -⟩ := hm
    exact { hs with offsets := hs.offsets.imp_left fun h => ⟨hz.trans h.1, hc.trans h.2⟩ }
  disp _ hs := hs.other ⟨rfl, rfl⟩ rfl rfl rfl rfl
  deliver _ hs := hs.other ⟨rfl, rfl⟩ rfl rfl rfl rfl
  nets _ hs := hs.other ⟨rfl, rfl⟩ rfl rfl rfl rfl
  note hs := hs.other ⟨rfl, rfl⟩ rfl rfl rfl rfl
  hold _ hs := hs.other ⟨rfl, rfl⟩ rfl rfl rfl rfl
  log _ hs := hs.other ⟨rfl, rfl⟩ rfl rfl rfl rfl
  write _ _ hs := hs.other ⟨rfl, rfl⟩ rfl rfl rfl rfl
  landed _ _ hs := hs.other ⟨rfl, rfl⟩ rfl rfl rfl rfl
  publish _ hs := hs.other ⟨rfl, rfl⟩ rfl rfl rfl rfl
  fresh _ hs := hs.other ⟨rfl, rfl⟩ rfl rfl rfl rfl
  pend _ hs := hs.other ⟨rfl, rfl⟩ rfl rfl rfl rfl
  wait _ _ hs := hs.other ⟨rfl, rfl⟩ rfl rfl rfl rfl
  take _ _ _ hs := hs.other ⟨rfl, rfl⟩ rfl rfl rfl rfl
  grant _ _ hs := hs.other ⟨rfl, rfl⟩ rfl rfl rfl rfl
  clear hs := hs.other ⟨rfl, rfl⟩ rfl rfl rfl rfl
  build _ _ _ hs := hs.other ⟨rfl, rfl⟩ rfl rfl rfl rfl
  host _ hs := hs.other ⟨rfl, rfl⟩ rfl rfl rfl rfl
  base hi _ hs := { hs with base := .inr (.inr ⟨_, hi⟩) }
  status hi hs := { hs with
    status := fun b hb => by
      rcases hs.status b hb with h | h
      · rcases intStatus_kept _ _ b h with h | h
        · exact .inl h
        · exact .inr (.inr (.inr ⟨_, hi, h⟩))
      · exact .inr h }
  enable hi hs := { hs with enable := .inr (.inr (.inr ⟨_, hi⟩)) }
  force _ hs := hs.other ⟨rfl, rfl⟩ rfl rfl rfl rfl
  comparator _ hs := hs.other ⟨rfl, rfl⟩ rfl rfl rfl rfl
  shrink _ _ _ _ hs := hs.other ⟨rfl, rfl⟩ rfl rfl rfl rfl
  calibration hi _ _ _ hs := { hs with offsets := .inr (.inr ⟨_, hi⟩) }
  block _ _ hs := { hs with stage := fun e => nomatch e }
  newSetup hi _ hs := { hs with setup := .inr (.inr (.inr ⟨_, hi⟩)), stage := fun _ => .inr ⟨_, hi⟩ }
  drained _ hs := hs.other ⟨rfl, rfl⟩ rfl rfl rfl rfl
  reset hi hs := { hs with
    stage := fun e => (nomatch e), enable := .inr (.inr (.inl hi)), status := fun _ _ => .inr (.inr (.inl hi)) }
  powerOn hi hs :=
    { queue := hs.queue, stage := fun e => (nomatch e), setup := .inr (.inl hi), offsets := .inr (.inl hi)
      base := .inr (.inl hi), enable := .inr (.inl hi), status := fun _ _ => .inr (.inl hi) }

theorem exec_framed (h : exec i s = .next t) : Framed i s t := (framed_kept i s).exec (.refl i s) t h
end

/-! ## The statements -/

/-- Settles O2: no branch of a meaning is a fault or a refusal, and no change touches the queue or the clock. -/
theorem everyCommandAnswers : Obligations.EveryCommandAnswers := by
  unfold Obligations.EveryCommandAnswers
  intro i s
  obtain ⟨t, ht⟩ := exec_answers i s
  exact ⟨t, ht, (exec_framed ht).queue⟩

/-- Settles O9: beside the changes inside START's answers the setup read alone writes a setup, in its own stage. -/
theorem setupChangesOnlyByStart : Obligations.SetupChangesOnlyByStart := by
  unfold Obligations.SetupChangesOnlyByStart
  intro i s t ht
  rcases (exec_framed ht).setup with same | power | answers | ⟨b, rfl⟩
  · exact .inl same
  · exact .inr (.inl power)
  · exact .inr (.inr (.inl answers))
  · by_cases taken : s.run.state = .starting ∧ s.run.stage = some .setupRecord
    · exact .inr (.inr (.inr ⟨⟨b, rfl⟩, taken⟩))
    · obtain rfl : s = t := by simpa [exec, execSetupRecordRead, taken] using ht
      exact .inl rfl

/-- Settles O10: a calibration's count changes the offsets at gain 4 alone. -/
theorem offsetsChangeOnlyByCalibration : Obligations.OffsetsChangeOnlyByCalibration := by
  unfold Obligations.OffsetsChangeOnlyByCalibration
  intro i s t ht
  rcases (exec_framed ht).offsets with same | power | ⟨l, rfl⟩
  · exact .inl same
  · exact .inr (.inl power)
  · by_cases counting : s.mu.op = .calibration ∧ s.mu.phase = some .count
    · obtain ⟨hop, hphase⟩ := counting
      by_cases last : 4 ≤ s.mu.gain
      · exact .inr (.inr ⟨⟨l, rfl⟩, hop, hphase, last⟩)
      · have goes_on : s.mu.gain < 4 := by omega
        simp only [exec, execCalCountEnd, hop, hphase, goes_on, if_true] at ht
        cases ht
        exact .inl ⟨rfl, rfl⟩
    · have unchanged : execCalCountEnd l s = .next s := by
        unfold execCalCountEnd
        split
        · next hop hphase => exact absurd ⟨hop, hphase⟩ counting
        · rfl
      rw [exec, unchanged] at ht
      cases ht
      exact .inl ⟨rfl, rfl⟩

/-- Settles O11: STATION_BASE is written in IDLE alone. -/
theorem registersChangeOnlyByWrites : Obligations.RegistersChangeOnlyByWrites := by
  unfold Obligations.RegistersChangeOnlyByWrites
  intro i s t ht
  have framed := exec_framed ht
  refine ⟨?_, framed.enable, framed.status⟩
  rcases framed.base with same | power | ⟨w, rfl⟩
  · exact .inl same
  · exact .inr (.inl power)
  · by_cases idle : s.run.state = .idle
    · exact .inr (.inr ⟨⟨w, rfl⟩, idle⟩)
    · obtain rfl : s = t := by simpa [exec, execStationBaseWrite, idle] using ht
      exact .inl rfl

/-- Settles O1: both branches of `step`. -/
theorem stepRunsFrontCommand : Obligations.StepRunsFrontCommand := by
  unfold Obligations.StepRunsFrontCommand
  refine ⟨fun c rest s h => ?_, fun s h => ?_⟩
  · rw [step, h]
  · rw [step, h]

/-- Settles O26: the arm of a dropped frame answers the state it found. -/
theorem droppedFrameChangesNothing : Obligations.DroppedFrameChangesNothing := by
  unfold Obligations.DroppedFrameChangesNothing
  exact fun _ _ => rfl

/-- Settles O3: every block at reset is empty. -/
theorem invariantsAtReset : Obligations.InvariantsAtReset := by
  unfold Obligations.InvariantsAtReset
  exact ⟨⟨rfl, rfl⟩, ⟨fun d => by cases d <;> exact ClaimTable.reset_lawful _, fun _ h => (nomatch h)⟩,
    .ofEmpty rfl rfl rfl le_rfl rfl rfl rfl rfl rfl rfl, .ofEmpty ⟨le_rfl, show 64 ≤ 1048576 by omega⟩ rfl rfl rfl rfl rfl⟩

end Sys2Proof.Machine
end

section
/-! PROOFS. The blocks of the state that an operation confines itself to. A statement that an operation leaves the rest of
the part alone is read off its list of blocks. -/

set_option Elab.async false

namespace Sys2Proof.Machine

/-! ## Blocks -/

/-- The blocks of the state, one for each of its fields. -/
inductive Block where
  | pending
  | clock
  | free
  | linkOut
  | hostMem
  | regs
  | run
  | setup
  | claims
  | carriages
  | pins
  | qual
  | disp
  | mu
  | guard
  | nets
  | frame
  | log
  | fetch
deriving DecidableEq

/-- Two states agree in a block. -/
def Block.Same (s t : State) : Block → Prop
  | .pending => t.pending = s.pending
  | .clock => t.clock = s.clock
  | .free => t.free = s.free
  | .linkOut => t.linkOut = s.linkOut
  | .hostMem => t.hostMem = s.hostMem
  | .regs => t.regs = s.regs
  | .run => t.run = s.run
  | .setup => t.setup = s.setup
  | .claims => t.claims = s.claims
  | .carriages => t.carriages = s.carriages
  | .pins => t.pins = s.pins
  | .qual => t.qual = s.qual
  | .disp => t.disp = s.disp
  | .mu => t.mu = s.mu
  | .guard => t.guard = s.guard
  | .nets => t.nets = s.nets
  | .frame => t.frame = s.frame
  | .log => t.log = s.log
  | .fetch => t.fetch = s.fetch

/-- `t` differs from `s` in the listed blocks alone. -/
def Confined (bs : List Block) (s t : State) : Prop := ∀ b, b ∉ bs → b.Same s t

section
variable {bs cs : List Block} {s t u : State}

theorem Confined.refl (bs : List Block) (s : State) : Confined bs s s := fun b _ => by cases b <;> rfl

theorem Block.Same.trans {b : Block} (h : b.Same s t) (h' : b.Same t u) : b.Same s u := by
  cases b <;> exact Eq.trans h' h

/-- What follows confines itself to blocks of the list too. -/
theorem Confined.andThen (h : Confined bs s t) (h' : Confined cs t u) (hc : ∀ b ∈ cs, b ∈ bs := by decide) :
    Confined bs s u :=
  fun b hb => (h b hb).trans (h' b fun e => hb (hc b e))

theorem Confined.mono (h : Confined cs s t) (hc : ∀ b ∈ cs, b ∈ bs := by decide) : Confined bs s t :=
  (Confined.refl bs s).andThen h hc

theorem Confined.ite {p : Prop} [Decidable p] (ht : p → Confined bs s t) (hu : ¬ p → Confined bs s u) :
    Confined bs s (if p then t else u) := by
  split
  · exact ht ‹_›
  · exact hu ‹_›

theorem Confined.foldl {α : Type} {f : State → α → State} (hf : ∀ s a, Confined bs s (f s a)) (l : List α) (s : State) :
    Confined bs s (l.foldl f s) := by
  induction l generalizing s with
  | nil => exact .refl bs s
  | cons a rest ih => exact (hf s a).andThen (ih _) fun _ => id

section
variable (h : Confined bs s t)
include h
theorem Confined.pending (hb : .pending ∉ bs := by decide) : t.pending = s.pending := h _ hb
theorem Confined.clock (hb : .clock ∉ bs := by decide) : t.clock = s.clock := h _ hb
theorem Confined.free (hb : .free ∉ bs := by decide) : t.free = s.free := h _ hb
theorem Confined.linkOut (hb : .linkOut ∉ bs := by decide) : t.linkOut = s.linkOut := h _ hb
theorem Confined.hostMem (hb : .hostMem ∉ bs := by decide) : t.hostMem = s.hostMem := h _ hb
theorem Confined.regs (hb : .regs ∉ bs := by decide) : t.regs = s.regs := h _ hb
theorem Confined.run (hb : .run ∉ bs := by decide) : t.run = s.run := h _ hb
theorem Confined.setup (hb : .setup ∉ bs := by decide) : t.setup = s.setup := h _ hb
theorem Confined.claims (hb : .claims ∉ bs := by decide) : t.claims = s.claims := h _ hb
theorem Confined.carriages (hb : .carriages ∉ bs := by decide) : t.carriages = s.carriages := h _ hb
theorem Confined.pins (hb : .pins ∉ bs := by decide) : t.pins = s.pins := h _ hb
theorem Confined.qual (hb : .qual ∉ bs := by decide) : t.qual = s.qual := h _ hb
theorem Confined.disp (hb : .disp ∉ bs := by decide) : t.disp = s.disp := h _ hb
theorem Confined.mu (hb : .mu ∉ bs := by decide) : t.mu = s.mu := h _ hb
theorem Confined.guard (hb : .guard ∉ bs := by decide) : t.guard = s.guard := h _ hb
theorem Confined.nets (hb : .nets ∉ bs := by decide) : t.nets = s.nets := h _ hb
theorem Confined.frame (hb : .frame ∉ bs := by decide) : t.frame = s.frame := h _ hb
theorem Confined.log (hb : .log ∉ bs := by decide) : t.log = s.log := h _ hb
theorem Confined.fetch (hb : .fetch ∉ bs := by decide) : t.fetch = s.fetch := h _ hb

theorem Confined.carr (c : Carriage) (hb : .carriages ∉ bs := by decide) : t.carr c = s.carr c := by
  rw [State.carr, h.carriages hb, State.carr]
theorem Confined.table (d : Side) (hb : .claims ∉ bs := by decide) : t.table d = s.table d := by
  rw [State.table, h.claims hb, State.table]
theorem Confined.landing (c : Carriage) (hb : .qual ∉ bs := by decide) : t.landing c = s.landing c := by
  rw [State.landing, h.qual hb, State.landing]
theorem Confined.entry (k : Nat) (hb : .disp ∉ bs := by decide) : t.entry k = s.entry k := by
  rw [State.entry, h.disp hb, State.entry]
end

/-- States that agree in every block are the same. -/
theorem State.eq_of_same (h : ∀ b : Block, b.Same s t) : t = s := by
  cases s
  cases t
  simp only [State.mk.injEq]
  exact ⟨h .pending, h .clock, h .free, h .linkOut, h .hostMem, h .regs, h .run, h .setup, h .claims, h .carriages,
    h .pins, h .qual, h .disp, h .mu, h .guard, h .nets, h .frame, h .log, h .fetch⟩
end

/-! ## The updates of one block (Ops, Flags) -/

section
variable {s : State}

theorem State.confined_updFree {f} : Confined [.free] s (s.updFree f) := fun b hb => by
  cases b with
  | free => exact absurd (by simp) hb
  | _ => rfl

theorem State.confined_updLinkOut {f} : Confined [.linkOut] s (s.updLinkOut f) := fun b hb => by
  cases b with
  | linkOut => exact absurd (by simp) hb
  | _ => rfl

theorem State.confined_updHostMem {f} : Confined [.hostMem] s (s.updHostMem f) := fun b hb => by
  cases b with
  | hostMem => exact absurd (by simp) hb
  | _ => rfl

theorem State.confined_updRegs {f} : Confined [.regs] s (s.updRegs f) := fun b hb => by
  cases b with
  | regs => exact absurd (by simp) hb
  | _ => rfl

theorem State.confined_updRun {f} : Confined [.run] s (s.updRun f) := fun b hb => by
  cases b with
  | run => exact absurd (by simp) hb
  | _ => rfl

theorem State.confined_updClaims {f} : Confined [.claims] s (s.updClaims f) := fun b hb => by
  cases b with
  | claims => exact absurd (by simp) hb
  | _ => rfl

theorem State.confined_updCarriages {f} : Confined [.carriages] s (s.updCarriages f) := fun b hb => by
  cases b with
  | carriages => exact absurd (by simp) hb
  | _ => rfl

theorem State.confined_updQual {f} : Confined [.qual] s (s.updQual f) := fun b hb => by
  cases b with
  | qual => exact absurd (by simp) hb
  | _ => rfl

theorem State.confined_updDisp {f} : Confined [.disp] s (s.updDisp f) := fun b hb => by
  cases b with
  | disp => exact absurd (by simp) hb
  | _ => rfl

theorem State.confined_updMu {f} : Confined [.mu] s (s.updMu f) := fun b hb => by
  cases b with
  | mu => exact absurd (by simp) hb
  | _ => rfl

theorem State.confined_updGuard {f} : Confined [.guard] s (s.updGuard f) := fun b hb => by
  cases b with
  | guard => exact absurd (by simp) hb
  | _ => rfl

theorem State.confined_updNets {f} : Confined [.nets] s (s.updNets f) := fun b hb => by
  cases b with
  | nets => exact absurd (by simp) hb
  | _ => rfl

theorem State.confined_updFrame {f} : Confined [.frame] s (s.updFrame f) := fun b hb => by
  cases b with
  | frame => exact absurd (by simp) hb
  | _ => rfl

theorem State.confined_updLog {f} : Confined [.log] s (s.updLog f) := fun b hb => by
  cases b with
  | log => exact absurd (by simp) hb
  | _ => rfl

theorem State.confined_updFetch {f} : Confined [.fetch] s (s.updFetch f) := fun b hb => by
  cases b with
  | fetch => exact absurd (by simp) hb
  | _ => rfl

theorem State.confined_modCarr {c f} : Confined [.carriages] s (s.modCarr c f) := State.confined_updCarriages
theorem State.confined_modTable {d f} : Confined [.claims] s (s.modTable d f) := State.confined_updClaims
theorem State.confined_setLanding {c l} : Confined [.qual] s (s.setLanding c l) := State.confined_updQual
theorem State.confined_modLanding {c f} : Confined [.qual] s (s.modLanding c f) := State.confined_setLanding
theorem State.confined_modEntry {k g} : Confined [.disp] s (s.modEntry k g) := State.confined_updDisp
theorem State.confined_markScan : Confined [.disp] s (s.markScan) := State.confined_updDisp
theorem State.confined_markReach : Confined [.disp] s (s.markReach) := State.confined_updDisp
theorem State.confined_markWithdraw {k} : Confined [.disp] s (s.markWithdraw k) := State.confined_updDisp
theorem State.confined_writeHost {a b} : Confined [.hostMem] s (s.writeHost a b) := State.confined_updHostMem
theorem State.confined_writeStation {o v} : Confined [.hostMem] s (s.writeStation o v) := State.confined_writeHost
theorem State.confined_offerNote {n} : Confined [.log] s (s.offerNote n) := State.confined_updLog
theorem State.confined_raise {k} : Confined [.regs] s (s.raise k) := State.confined_updRegs
theorem State.confined_setLast {q} : Confined [.run] s (s.setLast q) := State.confined_updRun
theorem State.confined_takeLanes {c i} : Confined [.claims] s (s.takeLanes c i) := State.confined_modTable
theorem State.confined_shrinkLanes {c i} : Confined [.claims] s (s.shrinkLanes c i) := State.confined_modTable
theorem State.confined_dropEntry {c} : Confined [.claims] s (s.dropEntry c) := State.confined_modTable

theorem State.confined_writeHostPart {a b} : Confined [.hostMem, .free] s (s.writeHostPart a b) :=
  ((Confined.refl _ s).andThen State.confined_writeHost).andThen State.confined_updFree

theorem State.confined_setRun {q} : Confined [.run, .fetch, .hostMem] s (s.setRun q) :=
  have changed : Confined [.run, .fetch, .hostMem] s
      ((s.updRun fun r => { r with state := q }).updFetch fun f => { f with waiting := false }) :=
    ((Confined.refl _ s).andThen State.confined_updRun).andThen State.confined_updFetch
  .ite (fun _ => changed.andThen State.confined_writeStation) fun _ => changed
end

/-! ## Carriages and travel -/

section
variable {s : State} {c : Carriage}

theorem State.confined_setTip {t} : Confined [.carriages] s (s.setTip c t) := State.confined_modCarr

theorem State.confined_setCarr {q} : Confined [.carriages] s (s.setCarr c q) :=
  State.confined_modCarr.andThen State.confined_setTip

theorem State.confined_retip : Confined [.carriages] s s.retip :=
  Confined.foldl (fun _ _ => State.confined_setTip) _ s

theorem State.confined_send {q} : Confined [.carriages, .linkOut] s (s.send c q) :=
  ((Confined.refl _ s).andThen State.confined_updLinkOut).andThen State.confined_modCarr

theorem State.confined_sendHalt : Confined [.carriages, .linkOut] s (s.sendHalt c) :=
  State.confined_send.andThen State.confined_modCarr

theorem State.confined_settle : Confined [.carriages] s (s.settle c) := State.confined_modCarr

theorem State.confined_leaveAssignments : Confined [.disp] s (s.leaveAssignments c) := State.confined_updDisp

theorem State.confined_toIdle : Confined [.carriages, .disp] s (s.toIdle c) :=
  ((((Confined.refl _ s).andThen State.confined_setCarr).andThen State.confined_modCarr).andThen
    State.confined_leaveAssignments).andThen State.confined_markScan

theorem State.confined_markArrived : Confined [.disp] s (s.markArrived c) := by
  unfold State.markArrived
  split
  · exact .refl _ s
  split
  · exact .refl _ s
  · exact .ite (fun _ => .ite (fun _ => State.confined_modEntry) fun _ => State.confined_modEntry) fun _ => .refl _ s

theorem State.confined_enterDescend : Confined [.carriages, .linkOut, .disp] s (s.enterDescend c) :=
  ((((Confined.refl _ s).andThen State.confined_setCarr).andThen State.confined_modCarr).andThen
    State.confined_send).andThen State.confined_markArrived

theorem State.confined_enterLift {f} : Confined [.carriages, .linkOut] s (s.enterLift c f) :=
  (((Confined.refl _ s).andThen State.confined_setCarr).andThen State.confined_modCarr).andThen State.confined_send

theorem State.confined_withdrawServed : Confined [.disp] s (s.withdrawServed c) := by
  unfold State.withdrawServed
  split
  · exact .ite (fun _ => State.confined_markWithdraw) fun _ => .refl _ s
  · exact .refl _ s

theorem State.confined_yieldsFailed {bad} : Confined [.disp] s (s.yieldsFailed bad) :=
  Confined.foldl (fun s _ => .ite (fun _ => State.confined_markWithdraw) fun _ => .refl _ s) _ s

theorem State.confined_yieldFailed : Confined [.disp] s (s.yieldFailed c) := State.confined_yieldsFailed

theorem State.confined_yieldArrived {k} : Confined [.disp] s (s.yieldArrived c k) :=
  State.confined_yieldsFailed.andThen State.confined_updDisp

theorem State.confined_blocked : Confined [.carriages, .disp] s (s.blocked c) := by
  have told : Confined [.carriages, .disp] s (match (s.carr c).purpose with
    | some .step | some .scrub => s.withdrawServed c
    | some .yield => s.yieldFailed c
    | some .home | some .park | none => s) := by
    split
    · exact State.confined_withdrawServed.mono
    · exact State.confined_withdrawServed.mono
    · exact State.confined_yieldFailed.mono
    all_goals exact .refl _ s
  exact told.andThen State.confined_toIdle

theorem State.confined_deliverGrant : Confined [.carriages, .linkOut] s (s.deliverGrant c) := by
  unfold State.deliverGrant
  split
  · exact .refl _ s
  · exact (State.confined_modCarr.mono).andThen State.confined_send

theorem confined_reviewWalk {d} (l kept : List ClaimEntry) (s : State) :
    Confined [.claims, .carriages, .linkOut] s (reviewWalk d l kept s) := by
  induction l generalizing kept s with
  | nil => exact State.confined_modTable.mono
  | cons e rest ih =>
    exact .ite (fun _ => (((Confined.refl _ s).andThen State.confined_takeLanes).andThen
      State.confined_deliverGrant).andThen (ih kept _)) fun _ => ih _ s

theorem State.confined_review {d} : Confined [.claims, .carriages, .linkOut] s (s.review d) := confined_reviewWalk _ _ s

/-- The blocks of claims and travel. -/
abbrev travelBlocks : List Block := [.claims, .carriages, .linkOut, .disp]

theorem State.confined_requestClaim {p i} : Confined travelBlocks s (s.requestClaim c p i) := by
  unfold State.requestClaim
  split
  · exact (State.confined_takeLanes.mono).andThen State.confined_deliverGrant
  · exact State.confined_modTable.mono
  · exact State.confined_blocked.mono
  · exact State.confined_blocked.mono

theorem State.confined_cancel : Confined travelBlocks s (s.cancel c) := by
  unfold State.cancel
  split
  · exact .refl _ s
  · have told := (State.confined_dropEntry (s := s) (c := c)).mono (bs := travelBlocks)
    have failed : Confined travelBlocks s (if ((s.dropEntry c).carr c).purpose = some .yield then
        (s.dropEntry c).yieldFailed c else s.dropEntry c) :=
      .ite (fun _ => told.andThen State.confined_yieldFailed) fun _ => told
    exact (failed.andThen State.confined_toIdle).andThen State.confined_review

theorem State.confined_travelDone : Confined [.carriages, .linkOut, .disp] s (s.travelDone c) := by
  unfold State.travelDone
  dsimp only
  split
  · exact .ite (fun _ => State.confined_toIdle.mono) fun _ => State.confined_enterDescend
  · exact .ite (fun _ => State.confined_toIdle.mono) fun _ => State.confined_enterDescend
  · exact (State.confined_yieldArrived.mono).andThen State.confined_toIdle
  all_goals exact State.confined_toIdle.mono

theorem State.confined_beginTravel {p t} : Confined [.carriages] s (s.beginTravel c p t) :=
  State.confined_setCarr.andThen State.confined_modCarr

theorem State.confined_compareTravel {t} : Confined [.carriages, .linkOut, .disp] s (s.compareTravel c t) :=
  .ite (fun _ => State.confined_travelDone) fun _ => .ite (fun _ => State.confined_deliverGrant.mono) fun _ => .refl _ s

theorem State.confined_claimTravel : Confined travelBlocks s (s.claimTravel c) := by
  unfold State.claimTravel
  dsimp only
  split
  · exact State.confined_requestClaim
  · exact .refl _ s

theorem State.confined_orderTravel {p v t} : Confined travelBlocks s (s.orderTravel c p v t) :=
  .ite (fun _ => ((((Confined.refl _ s).andThen State.confined_beginTravel).andThen State.confined_modCarr).andThen
    State.confined_compareTravel).andThen State.confined_claimTravel) fun _ => .refl _ s
end

/-! ## The Measurement Unit -/

section
variable {s : State} {c : Carriage} {e : Entry}

theorem State.confined_muStep {f} : Confined [.mu, .guard] s (s.muStep f) := by
  rw [State.muStep_eq]
  intro b hb
  cases b with
  | mu => exact absurd (by simp) hb
  | guard => exact absurd (by simp) hb
  | _ => rfl

theorem State.confined_cutPhase : Confined [.mu] s s.cutPhase := State.confined_updMu
theorem State.confined_dropCut : Confined [.mu] s s.dropCut := State.confined_updMu

theorem State.confined_setTips {l q t} : Confined [.carriages] s (s.setTips l q t) :=
  Confined.foldl (fun s _ => .ite (fun _ => State.confined_setTip) fun _ => .refl _ s) _ s

theorem State.confined_afterSettle {n} : Confined [.mu, .guard] s (s.afterSettle n) := State.confined_muStep

theorem State.confined_beginSettle {m n q} : Confined [.mu, .guard] s (s.beginSettle m n q) :=
  .ite (fun _ => State.confined_muStep.andThen State.confined_afterSettle) fun _ => State.confined_muStep

theorem State.confined_applyStimulus {k : StepCopy} : Confined [.mu, .guard] s (s.applyStimulus k) := by
  unfold State.applyStimulus
  split
  · exact State.confined_muStep
  all_goals exact State.confined_beginSettle

theorem State.confined_applyCheck : Confined [.mu, .guard] s s.applyCheck := State.confined_beginSettle
theorem State.confined_beginDummy : Confined [.mu, .guard] s s.beginDummy := State.confined_muStep

theorem State.confined_beginConversion {k : StepCopy} : Confined [.mu, .guard] s (s.beginConversion k) :=
  have set : Confined [.mu, .guard] s (s.updMu fun u => { u with gain := u.convGain }) := State.confined_updMu.mono
  .ite (fun _ => set.andThen State.confined_beginDummy) fun _ => set.andThen State.confined_applyStimulus

theorem State.confined_beginMeasurement {k : StepCopy} : Confined [.mu, .guard] s (s.beginMeasurement k) :=
  .ite (fun _ => State.confined_beginConversion) fun _ => State.confined_muStep

theorem State.confined_beginDwell {p n} : Confined [.mu, .guard, .carriages, .disp] s (s.beginDwell p n e) :=
  (((Confined.refl _ s).andThen State.confined_setTips).andThen State.confined_modEntry).andThen State.confined_muStep

theorem State.confined_endDwell : Confined [.carriages, .disp] s (s.endDwell e) :=
  ((Confined.refl _ s).andThen State.confined_setTips).andThen State.confined_modEntry

theorem State.confined_liftEngaged {l f} : Confined [.carriages, .linkOut] s (s.liftEngaged l f) :=
  Confined.foldl (fun s _ => .ite (fun _ => State.confined_enterLift) fun _ => .refl _ s) _ s

/-- The blocks of a release of the unit. -/
abbrev releaseBlocks : List Block := [.mu, .guard, .disp, .carriages, .linkOut]

theorem State.confined_releaseStep : Confined releaseBlocks s (s.releaseStep e) :=
  have released : Confined releaseBlocks s (s.muStep MeasUnit.released) := State.confined_muStep.mono
  .ite (fun _ => (released.andThen State.confined_modEntry).andThen State.confined_liftEngaged)
    fun _ => (released.andThen State.confined_modEntry).andThen State.confined_liftEngaged

theorem State.confined_endAttempt {b} : Confined releaseBlocks s (s.endAttempt b e) :=
  .ite (fun _ => State.confined_beginDwell.mono) fun _ => State.confined_releaseStep

theorem State.confined_abandonMeasure : Confined releaseBlocks s s.abandonMeasure := by
  unfold State.abandonMeasure
  have left : Confined releaseBlocks s (s.cutPhase.muStep fun u => u.released.forget) :=
    (State.confined_cutPhase.mono).andThen State.confined_muStep
  split
  · dsimp only
    split
    · exact left
    · exact (left.andThen State.confined_modEntry).andThen State.confined_liftEngaged
  all_goals exact .refl _ s

theorem State.confined_abandonCheck : Confined [.mu, .guard, .carriages] s s.abandonCheck := by
  unfold State.abandonCheck
  split
  · exact (((Confined.refl _ s).andThen State.confined_cutPhase).andThen State.confined_muStep).andThen
      (Confined.foldl (fun _ _ => State.confined_setTip) _ _)
  · exact .refl _ s

theorem State.confined_setElec {p q} : Confined [.qual] s (s.setElec p q) :=
  State.confined_modLanding.andThen State.confined_modLanding

theorem State.confined_offerOwed (n : Nat) (s : State) : Confined [.qual, .mu] s (s.offerOwed n) := by
  induction n generalizing s with
  | zero => exact .refl _ s
  | succ n ih =>
    unfold State.offerOwed
    split
    · exact .refl _ s
    · exact .ite (fun _ => ((((Confined.refl _ s).andThen State.confined_updQual).andThen
        State.confined_updMu).andThen State.confined_setElec).andThen (ih _)) fun _ => .refl _ s

/-- The blocks of the arbiter. -/
abbrev arbiterBlocks : List Block := [.qual, .mu, .guard, .disp, .carriages]

theorem State.confined_takePair {p} : Confined arbiterBlocks s (s.takePair p) :=
  have taken := ((((Confined.refl arbiterBlocks s).andThen (State.confined_setElec (p := p) (q := .running))).andThen
    (State.confined_updMu (f := fun u =>
    { u with op := .pairCheck, pair := some p, checkQueue := u.checkQueue.drop 1, cls := .twoWire
             buses := ⟨some p.force, some p.sense, some p.force, some p.sense⟩
             range := some Config.pairRange, gain := Config.pairGain }))).andThen
    (State.confined_setTips (l := [p.force, p.sense]) (q := .check) (t := .matrix))).andThen (State.confined_offerOwed 1 _)
  .ite (fun _ => taken.andThen State.confined_beginDummy) fun _ => taken.andThen State.confined_applyCheck
end

end Sys2Proof.Machine
end

section
/-! PROOFS. The blocks that the ends of steps, the Contact Qualifier, the window, the log, the chain and the Run Controller
confine themselves to. -/

set_option Elab.async false

namespace Sys2Proof.Machine

variable {s : State} {c : Carriage} {e : Entry}

/-! ## Landings and the ends of steps -/

/-- The blocks of the Contact Qualifier with the unit. -/
abbrev landingBlocks : List Block := [.qual, .mu, .guard, .carriages]

theorem State.confined_withdrawPair : Confined [.qual, .mu] s (s.withdrawPair c) :=
  (((Confined.refl _ s).andThen State.confined_updQual).andThen State.confined_updMu).andThen
    (State.confined_offerOwed _ _)

theorem State.confined_partnerWaits {p} : Confined [.qual] s (s.partnerWaits p) := by
  unfold State.partnerWaits
  split
  · exact .refl _ s
  · exact State.confined_modLanding

theorem State.confined_dropCheckIf {w} : Confined landingBlocks s (s.dropCheckIf w) := by
  unfold State.dropCheckIf
  split
  · exact .ite (fun _ => (((Confined.refl _ s).andThen State.confined_abandonCheck).andThen
      State.confined_modLanding).andThen State.confined_modLanding) fun _ => .refl _ s
  · exact .refl _ s

theorem State.confined_removeLanding : Confined landingBlocks s (s.removeLanding c) := by
  have dropped : Confined landingBlocks s (s.dropCheck c) := State.confined_dropCheckIf
  unfold State.removeLanding
  dsimp only
  split
  · exact dropped
  · exact ((dropped.andThen State.confined_setLanding).andThen State.confined_withdrawPair).andThen
      State.confined_partnerWaits

/-- The blocks of a step's service. -/
abbrev serviceBlocks : List Block := [.claims, .carriages, .linkOut, .disp, .qual, .mu, .guard]

theorem State.confined_sendEnd : Confined serviceBlocks s (s.sendEnd c) := by
  unfold State.sendEnd
  dsimp only
  split
  · exact .refl _ s
  · exact .refl _ s
  · exact .refl _ s
  · exact .refl _ s
  · exact .ite (fun _ => .ite (fun _ => State.confined_cancel.mono) fun _ => State.confined_toIdle.mono)
      fun _ => State.confined_modCarr.mono
  · exact State.confined_modCarr.mono
  · exact (State.confined_removeLanding.mono).andThen State.confined_enterLift
  · exact State.confined_enterLift.mono
  · exact .ite (fun _ => .refl _ s) fun _ => State.confined_enterLift.mono
  · exact State.confined_modCarr.mono

theorem State.confined_sendEnds {l} : Confined serviceBlocks s (s.sendEnds l) :=
  Confined.foldl (fun _ _ => State.confined_sendEnd) l s

theorem State.confined_decideStep {k o} : Confined serviceBlocks s (s.decideStep k o) := by
  unfold State.decideStep
  split
  · exact .refl _ s
  · exact .ite (fun _ => .refl _ s) fun _ => ((((Confined.refl _ s).andThen State.confined_modEntry).andThen
      State.confined_updMu).andThen State.confined_sendEnds).andThen State.confined_markScan

theorem State.confined_endStep {k v q} : Confined serviceBlocks s (s.endStep k v q) := State.confined_decideStep

/-! ## The Contact Qualifier -/

theorem State.confined_considerPair : Confined [.qual, .mu] s (s.considerPair c) := by
  unfold State.considerPair
  split
  · exact .refl _ s
  split
  · exact .refl _ s
  split
  · exact .refl _ s
  · exact .ite (fun _ => .refl _ s) fun _ => .ite
      (fun _ => (((Confined.refl _ s).andThen State.confined_setElec).andThen State.confined_updQual).andThen
        (State.confined_offerOwed _ _))
      fun _ => (State.confined_modLanding.mono).andThen State.confined_modLanding

theorem State.confined_actOnPartner : Confined [.qual, .mu] s (s.actOnPartner c) := by
  unfold State.actOnPartner
  split
  · exact .refl _ s
  · exact State.confined_withdrawPair.andThen State.confined_partnerWaits

theorem State.confined_noContact {k} : Confined serviceBlocks s (s.noContact c k) := by
  unfold State.noContact
  split
  · exact .refl _ s
  · exact .ite (fun _ => .refl _ s) fun _ => (State.confined_dropCheckIf.mono).andThen State.confined_endStep

theorem State.confined_countFail {n} : Confined [.carriages] s (s.countFail c n) := State.confined_modCarr

theorem State.confined_failInLift {k} : Confined serviceBlocks s (s.failInLift c k) := by
  unfold State.failInLift
  split
  · exact .refl _ s
  · dsimp only
    split
    · exact (State.confined_countFail.mono).andThen State.confined_noContact
    · exact (State.confined_countFail.mono).andThen State.confined_modCarr

theorem State.confined_qualified : Confined [.qual, .carriages, .disp, .mu] s (s.qualified c) := by
  have entered : Confined [.qual, .carriages, .disp, .mu] s ((s.setLanding c none).setCarr c .ready) :=
    (State.confined_setLanding.mono).andThen State.confined_setCarr
  unfold State.qualified
  dsimp only
  split
  · exact entered
  split
  · exact entered
  · exact .ite (fun _ => (entered.andThen State.confined_modEntry).andThen State.confined_updMu)
      fun _ => entered.andThen State.confined_modEntry

theorem State.confined_sparePartner {p} : Confined [.qual, .carriages, .disp, .mu] s (s.sparePartner p) := by
  unfold State.sparePartner
  split
  · exact .refl _ s
  split
  · exact .refl _ s
  · exact .ite (fun _ => State.confined_qualified) fun _ => .refl _ s

theorem State.confined_decideLanding (n : Nat) (c : Carriage) (s : State) :
    Confined serviceBlocks s (s.decideLanding n c) := by
  induction n generalizing c s with
  | zero => exact .refl _ s
  | succ n ih =>
    unfold State.decideLanding
    split
    · exact .refl _ s
    split
    · exact .refl _ s
    · dsimp only
      split
      · exact State.confined_qualified.mono
      · exact ((State.confined_qualified.mono).andThen State.confined_modLanding).andThen (ih _ _)
    · have lifted : Confined serviceBlocks s ((s.setLanding c none).enterLift c .free) :=
        (State.confined_setLanding.mono).andThen State.confined_enterLift
      refine .andThen (.andThen (bs := serviceBlocks) (.ite ?_ ?_) State.confined_failInLift) State.confined_sparePartner
      · exact fun _ => lifted
      · exact fun _ => lifted.andThen State.confined_actOnPartner

theorem State.confined_failPair {l} : Confined serviceBlocks s (s.failPair l) := by
  unfold State.failPair
  dsimp only
  have lifted := Confined.foldl (bs := serviceBlocks) (f := fun s c => (s.setLanding c none).enterLift c .free)
    (fun s c => (State.confined_setLanding.mono).andThen State.confined_enterLift) l s
  have counted := fun m n => (lifted.andThen
    (Confined.foldl (bs := serviceBlocks) (f := fun (s : State) (q : Carriage × ScrubNext) => s.actOnPartner q.1)
      (fun _ _ => State.confined_actOnPartner.mono) m _)).andThen
    (Confined.foldl (bs := serviceBlocks) (f := fun (s : State) (q : Carriage × ScrubNext) => s.countFail q.1 q.2)
      (fun _ _ => State.confined_countFail.mono) n _)
  split
  · exact (counted _ _).andThen State.confined_noContact
  · exact (counted _ _).andThen (Confined.foldl (bs := serviceBlocks) (fun _ _ => State.confined_modCarr.mono) _ _)

theorem State.confined_bindCheck {p b} : Confined serviceBlocks s (s.bindCheck p b) :=
  (((((((Confined.refl serviceBlocks s).andThen State.confined_modLanding).andThen
    State.confined_modLanding)).andThen State.confined_failPair).andThen
    (State.confined_decideLanding _ _ _)).andThen (State.confined_decideLanding _ _ _)).andThen
    State.confined_considerPair

/-! ## The Evaluator and the Source Guard -/

theorem State.confined_stands {r v} : Confined serviceBlocks s (s.stands e r v) := by
  unfold State.stands
  dsimp only
  have kept : Confined serviceBlocks s (s.modEntry e.slot fun e => { e with eval := some r }) :=
    State.confined_modEntry.mono
  have stood := Confined.ite (p := isFinal (e.copy.verdict v) r.attempt e.copy.retest = true)
    (fun _ => kept.andThen (State.confined_decideStep (k := e.slot) (o := fun e => e.finalOutcome r v s.clock)))
    (fun _ => kept.andThen (State.confined_modEntry (k := e.slot) (g := fun e => { e with retestHeld := true })))
  split
  · exact stood.andThen State.confined_endAttempt
  · exact stood

theorem State.confined_markRanged {r} : Confined [.disp] s (s.markRanged e r) := State.confined_modEntry

theorem State.confined_reportSampled {l} : Confined serviceBlocks s (s.reportSampled e l) := by
  have evaluated : Confined serviceBlocks s (s.updMu MeasUnit.evaluating) := State.confined_updMu.mono
  unfold State.reportSampled
  dsimp only
  split
  · exact ((evaluated.andThen State.confined_markRanged).andThen State.confined_updMu).andThen
      State.confined_beginSettle
  · exact evaluated.andThen State.confined_stands

theorem State.confined_repeatCharge {n} : Confined releaseBlocks s (s.repeatCharge e n) :=
  ((State.confined_endDwell.mono).andThen State.confined_updMu).andThen State.confined_beginMeasurement

theorem State.confined_reportCharge {k n} : Confined serviceBlocks s (s.reportCharge e k n) := by
  have evaluated : Confined serviceBlocks s (s.muStep fun u => { u.evaluating with source := .off, charge := n }) :=
    State.confined_muStep.mono
  unfold State.reportCharge
  dsimp only
  split
  · exact .ite (fun _ => (evaluated.andThen State.confined_markRanged).andThen State.confined_repeatCharge)
      fun _ => (evaluated.andThen State.confined_markRanged).andThen State.confined_beginDwell
  · exact evaluated.andThen State.confined_stands

theorem State.confined_guardNote {k r n} : Confined [.log] s (s.guardNote k r n) := State.confined_offerNote

/-- The blocks of a condition's response. -/
abbrev guardBlocks : List Block :=
  [.claims, .carriages, .linkOut, .disp, .qual, .mu, .guard, .log, .run, .fetch, .hostMem, .regs]

theorem State.confined_latch : Confined guardBlocks s s.latch := by
  have given : Confined guardBlocks s (s.abandonCheck).abandonMeasure :=
    (State.confined_abandonCheck.mono).andThen State.confined_abandonMeasure
  unfold State.latch
  dsimp only
  refine .andThen (.andThen (.andThen (.andThen (.andThen (.andThen (.andThen (bs := guardBlocks) ?_
    State.confined_setRun) State.confined_raise) State.confined_retip) State.confined_updClaims)
    (Confined.foldl (bs := serviceBlocks) (fun _ _ => State.confined_endStep) _ _)) State.confined_sendEnds)
    State.confined_updRun
  split
  · exact given.andThen State.confined_endStep
  · exact given

theorem State.confined_checkCondition {k p} : Confined guardBlocks s (s.checkCondition k p) := by
  have noted : ∀ r, Confined guardBlocks s (s.guardNote k r p.slot) := fun _ => State.confined_guardNote.mono
  unfold State.checkCondition
  dsimp only
  split
  · exact noted _
  · exact ((noted _).andThen State.confined_abandonCheck).andThen State.confined_bindCheck
  · exact ((noted _).andThen State.confined_abandonCheck).andThen State.confined_bindCheck
  · exact ((noted _).andThen State.confined_abandonCheck).andThen State.confined_bindCheck
  · exact (noted _).andThen State.confined_latch

theorem State.confined_measureCondition {k p} : Confined guardBlocks s (s.measureCondition k e p) := by
  have noted : ∀ r, Confined guardBlocks s (s.guardNote k r e.slot) := fun _ => State.confined_guardNote.mono
  have ended : ∀ r, Confined guardBlocks s ((s.guardNote k r e.slot).guardEnds e) :=
    fun r => (noted r).andThen State.confined_endStep
  have reported : ∀ r, Confined guardBlocks s (if p = .dwell then
      (((s.guardNote k r e.slot).guardEnds e).updMu fun u => { u with dwellNext := .release }).updGuard Guard.unwatch
      else ((s.guardNote k r e.slot).guardEnds e).cutPhase.endAttempt true e) := fun r =>
    .ite (fun _ => ((ended r).andThen State.confined_updMu).andThen State.confined_updGuard)
      fun _ => ((ended r).andThen State.confined_cutPhase).andThen State.confined_endAttempt
  unfold State.measureCondition
  dsimp only
  split
  · exact .ite (fun _ => noted _) fun _ => (noted _).andThen State.confined_modEntry
  · exact .ite
      (fun _ => (((noted _).andThen State.confined_updGuard).andThen State.confined_cutPhase).andThen
        State.confined_beginDwell)
      fun _ => (((noted _).andThen State.confined_updGuard).andThen State.confined_cutPhase).andThen
        State.confined_beginDwell
  · exact reported _
  · exact reported _
  · exact (noted _).andThen State.confined_latch

theorem State.confined_raiseCondition {k} : Confined guardBlocks s (s.raiseCondition k) := by
  unfold State.raiseCondition
  split
  · split
    · exact (State.confined_updGuard.mono).andThen State.confined_checkCondition
    · exact .refl _ s
  · split
    · exact (State.confined_updGuard.mono).andThen State.confined_measureCondition
    · exact .refl _ s
  · exact .refl _ s

/-! ## The window and the scan -/

/-- The blocks of a step that enters HELD. -/
abbrev heldBlocks : List Block := [.disp, .nets, .log]

theorem State.confined_offerResult {k} : Confined [.disp, .log] s (s.offerResult k) :=
  .ite (fun _ => State.confined_updLog.mono) fun _ => State.confined_updDisp.mono

theorem State.confined_enterHeld {k} : Confined heldBlocks s (s.enterHeld k) := by
  unfold State.enterHeld
  split
  · exact .refl _ s
  split
  · exact .refl _ s
  · exact ((((Confined.refl _ s).andThen State.confined_modEntry).andThen State.confined_updNets).andThen
      State.confined_offerResult).andThen State.confined_markScan

theorem State.confined_endWaiting {k o} : Confined heldBlocks s (s.endWaiting k o) :=
  (State.confined_modEntry.mono).andThen State.confined_enterHeld

theorem State.confined_deliver {r q} : Confined heldBlocks s (s.deliver r q) := by
  unfold State.deliver
  split
  · exact .refl _ s
  next k _ =>
    have admitted : Confined heldBlocks s
        ((s.updDisp fun d => { d with window := d.window ++ [newEntry k (s.judge r q).1] }).markScan) :=
      (State.confined_updDisp.mono).andThen State.confined_markScan
    dsimp only
    split
    · exact admitted
    · exact admitted.andThen State.confined_endWaiting

/-- The blocks of a scan. -/
abbrev scanBlocks : List Block := [.claims, .carriages, .linkOut, .disp, .nets, .log]

/-- The blocks of the Dispatcher's stage. -/
abbrev dispatcherBlocks : List Block := [.claims, .carriages, .linkOut, .disp, .qual, .mu, .guard, .nets, .log]

/-! ## The log and the chain -/

theorem State.confined_startImage : Confined [.frame] s s.startImage :=
  .ite (fun _ => State.confined_updFrame) fun _ => .refl _ s

theorem State.confined_startPoll : Confined [.fetch] s s.startPoll := State.confined_updFetch

theorem State.confined_retire : Confined [.fetch, .hostMem] s s.retire := by
  unfold State.retire
  split
  · exact .refl _ s
  · exact (State.confined_updFetch.mono).andThen State.confined_writeStation

theorem State.confined_owesLess {k w} : Confined [.fetch, .hostMem] s (s.owesLess k w) :=
  (State.confined_updFetch.mono).andThen State.confined_retire

theorem State.confined_raiseResults : Confined [.regs, .log] s s.raiseResults :=
  (State.confined_raise.mono).andThen State.confined_updLog

theorem State.confined_updateRefill : Confined [.fetch] s s.updateRefill := State.confined_updFetch
theorem State.confined_linkZero : Confined [.fetch, .regs, .log] s s.linkZero := by
  unfold State.linkZero
  dsimp only
  refine .andThen (bs := [.fetch, .regs, .log]) (.ite (fun _ => State.confined_updFetch.mono) fun _ => .ite ?_ ?_)
    State.confined_startPoll
  · exact fun _ => (State.confined_updFetch.mono).andThen State.confined_raise
  · exact fun _ => ((State.confined_updFetch.mono).andThen State.confined_raise).andThen State.confined_raiseResults

theorem State.confined_orderFramePark : Confined [.run] s s.orderFramePark := State.confined_updRun

theorem State.confined_orderPendingCal : Confined [.run, .mu] s s.orderPendingCal :=
  .ite (fun _ => (State.confined_updRun.mono).andThen State.confined_updMu) fun _ => .refl _ s

theorem State.confined_takeBegin {b} : Confined [.log, .frame, .run, .mu] s (s.takeBegin b) := by
  have due : Confined [.log, .frame, .run, .mu] s (s.updLog fun l => { l with due := some b }) :=
    State.confined_updLog.mono
  unfold State.takeBegin
  dsimp only
  split
  · exact due.andThen State.confined_updFrame
  · exact due.andThen State.confined_orderPendingCal
  · exact due.andThen State.confined_orderPendingCal

theorem State.confined_takeEnd {b} : Confined [.frame, .fetch, .run] s (s.takeEnd b) := by
  have none_open : Confined [.frame, .fetch, .run] s (if b && s.parksNow then
      s.orderFramePark.updFetch fun f => { f with hold := some .park } else s.updFetch fun f => { f with hold := none }) :=
    .ite (fun _ => (State.confined_orderFramePark.mono).andThen State.confined_updFetch)
      fun _ => State.confined_updFetch.mono
  unfold State.takeEnd
  split
  · exact (State.confined_updFrame.mono).andThen State.confined_updFetch
  · exact none_open
  · exact none_open

/-- The blocks of a header. -/
abbrev headerBlocks : List Block := [.fetch, .hostMem, .log, .frame, .run, .mu, .regs]

theorem State.confined_breakChain {n q} : Confined headerBlocks s (s.breakChain n q) := by
  have broken : Confined headerBlocks s ((((s.updFetch fun f => { (f.toPhase .header) with broken := true, reading := none
      }).offerNote ⟨.chainBreak, none, n, 0, q, 0⟩).raise .fault).updRun fun r => { r with chainBreak := true }) :=
    ((((Confined.refl _ s).andThen State.confined_updFetch).andThen State.confined_offerNote).andThen
      State.confined_raise).andThen State.confined_updRun
  exact .ite (fun _ => (broken.andThen State.confined_setRun).andThen State.confined_updRun) fun _ => broken

theorem State.confined_acceptHeader {k b} : Confined headerBlocks s (s.acceptHeader k b) := by
  have listed : ∀ f, Confined headerBlocks s ((s.updFetch f).writeStation 0x2C (headerSeq b).toNat) :=
    fun _ => (State.confined_updFetch.mono).andThen State.confined_writeStation
  unfold State.acceptHeader
  dsimp only
  split
  · exact listed _
  · exact ((listed _).andThen State.confined_updFetch).andThen State.confined_takeBegin
  · exact (listed _).andThen State.confined_takeEnd

theorem State.confined_takeHeader {b} : Confined headerBlocks s (s.takeHeader b) := by
  refine .ite (fun _ => State.confined_breakChain) fun _ => ?_
  split
  · exact State.confined_breakChain
  · exact .ite (fun _ => State.confined_breakChain) fun _ => State.confined_acceptHeader

theorem State.confined_takeRecord {b} : Confined [.fetch, .disp, .nets, .log] s (s.takeRecord b) := by
  unfold State.takeRecord
  split
  · exact .refl _ s
  split
  · exact ((State.confined_updFetch.mono).andThen State.confined_deliver).andThen State.confined_updateRefill
  all_goals exact State.confined_updFetch.mono

theorem State.confined_resultWritten {k} : Confined [.frame, .disp] s (s.resultWritten k) := by
  unfold State.resultWritten
  split
  · exact .refl _ s
  split
  · exact .refl _ s
  · exact (State.confined_updFrame.mono).andThen State.confined_modEntry

/-- The blocks of an entry that has landed. -/
abbrev landedBlocks : List Block := [.nets, .frame, .mu, .log, .fetch, .hostMem, .run, .disp]

theorem State.confined_frameStartWritten {b} : Confined landedBlocks s (s.frameStartWritten b) := by
  unfold State.frameStartWritten
  dsimp only
  refine .andThen (.andThen (bs := landedBlocks) (.ite ?_ ?_) State.confined_updFetch) State.confined_owesLess
  · exact fun _ => ((((Confined.refl _ s).andThen State.confined_updNets).andThen State.confined_updFrame).andThen
      State.confined_updMu).andThen State.confined_updLog
  · exact fun _ => (((((Confined.refl _ s).andThen State.confined_updNets).andThen State.confined_updFrame).andThen
      State.confined_updMu).andThen State.confined_updLog).andThen State.confined_offerNote

theorem State.confined_frameEndWritten : Confined landedBlocks s s.frameEndWritten := by
  let cleared := s.updFrame fun f =>
    { f with state := .none, reason := none, parkOnClose := false, abortDiscards := none, imageBusy := false }
  let park := s.frame.parkOnClose && s.frame.abortDiscards.isNone && s.parksNow
  have owed : Confined landedBlocks s ((if park then cleared.orderFramePark else cleared).updFetch fun f =>
      { f with hold := if f.hold = some .frameEnd then (if park then some .park else none) else f.hold }) :=
    .andThen (.ite (fun _ => (State.confined_updFrame.mono).andThen State.confined_orderFramePark)
      fun _ => State.confined_updFrame.mono) State.confined_updFetch
  have dealt := Confined.ite (p := s.frame.reason = some .boardEnd)
    (fun _ => owed.andThen (State.confined_owesLess (k := .boardEnd) (w := fun _ => true))) fun _ => owed
  exact .ite (fun _ => dealt.andThen State.confined_orderPendingCal) fun _ => dealt

theorem State.confined_entryLanded {k} : Confined landedBlocks s (s.entryLanded k) := by
  unfold State.entryLanded
  split
  · exact State.confined_frameStartWritten
  · exact State.confined_resultWritten.mono
  · exact .refl _ s
  · exact State.confined_frameEndWritten

theorem State.confined_freeSlotOf {k} : Confined [.disp, .fetch, .hostMem] s (s.freeSlotOf k) := by
  unfold State.freeSlotOf
  split
  · exact .refl _ s
  · exact ((((Confined.refl _ s).andThen State.confined_updDisp).andThen State.confined_markScan).andThen
      State.confined_owesLess).andThen State.confined_updateRefill

theorem State.confined_testResults {k} : Confined [.regs, .log] s (s.testResults k) := by
  unfold State.testResults
  split
  · exact (State.confined_raise.mono).andThen State.confined_raiseResults
  all_goals exact .ite (fun _ => State.confined_raiseResults) fun _ => .refl _ s

/-! ## The Run Controller -/

theorem State.confined_goBack : Confined [.run, .fetch, .hostMem] s s.goBack :=
  (State.confined_updRun.mono).andThen State.confined_setRun

theorem State.confined_batch {d p} : Confined travelBlocks s (s.batch d p) :=
  Confined.foldl (fun _ _ => State.confined_orderTravel) _ s

theorem State.confined_runPark {d} : Confined [.claims, .carriages, .linkOut, .disp, .run] s (s.runPark d) :=
  .ite (fun _ => (State.confined_updRun.mono).andThen State.confined_batch) fun _ => .refl _ s

theorem State.confined_calibratePending {r} : Confined [.run, .mu, .fetch, .hostMem] s (s.calibratePending r) :=
  .ite (fun _ => ((State.confined_orderPendingCal.mono).andThen State.confined_updRun).andThen State.confined_setRun)
    fun _ => .refl _ s

/-! ## ABORT -/

theorem State.confined_abortCarriage : Confined [.carriages, .linkOut, .disp] s (s.abortCarriage c) := by
  unfold State.abortCarriage
  dsimp only
  split
  · exact .refl _ s
  · exact .refl _ s
  · exact .refl _ s
  · exact .refl _ s
  · split
    · exact State.confined_sendHalt.mono
    · exact State.confined_toIdle.mono
    · exact State.confined_toIdle.mono
    · exact .refl _ s
  · exact State.confined_modCarr.mono
  · exact State.confined_enterLift.mono
  · exact State.confined_enterLift.mono
  · exact State.confined_enterLift.mono
  · exact State.confined_modCarr.mono

theorem State.confined_abortUnits : Confined serviceBlocks s s.abortUnits :=
  (((((Confined.refl _ s).andThen State.confined_abandonCheck).andThen State.confined_abandonMeasure).andThen
    State.confined_updMu).andThen State.confined_updQual).andThen State.confined_updClaims

end Sys2Proof.Machine
end

section
/-! PROOFS. What changes host memory, which lanes leave a carriage, and what the two resets leave (R32, R35, R168, R173,
R186, R199). -/

set_option Elab.async false

namespace Sys2Proof.Machine

/-! ## Writes to host memory -/

section
variable {s : State} {a : Nat}

/-- A whole write of a Station Block field leaves every byte outside it. -/
theorem State.hostByte_writeStation_ne {o v : Nat} (h : ∀ j < 4, a ≠ (s.station + BitVec.ofNat 64 (o + j)).toNat) :
    (s.writeStation o v).hostByte a = s.hostByte a := by
  refine State.hostByte_writeHost_ne _ _ _ _ fun j hj => ?_
  rw [leBytes_length] at hj
  rw [BitVec.add_assoc, ← BitVec.ofNat_add]
  exact (h j hj).symm

/-- A stopped write leaves every byte that the whole write would leave, however far it got. -/
theorem State.hostByte_writeHostPart_ne {p : Word64} {b : List Byte}
    (h : ∀ j < b.length, a ≠ (p + BitVec.ofNat 64 j).toNat) : (s.writeHostPart p b).hostByte a = s.hostByte a :=
  State.hostByte_writeHost_ne _ _ _ _ fun j hj => (h j (by
    rw [List.length_take] at hj
    exact hj.trans_le (Nat.min_le_right ..))).symm

@[simp] theorem NetTable.image_length (t : NetTable) : t.image.length = t.inUse := by simp [NetTable.image]

theorem ofNat_entry (w j : Nat) (p : Word64) :
    p + BitVec.ofNat 64 w + BitVec.ofNat 64 j = p + BitVec.ofNat 64 (w + j) := by
  rw [BitVec.add_assoc, BitVec.ofNat_add]

/-- The part of a stopped image write. -/
def State.stopImage (s : State) : State :=
  if s.frame.imageBusy then s.writeHostPart s.frame.imageAddr s.nets.image else s

theorem State.stopImage_eq (s : State) :
    s.stopImage = { s with free := s.stopImage.free, hostMem := s.stopImage.hostMem } := by
  unfold State.stopImage
  split <;> rfl

theorem State.hostByte_stopImage_ne
    (h : s.frame.imageBusy = true → ∀ j < s.nets.inUse, a ≠ (s.frame.imageAddr + BitVec.ofNat 64 j).toNat) :
    s.stopImage.hostByte a = s.hostByte a := by
  unfold State.stopImage
  split
  · next busy => exact State.hostByte_writeHostPart_ne (by simpa using h busy)
  · rfl

/-- The part of a stopped entry write. -/
def State.stopEntry (s : State) : State :=
  match s.log.writing with
  | none => s
  | some ⟨_, bytes, .bytes⟩ => s.writeHostPart (s.log.base + BitVec.ofNat 64 (32 * s.log.widx)) bytes
  | some ⟨_, _, .publish⟩ =>
    (if s.progress 1 = 1 then s.writeStation 0x24 (s.log.published + 1).toNat else s).updFree (· + 1)

/-- The writes that a reset stops are the image's and then the entry's. -/
theorem State.stopWrites_eq (s : State) : s.stopWrites = s.stopImage.stopEntry := by
  unfold State.stopWrites State.stopEntry State.stopImage
  rfl

theorem State.stopEntry_none (h : s.log.writing = none) : s.stopEntry = s := by rw [State.stopEntry, h]

theorem State.stopEntry_bytes {k : EntryKind} {b : List Byte} (h : s.log.writing = some ⟨k, b, .bytes⟩) :
    s.stopEntry = s.writeHostPart (s.log.base + BitVec.ofNat 64 (32 * s.log.widx)) b := by rw [State.stopEntry, h]

theorem State.stopEntry_publish {k : EntryKind} {b : List Byte} (h : s.log.writing = some ⟨k, b, .publish⟩) :
    s.stopEntry = (if s.progress 1 = 1 then s.writeStation 0x24 (s.log.published + 1).toNat else s).updFree (· + 1) := by
  rw [State.stopEntry, h]

theorem State.stopEntry_eq (s : State) :
    s.stopEntry = { s with free := s.stopEntry.free, hostMem := s.stopEntry.hostMem } := by
  unfold State.stopEntry
  split
  · rfl
  · rfl
  · split <;> rfl

theorem State.stopWrites_same (s : State) :
    s.stopWrites = { s with free := s.stopWrites.free, hostMem := s.stopWrites.hostMem } := by
  rw [s.stopWrites_eq, s.stopImage.stopEntry_eq, s.stopImage_eq]

theorem State.hostByte_stopEntry_ne
    (hb : ∀ k b, s.log.writing = some ⟨k, b, .bytes⟩ → ∀ j < b.length,
      a ≠ (s.log.base + BitVec.ofNat 64 (32 * s.log.widx + j)).toNat)
    (hp : ∀ k b, s.log.writing = some ⟨k, b, .publish⟩ → ∀ j < 4, a ≠ (s.station + BitVec.ofNat 64 (0x24 + j)).toNat) :
    s.stopEntry.hostByte a = s.hostByte a := by
  match hw : s.log.writing with
  | none => rw [State.stopEntry_none hw]
  | some ⟨k, b, .bytes⟩ =>
    rw [State.stopEntry_bytes hw]
    exact State.hostByte_writeHostPart_ne fun j hj => by rw [ofNat_entry]; exact hb k b hw j hj
  | some ⟨k, b, .publish⟩ =>
    rw [State.stopEntry_publish hw]
    split
    · exact State.hostByte_writeStation_ne (hp k b hw)
    · rfl

/-- What a reset stops leaves every byte outside the writes in progress (R168, R186). -/
theorem State.hostByte_stopWrites_ne
    (hi : s.frame.imageBusy = true → ∀ j < s.nets.inUse, a ≠ (s.frame.imageAddr + BitVec.ofNat 64 j).toNat)
    (hb : ∀ k b, s.log.writing = some ⟨k, b, .bytes⟩ → ∀ j < b.length,
      a ≠ (s.log.base + BitVec.ofNat 64 (32 * s.log.widx + j)).toNat)
    (hp : ∀ k b, s.log.writing = some ⟨k, b, .publish⟩ → ∀ j < 4, a ≠ (s.station + BitVec.ofNat 64 (0x24 + j)).toNat) :
    s.stopWrites.hostByte a = s.hostByte a := by
  rw [s.stopWrites_eq, State.hostByte_stopEntry_ne, State.hostByte_stopImage_ne hi] <;> rw [s.stopImage_eq] <;>
    assumption
end

/-! ## Host memory along a command -/

/-- The byte at an address, and the Station Block's address, are those of a state. -/
def SameByte (s : State) (a : Nat) (t : State) : Prop := t.hostByte a = s.hostByte a ∧ t.station = s.station

section
variable {s t u : State} {a : Nat}

theorem SameByte.refl (s : State) (a : Nat) : SameByte s a s := ⟨rfl, rfl⟩

theorem SameByte.other (h : SameByte s a t) (hm : u.hostMem = t.hostMem) (hb : u.regs.stationBase = t.regs.stationBase) :
    SameByte s a u := by
  refine ⟨?_, ?_⟩
  · rw [State.hostByte, hm]; exact h.1
  · rw [State.station, hb]; exact h.2

/-- An address that no field of the Station Block has (R173). -/
def OffStation (s : State) (a : Nat) : Prop :=
  ∀ o ∈ [0x24, 0x28, 0x2C, 0x30], ∀ j < 4, a ≠ (s.station + BitVec.ofNat 64 (o + j)).toNat

/-- The byte is kept by every change but the writes of entries and images, the resets and a write of STATION_BASE. -/
theorem sameByte_kept {i : Instr} (ha : OffStation s a)
    (hi : i ∉ [.abort, .reset, .powerOnReset, .entryWritten, .netImageWritten]) (hw : ∀ w, i ≠ .stationBaseWrite w) :
    KeptBy (SameByte s a) i where
  free hs := hs.other rfl rfl
  linkOut hs := hs.other rfl rfl
  station ho hs := by
    obtain ⟨hbyte, hstation⟩ := hs
    exact ⟨(State.hostByte_writeStation_ne (hstation ▸ ha _ ho)).trans hbyte, hstation⟩
  cause hs := hs.other rfl rfl
  run _ hs := hs.other rfl rfl
  setup _ hs := hs.other rfl rfl
  restore _ _ hs := hs.other rfl rfl
  carriages hs := hs.other rfl rfl
  qual hs := hs.other rfl rfl
  guard _ hs := hs.other rfl rfl
  frame _ hs := hs.other rfl rfl
  fetch _ hs := hs.other rfl rfl
  mu _ hs := hs.other rfl rfl
  disp _ hs := hs.other rfl rfl
  deliver _ hs := hs.other rfl rfl
  nets _ hs := hs.other rfl rfl
  note hs := hs.other rfl rfl
  hold _ hs := hs.other rfl rfl
  log _ hs := hs.other rfl rfl
  write _ _ hs := hs.other rfl rfl
  landed _ _ hs := hs.other rfl rfl
  publish _ hs := hs.other rfl rfl
  fresh _ hs := hs.other rfl rfl
  pend _ hs := hs.other rfl rfl
  wait _ _ hs := hs.other rfl rfl
  take _ _ _ hs := hs.other rfl rfl
  grant _ _ hs := hs.other rfl rfl
  clear hs := hs.other rfl rfl
  build _ _ _ hs := hs.other rfl rfl
  host hh _ := absurd (by simpa using hh) hi
  base hb _ _ := absurd hb (hw _)
  status _ hs := hs.other rfl rfl
  enable _ hs := hs.other rfl rfl
  force _ hs := hs.other rfl rfl
  comparator _ hs := hs.other rfl rfl
  shrink _ _ _ _ hs := hs.other rfl rfl
  calibration _ _ _ _ hs := hs.other rfl rfl
  block _ _ hs := hs.other rfl rfl
  newSetup _ _ hs := hs.other rfl rfl
  drained _ hs := hs.other rfl rfl
  reset hr _ := absurd (by simp [hr]) hi
  powerOn hr _ := absurd (by simp [hr]) hi

/-- The byte is kept by every change inside the part. -/
theorem sameByte_inside (ha : OffStation s a) : KeptBy (SameByte s a) .stop :=
  sameByte_kept ha (by simp) fun _ => nofun

/-- The frame and the log under ABORT: the image that it stops is all that is written. -/
theorem sameByte_abortLog {n : Nat} (h : SameByte s a t)
    (hi : t.frame.imageBusy = true → ∀ j < t.nets.inUse, a ≠ (t.frame.imageAddr + BitVec.ofNat 64 j).toNat) :
    SameByte s a (t.abortLog n) := by
  have stopped : SameByte s a (if t.frame.imageBusy then
      (t.writeHostPart t.frame.imageAddr t.nets.image).updFrame fun f => { f with imageBusy := false } else t) := by
    split
    · next busy => exact ⟨(State.hostByte_writeHostPart_ne (by simpa using hi busy)).trans h.1, h.2⟩
    · exact h
  exact stopped.other rfl rfl

theorem SameByte.of_confined {bs : List Block} (h : SameByte s a t) (hc : Confined bs t u)
    (hm : .hostMem ∉ bs := by decide) (hr : .regs ∉ bs := by decide) : SameByte s a u :=
  h.other (hc.hostMem hm) (by rw [hc.regs hr])

/-- What ABORT does after the controller has entered ABORTING. -/
theorem State.confined_abortCarriages {p : Prop} [Decidable p] {f : RunCtl → RunCtl} :
    Confined [.run, .carriages, .linkOut, .disp] s
      ((allCarriages.foldl (fun s c => s.abortCarriage c) (if p then s.retip else s)).updRun f) :=
  .andThen (.andThen (.ite (fun _ => State.confined_retip.mono) fun _ => .refl _ s)
    (Confined.foldl (fun _ _ => State.confined_abortCarriage) allCarriages _)) State.confined_updRun

/-- Under ABORT the part writes the image that it stops, and its fields of the Station Block (R168, R174). -/
theorem sameByte_acceptAbort (ha : OffStation s a)
    (hi : s.frame.imageBusy = true → ∀ j < s.nets.inUse, a ≠ (s.frame.imageAddr + BitVec.ofNat 64 j).toNat) :
    SameByte s a s.acceptAbort := by
  have units : ∀ f, Confined (.run :: serviceBlocks) s ((s.setLast .accepted).abortUnits.updDisp f) := fun f =>
    ((State.confined_setLast.mono).andThen State.confined_abortUnits).andThen State.confined_updDisp
  have logged := fun f n => sameByte_abortLog (n := n) ((SameByte.refl s a).of_confined (units f))
    (by rw [(units f).frame, (units f).nets]; exact hi)
  have aborting := fun f n => (sameByte_inside ha).setRun (q := .aborting)
    ((logged f n).of_confined (State.confined_updFetch (f := Fetcher.abort)))
  exact (aborting _ _).of_confined State.confined_abortCarriages

/-- A whole write leaves every byte outside it. -/
theorem SameByte.writeHost {p : Word64} {b : List Byte} (h : SameByte s a t)
    (hp : ∀ j < b.length, a ≠ (p + BitVec.ofNat 64 j).toNat) : SameByte s a (t.writeHost p b) :=
  ⟨(State.hostByte_writeHost_ne _ _ _ _ fun j hj => (hp j hj).symm).trans h.1, h.2⟩

/-- The completion of an entry writes the entry's bytes (R186). -/
theorem sameByte_entryWritten (ha : OffStation s a)
    (hb : ∀ k b, s.log.writing = some ⟨k, b, .bytes⟩ → ∀ j < b.length,
      a ≠ (s.log.base + BitVec.ofNat 64 (32 * s.log.widx + j)).toNat) :
    Answers (SameByte s a) (execEntryWritten s) := by
  have inside := sameByte_inside ha
  unfold execEntryWritten
  split
  · next k b hw =>
    have written : SameByte s a (s.writeHost (s.log.base + BitVec.ofNat 64 (32 * s.log.widx)) b) :=
      (SameByte.refl s a).writeHost fun j hj => by rw [ofNat_entry]; exact hb k b hw j hj
    have landed : SameByte s a
        ((s.writeHost (s.log.base + BitVec.ofNat 64 (32 * s.log.widx)) b).entryLanded k) :=
      inside.entryLanded (w := ⟨k, b, .bytes⟩) hw rfl written
    exact .next (inside.finish (landed.of_confined State.confined_updLog))
  · exact .next (.refl s a)
  · exact .next (.refl s a)

/-- The completion of the net image writes the image (R168). -/
theorem sameByte_netImageWritten (ha : OffStation s a)
    (hi : s.frame.imageBusy = true → ∀ j < s.nets.inUse, a ≠ (s.frame.imageAddr + BitVec.ofNat 64 j).toNat) :
    Answers (SameByte s a) (execNetImageWritten s) := by
  refine .ite (fun busy => .next ((sameByte_inside ha).finish ?_)) fun _ => .next (.refl s a)
  have written := (SameByte.refl s a).writeHost (p := s.frame.imageAddr) (b := s.nets.image) (by simpa using hi busy)
  exact written.of_confined State.confined_updFrame

/-- Settles O12: a command other than six writes through the Station Block's fields alone; the six write what they
complete or stop. -/
theorem hostMemoryFrame : Obligations.HostMemoryFrame := by
  unfold Obligations.HostMemoryFrame
  intro i s t a ht ha hentry himage
  have station : OffStation s a := ha
  have stopped (hi : i = .reset ∨ i = .powerOnReset) : s.stopWrites.hostByte a = s.hostByte a :=
    State.hostByte_stopWrites_ne (himage (by rcases hi with rfl | rfl <;> simp))
      (hentry (by rcases hi with rfl | rfl <;> simp)) fun _ _ _ => ha 0x24 (by simp)
  by_cases special : i ∈ [.abort, .reset, .powerOnReset, .entryWritten, .netImageWritten]
  · simp only [List.mem_cons, List.not_mem_nil, or_false] at special
    rcases special with rfl | rfl | rfl | rfl | rfl
    · have done : Answers (SameByte s a) (execAbort s) := by
        have aborted := (sameByte_inside station).finish (sameByte_acceptAbort station (himage (by simp)))
        unfold execAbort
        split
        iterate 4 exact .next aborted
        all_goals exact .next ((SameByte.refl s a).other rfl rfl)
      exact (done t ht).1
    · cases ht
      exact stopped (.inl rfl)
    · cases ht
      exact stopped (.inr rfl)
    · exact (sameByte_entryWritten station (hentry (by simp)) t ht).1
    · exact (sameByte_netImageWritten station (himage (by simp)) t ht).1
  · by_cases register : ∃ w, i = .stationBaseWrite w
    · obtain ⟨w, rfl⟩ := register
      have written : Answers (fun u => u.hostByte a = s.hostByte a) (execStationBaseWrite w s) :=
        .ite (fun _ => .next rfl) fun _ => .next rfl
      exact written t ht
    · exact ((sameByte_kept station special fun w hw => register ⟨w, hw⟩).exec (.refl s a) t ht).1
end

/-! ## Lanes -/

/-- A change of a pending list leaves the lanes of both sides. -/
theorem State.cells_modTable {s : State} {d e : Side} {f : ClaimTable → ClaimTable} (hf : ∀ t, (f t).cells = t.cells) :
    ((s.modTable e f).table d).cells = (s.table d).cells := by
  rw [State.table_modTable]
  split
  · next h => rw [hf, h]
  · rfl

/-- Lane `k` stays with its carriage on the way from `s`, by lawful tables, where neither a reset nor START's answers nor a
report of the carriage itself comes in. -/
structure LaneStays (i : Instr) (s : State) (d : Side) (k : Nat) (x : Carriage) (t : State) : Prop where
  laws : t.ClaimLaws
  owns : Owns (t.table d).cells k x
  stage : t.run.stage ≠ some .answers

section
variable {i : Instr} {s t u : State} {d : Side} {k : Nat} {x : Carriage}

theorem LaneStays.other (h : LaneStays i s d k x t) (hc : u.claims = t.claims) (hr : u.run = t.run) :
    LaneStays i s d k x u where
  laws := h.laws.congr hc (by rw [hr])
  owns := by rw [State.table, hc]; exact h.owns
  stage := hr ▸ h.stage

/-- A change of a pending list leaves the lane. -/
theorem LaneStays.owns_pend {e : Side} {f : ClaimTable → ClaimTable} (h : LaneStays i s d k x t)
    (hf : ∀ t, (f t).cells = t.cells) : Owns ((t.modTable e f).table d).cells k x :=
  (State.cells_modTable hf).symm ▸ h.owns

/-- A release of another carriage leaves the lane (R32). -/
theorem LaneStays.shrink {c : Carriage} {m j : Interval} (h : LaneStays i s d k x t) (hk : t.claimOf c = some m)
    (hw : j.within m = true) (hc : c ≠ x) : LaneStays i s d k x (t.shrinkLanes c j) where
  laws := h.laws.modTable ((h.laws.table _).release hk hw)
  owns := by
    rw [State.shrinkLanes, State.table_modTable]
    split
    · next hd =>
      subst hd
      obtain ⟨-, hlo, hhi, -⟩ := claimFrom_spec hk
      simp only [Interval.within, Bool.and_eq_true, decide_eq_true_eq] at hw
      refine (owns_paint ..).2 (.inr ⟨(owns_freeCells ..).2 ⟨hc.symm, h.owns⟩, fun inside => hc ?_⟩)
      have mine := (h.laws.table _).contiguous c _ _ k hlo hhi (by omega) (by omega)
      rw [h.owns] at mine
      simpa using mine.symm
    · exact h.owns
  stage := h.stage

/-- The lane is kept by every change of a command that is no reset, no setup read and no report of its own carriage. -/
theorem laneStays_kept (hreset : i ≠ .reset) (hpower : i ≠ .powerOnReset) (hsetup : ∀ b, i ≠ .setupRecordRead b)
    (hown : ∀ p, i ≠ .arrived x p ∧ i ≠ .halted x p) : KeptBy (LaneStays i s d k x) i where
  free hs := hs.other rfl rfl
  linkOut hs := hs.other rfl rfl
  station _ hs := hs.other rfl rfl
  cause hs := hs.other rfl rfl
  run hr hs := ⟨hs.laws.updRun hr, hs.owns, fun e => hs.stage (hr.1 e)⟩
  setup _ hs := hs.other rfl rfl
  restore ha _ hs := absurd ha hs.stage
  carriages hs := hs.other rfl rfl
  qual hs := hs.other rfl rfl
  guard _ hs := hs.other rfl rfl
  frame _ hs := hs.other rfl rfl
  fetch _ hs := hs.other rfl rfl
  mu _ hs := hs.other rfl rfl
  disp _ hs := hs.other rfl rfl
  deliver _ hs := hs.other rfl rfl
  nets _ hs := hs.other rfl rfl
  note hs := hs.other rfl rfl
  hold _ hs := hs.other rfl rfl
  log _ hs := hs.other rfl rfl
  write _ _ hs := hs.other rfl rfl
  landed _ _ hs := hs.other rfl rfl
  publish _ hs := hs.other rfl rfl
  fresh _ hs := hs.other rfl rfl
  pend hl hs := ⟨claimLaws_kept.pend hl hs.laws, hs.owns_pend fun _ => rfl, hs.stage⟩
  wait hk hp hs := ⟨hs.laws.wait hk hp, hs.owns_pend fun _ => rfl, hs.stage⟩
  take hk hp hf hs := ⟨hs.laws.take hk hp hf, State.takeLanes_keeps _ hf hs.owns, hs.stage⟩
  grant he hf hs := ⟨hs.laws.grant he hf, State.takeLanes_keeps _ hf hs.owns, hs.stage⟩
  clear hs := ⟨claimLaws_kept.clear hs.laws, by cases d <;> exact hs.owns, hs.stage⟩
  build ha _ _ hs := absurd ha hs.stage
  host _ hs := hs.other rfl rfl
  base _ _ hs := hs.other rfl rfl
  status _ hs := hs.other rfl rfl
  enable _ hs := hs.other rfl rfl
  force _ hs := hs.other rfl rfl
  comparator _ hs := hs.other rfl rfl
  shrink hi hk hw _ hs := hs.shrink hk hw fun hc => by
    subst hc
    obtain ⟨hn, hm⟩ := hown _
    exact hi.elim hn hm
  calibration _ _ _ _ hs := hs.other rfl rfl
  block _ _ hs := ⟨hs.laws.congr rfl rfl, hs.owns, fun e => nomatch e⟩
  newSetup hi _ _ := absurd hi (hsetup _)
  drained _ hs := hs.other rfl rfl
  reset hi _ := absurd hi hreset
  powerOn hi _ := absurd hi hpower

/-- A report in another state than TRAVEL changes no lane. -/
theorem laneStays_late {p : Pos} (hs : LaneStays i s d k x s) (hstate : (s.carr x).state ≠ .travel) :
    Answers (LaneStays i s d k x) (execArrived x p s) ∧ Answers (LaneStays i s d k x) (execHalted x p s) := by
  have inside : KeptBy (LaneStays .stop s d k x) .stop :=
    laneStays_kept (by simp) (by simp) (by simp) (by simp)
  have hs' : LaneStays .stop s d k x s := ⟨hs.laws, hs.owns, hs.stage⟩
  have back {u : State} (h : LaneStays .stop s d k x u) : LaneStays i s d k x u := ⟨h.laws, h.owns, h.stage⟩
  have late : ∀ r, LaneStays i s d k x (s.lateResponse x r).finish := fun r =>
    back (inside.finish (inside.lateResponse hs'))
  unfold execArrived execHalted
  exact ⟨.ite (fun h => absurd h.1 hstate) fun _ => .ite (fun _ => .next (back (inside.modCarr hs'))) fun _ => .next (late _),
    .ite (fun h => absurd h.1 hstate) fun _ => .next (late _)⟩

/-- Settles O8: beside the resets and START, a release is the only change that frees a lane, and it frees its own
carriage's alone. -/
theorem lanesLeaveOnlyByReport : Obligations.LanesLeaveOnlyByReport := by
  unfold Obligations.LanesLeaveOnlyByReport
  intro i s t d k x laws ht owns
  by_contra leaves
  simp only [not_or, not_and, not_exists] at leaves
  obtain ⟨left, hreset, hpower, hstage, hsetup, hown⟩ := leaves
  have start : LaneStays i s d k x s := ⟨laws, owns, hstage⟩
  have stays : Answers (LaneStays i s d k x) (exec i s) := by
    by_cases own : ∃ p, i = .arrived x p ∨ i = .halted x p
    · obtain ⟨p, rfl | rfl⟩ := own
      · exact (laneStays_late start fun h => (hown h p).1 rfl).1
      · exact (laneStays_late start fun h => (hown h p).2 rfl).2
    · simp only [not_exists, not_or] at own
      exact (laneStays_kept hreset hpower hsetup own).exec start
  exact left (stays t ht).owns
end

end Sys2Proof.Machine
end

section
/-! PROOFS. What the named operations leave: a change of controller state, the record of a carriage, and the bytes that
a write of a number leaves in host memory. -/

set_option Elab.async false

namespace Sys2Proof.Machine

variable {s : State} {c x : Carriage}

/-! ## The state that an operation confined to some blocks leaves -/

/-- `s` with the listed blocks of `t`. -/
def State.mix (bs : List Block) (s t : State) : State where
  pending := if .pending ∈ bs then t.pending else s.pending
  clock := if .clock ∈ bs then t.clock else s.clock
  free := if .free ∈ bs then t.free else s.free
  linkOut := if .linkOut ∈ bs then t.linkOut else s.linkOut
  hostMem := if .hostMem ∈ bs then t.hostMem else s.hostMem
  regs := if .regs ∈ bs then t.regs else s.regs
  run := if .run ∈ bs then t.run else s.run
  setup := if .setup ∈ bs then t.setup else s.setup
  claims := if .claims ∈ bs then t.claims else s.claims
  carriages := if .carriages ∈ bs then t.carriages else s.carriages
  pins := if .pins ∈ bs then t.pins else s.pins
  qual := if .qual ∈ bs then t.qual else s.qual
  disp := if .disp ∈ bs then t.disp else s.disp
  mu := if .mu ∈ bs then t.mu else s.mu
  guard := if .guard ∈ bs then t.guard else s.guard
  nets := if .nets ∈ bs then t.nets else s.nets
  frame := if .frame ∈ bs then t.frame else s.frame
  log := if .log ∈ bs then t.log else s.log
  fetch := if .fetch ∈ bs then t.fetch else s.fetch

/-- What differs from `s` in the listed blocks alone is `s` with those blocks. -/
theorem Confined.eq_mix {bs : List Block} {t : State} (h : Confined bs s t) : t = s.mix bs t := by
  refine State.eq_of_same fun b => ?_
  by_cases hb : b ∈ bs
  · cases b <;> exact (if_pos hb).symm
  · cases b <;> exact Eq.trans (h _ hb) (if_neg hb).symm

/-! ## A change of controller state -/

section
variable (q : RunState)
theorem State.setRun_run : (s.setRun q).run = { s.run with state := q } := by rw [State.setRun_eq]
theorem State.setRun_fetch : (s.setRun q).fetch = { s.fetch with waiting := false } := by rw [State.setRun_eq]
@[simp] theorem State.setRun_pending : (s.setRun q).pending = s.pending := State.confined_setRun.pending
@[simp] theorem State.setRun_clock : (s.setRun q).clock = s.clock := State.confined_setRun.clock
@[simp] theorem State.setRun_free : (s.setRun q).free = s.free := State.confined_setRun.free
@[simp] theorem State.setRun_linkOut : (s.setRun q).linkOut = s.linkOut := State.confined_setRun.linkOut
@[simp] theorem State.setRun_setup : (s.setRun q).setup = s.setup := State.confined_setRun.setup
@[simp] theorem State.setRun_pins : (s.setRun q).pins = s.pins := State.confined_setRun.pins
@[simp] theorem State.setRun_qual : (s.setRun q).qual = s.qual := State.confined_setRun.qual
@[simp] theorem State.setRun_disp : (s.setRun q).disp = s.disp := State.confined_setRun.disp
@[simp] theorem State.setRun_mu : (s.setRun q).mu = s.mu := State.confined_setRun.mu
@[simp] theorem State.setRun_guard : (s.setRun q).guard = s.guard := State.confined_setRun.guard
@[simp] theorem State.setRun_nets : (s.setRun q).nets = s.nets := State.confined_setRun.nets
@[simp] theorem State.setRun_frame : (s.setRun q).frame = s.frame := State.confined_setRun.frame
@[simp] theorem State.setRun_log : (s.setRun q).log = s.log := State.confined_setRun.log
@[simp] theorem State.setRun_carr : (s.setRun q).carr c = s.carr c := State.confined_setRun.carr c
end

/-- The `i`-th byte of a number written little-endian. -/
theorem leBytes_getElem (n v i : Nat) (h : i < (leBytes n v).length) :
    (leBytes n v)[i] = BitVec.ofNat 8 (v / 256 ^ i) := by
  induction n generalizing v i with
  | zero => simp at h
  | succ n ih =>
    cases i with
    | zero => simp [leBytes]
    | succ i =>
      simp only [leBytes_length, Nat.add_lt_add_iff_right] at h
      rw [show (leBytes (n + 1) v)[i + 1] = (leBytes n (v / 256))[i]'(by simpa using h) from rfl, ih, Nat.pow_succ',
        Nat.div_div_eq_div_mul]

/-- The bytes of a written word are its bits. -/
theorem leBytes_word (w : Word32) (i : Nat) (h : i < (leBytes 4 w.toNat).length) :
    (leBytes 4 w.toNat)[i] = w.extractLsb' (8 * i) 8 := by
  rw [leBytes_getElem]
  apply BitVec.eq_of_toNat_eq
  simp only [BitVec.toNat_ofNat, BitVec.extractLsb'_toNat, Nat.shiftRight_eq_div_pow, Nat.pow_mul]

/-- After a change of controller state the mirror, once it is written, shows STATE. -/
theorem State.mirror_shows (q : RunState) (hm : s.run.mirror = true) {j : Nat} (hj : j < 4) :
    (s.setRun q).hostByte (s.station + 0x30 + BitVec.ofNat 64 j).toNat =
      some ((s.setRun q).stateReg.extractLsb' (8 * j) 8) := by
  have hl : j < (leBytes 4 (s.setRun q).stateReg.toNat).length := by rwa [leBytes_length]
  have hmem : (s.setRun q).hostMem = putBytes (s.station + 0x30) (leBytes 4 (s.setRun q).stateReg.toNat) s.hostMem :=
    (congrArg State.hostMem (State.setRun_eq q)).trans (if_pos hm)
  rw [State.hostByte, hmem]
  exact (lookupKey_putBytes _ _ _ _ hl (by rw [leBytes_length]; decide)).trans (congrArg some (leBytes_word _ _ hl))

/-! ## The record of a carriage -/

theorem State.carr_setTip {t : Tip} : (s.setTip c t).carr c =
    { s.carr c with tip := if s.run.state = .halted then .isolated else t } := State.carr_modCarr_same ..

theorem State.carr_setTip_ne {t : Tip} (h : x ≠ c) : (s.setTip c t).carr x = s.carr x := State.carr_modCarr_ne _ _ h

theorem State.carr_setCarr {q : CarriageState} : (s.setCarr c q).carr c =
    { s.carr c with state := q, tip := if s.run.state = .halted then .isolated else tipFor q } := by
  rw [State.setCarr, State.carr_setTip, State.carr_modCarr_same]
  rfl

theorem State.carr_setCarr_ne {q : CarriageState} (h : x ≠ c) : (s.setCarr c q).carr x = s.carr x := by
  rw [State.setCarr, State.carr_setTip_ne h, State.carr_modCarr_ne _ _ h]

theorem State.carr_send_ne {q : AxisRequest} (h : x ≠ c) : (s.send c q).carr x = s.carr x :=
  State.carr_modCarr_ne _ _ h

theorem State.carr_sendHalt : (s.sendHalt c).carr c =
    { (s.carr c).stopTimer s.clock with
      request := some ⟨.halt, true⟩, phase := some .halting, timer := some s.setup.moveMs } := by
  rw [State.sendHalt, State.carr_modCarr_same, State.carr_send]
  rfl

theorem State.carr_sendHalt_ne (h : x ≠ c) : (s.sendHalt c).carr x = s.carr x := by
  rw [State.sendHalt, State.carr_modCarr_ne _ _ h, State.carr_send_ne h]

theorem State.carr_toIdle : (s.toIdle c).carr c =
    { s.carr c with
      state := .idle, phase := none, purpose := none, service := none, ended := false, target := none, followOn := none
      tip := if s.run.state = .halted then .isolated else .bleed } := by
  rw [State.toIdle, State.confined_markScan.carr, State.confined_leaveAssignments.carr, State.carr_modCarr_same,
    State.carr_setCarr]
  rfl

theorem State.carr_toIdle_ne (h : x ≠ c) : (s.toIdle c).carr x = s.carr x := by
  rw [State.toIdle, State.confined_markScan.carr, State.confined_leaveAssignments.carr, State.carr_modCarr_ne _ _ h,
    State.carr_setCarr_ne h]

theorem State.carr_enterDescend : (s.enterDescend c).carr c =
    { (s.carr c).stopTimer s.clock with
      state := .descend, phase := none, purpose := none, request := some ⟨.descend, false⟩
      timer := some s.setup.descendMs, tip := if s.run.state = .halted then .isolated else .bleed } := by
  rw [State.enterDescend, State.confined_markArrived.carr, State.carr_send, State.carr_modCarr_same, State.carr_setCarr]
  rfl

theorem State.carr_enterDescend_ne (h : x ≠ c) : (s.enterDescend c).carr x = s.carr x := by
  rw [State.enterDescend, State.confined_markArrived.carr, State.carr_send_ne h, State.carr_modCarr_ne _ _ h,
    State.carr_setCarr_ne h]

theorem State.carr_enterLift {f : FollowOn} : (s.enterLift c f).carr c =
    { (s.carr c).stopTimer s.clock with
      state := .lift, phase := none, purpose := none, followOn := some f, probeUp := false
      request := some ⟨.lift, false⟩, timer := some s.setup.liftMs, tip := .isolated } := by
  rw [State.enterLift, State.carr_send, State.carr_modCarr_same, State.carr_setCarr]
  simp only [tipFor, ite_self]
  rfl

theorem State.carr_enterLift_ne {f : FollowOn} (h : x ≠ c) : (s.enterLift c f).carr x = s.carr x := by
  rw [State.enterLift, State.carr_send_ne h, State.carr_modCarr_ne _ _ h, State.carr_setCarr_ne h]

/-- A grant sends the carriage to its target. -/
theorem State.carr_deliverGrant {p : Pos} (h : (s.carr c).target = some p) : (s.deliverGrant c).carr c =
    { (s.carr c).stopTimer s.clock with
      phase := some .moving, request := some ⟨.move, false⟩, timer := some s.setup.moveMs } := by
  rw [State.deliverGrant, h]
  change (State.send c (.move p) _).carr c = _
  rw [State.carr_send, State.carr_modCarr_same]
  rfl

theorem State.carr_deliverGrant_ne (h : x ≠ c) : (s.deliverGrant c).carr x = s.carr x := by
  unfold State.deliverGrant
  split
  · rfl
  · rw [State.carr_send_ne h, State.carr_modCarr_ne _ _ h]

/-- A carriage's record with the tip that its state gives. -/
def CarriageRec.retipped (q : RunState) (r : CarriageRec) : CarriageRec :=
  { r with tip := if q = .halted then .isolated else tipFor r.state }

theorem State.carr_retips (l : List Carriage) (s : State) (c : Carriage) :
    (l.foldl (fun s c => s.setTip c (tipFor (s.carr c).state)) s).carr c =
      if c ∈ l then (s.carr c).retipped s.run.state else s.carr c := by
  induction l generalizing s with
  | nil => rfl
  | cons x rest ih =>
    rw [List.foldl_cons, ih, State.confined_setTip.run]
    by_cases e : c = x
    · subst e
      rw [State.carr_setTip]
      simp [CarriageRec.retipped]
    · rw [State.carr_setTip_ne e]
      simp [e]

theorem mem_allCarriages (c : Carriage) : c ∈ allCarriages := by cases c <;> decide

theorem State.carr_retip : s.retip.carr c = (s.carr c).retipped s.run.state := by
  rw [State.retip, State.carr_retips, if_pos (mem_allCarriages c)]

end Sys2Proof.Machine
end

section
/-! PROOFS. The host's commands and the resets: what each leaves, and what it does in a state that does not accept it
(R189 to R199). -/

set_option Elab.async false

namespace Sys2Proof.Machine

/-! ## The writes that a reset stops -/

section
variable {s : State}

/-- A reset stops writes in host memory and takes free values; it reads all else as it stands. -/
theorem State.exists_stopWrites (s : State) : ∃ n m, s.stopWrites = { s with free := n, hostMem := m } :=
  ⟨_, _, s.stopWrites_same⟩

theorem State.progress_le (n : Nat) : s.progress n ≤ n := Nat.min_le_right ..

theorem State.stopImage_idle (h : s.frame.imageBusy = false) : s.stopImage = s := if_neg (by simp [h])

theorem State.stopImage_busy (h : s.frame.imageBusy = true) :
    s.stopImage = s.writeHostPart s.frame.imageAddr s.nets.image := if_pos h

end

/-- What power-on reset leaves, block by block, is what R199 lists. -/
theorem State.reset_nets_get (n : Nat) : State.reset.nets.get n = ⟨.untested, 0, none⟩ := rfl

theorem State.reset_cells (d : Side) {k : Nat} (h : k < 128) : (State.reset.table d).cells[k]? = some none := by
  cases d <;> exact List.getElem?_replicate_of_lt h

end Sys2Proof.Machine

open Sys2Proof Sys2Proof.Machine in
/-- Settles O13: the resets are read off their definitions, with what each kind of stopped write leaves. -/
theorem resets : Obligations.Resets := by
  refine ⟨fun s => ?_, fun s => ?_, fun s idle none_ => ?_, fun s busy none_ => ?_, fun s k b idle bytes => ?_,
    fun s k b idle publish => ?_, fun s a image entry count => s.hostByte_stopWrites_ne image entry count, ?_⟩
  · obtain ⟨n, m, e⟩ := s.exists_stopWrites
    rw [e]
    exact congrArg (fun u : State => Host.Outcome.next u.afterPowerOn) e
  · obtain ⟨n, m, e⟩ := s.exists_stopWrites
    rw [e]
    exact congrArg (fun u : State => Host.Outcome.next u.haltAll.afterReset) e
  · rw [State.stopWrites_eq, State.stopImage_idle idle, State.stopEntry_none none_]
  · refine ⟨s.progress s.nets.image.length, s.nets.image_length ▸ State.progress_le _, ?_⟩
    rw [State.stopWrites_eq, State.stopImage_busy busy,
      State.stopEntry_none (s := s.writeHostPart s.frame.imageAddr s.nets.image) none_]
    rfl
  · refine ⟨s.progress b.length, State.progress_le _, ?_⟩
    rw [State.stopWrites_eq, State.stopImage_idle idle, State.stopEntry_bytes bytes]
    rfl
  · refine ⟨decide (s.progress 1 = 1), ?_⟩
    rw [State.stopWrites_eq, State.stopImage_idle idle, State.stopEntry_publish publish]
    by_cases landed : s.progress 1 = 1
    · simp only [landed, decide_true, if_true]; rfl
    · simp only [landed, decide_false, if_false]; rfl
  · exact ⟨⟨rfl, rfl, rfl, rfl, rfl, rfl, rfl, rfl⟩, ⟨rfl, rfl, rfl, rfl⟩, by decide +kernel,
      fun d k h => State.reset_cells d h, fun d => by cases d <;> rfl, fun c => by cases c <;> rfl,
      fun c => by cases c <;> rfl, rfl, rfl, ⟨rfl, rfl, rfl, rfl, rfl, rfl, rfl, rfl, rfl, rfl, rfl⟩,
      ⟨rfl, rfl, rfl, rfl⟩, State.reset_nets_get, rfl, ⟨rfl, rfl, rfl, rfl, rfl, rfl, rfl, rfl⟩, rfl, rfl, rfl, rfl⟩

open Sys2Proof Sys2Proof.Machine in
/-- Settles O14: each command by the controller state. -/
theorem commandsIgnored : Obligations.CommandsIgnored := by
  intro s r
  refine ⟨fun h => ?_, fun h => ?_, fun h => ?_, fun h => ?_, fun h => ?_, fun code => rfl⟩
  · change execStart s = r
    unfold execStart
    split <;> simp_all <;> rfl
  · change execStop s = r
    unfold execStop
    split <;> simp_all <;> rfl
  · change execAbort s = r
    unfold execAbort
    split <;> simp_all <;> rfl
  · change execClearFault s = r
    unfold execClearFault
    split <;> simp_all <;> rfl
  · change execCalibrate s = r
    unfold execCalibrate
    split <;> simp_all <;> rfl

open Sys2Proof Sys2Proof.Machine in
/-- Settles O15: both origins accept alike, and STARTING begins with the mirror on. -/
theorem startAccepted : Obligations.StartAccepted := by
  intro s o ret h
  refine ⟨s.acceptStart o ret, ?_, ?_⟩
  · change execStart s = _
    unfold execStart
    obtain ⟨hs, rfl, rfl⟩ | ⟨hs, rfl, rfl⟩ := h <;> rw [hs]
  · conv_lhs => rw [State.acceptStart, State.setRun_eq]
    rfl

open Sys2Proof Sys2Proof.Machine in
/-- Settles O17. -/
theorem calibrateOrders : Obligations.CalibrateOrders := by
  refine ⟨fun s ret h => ⟨s.acceptCalibrate ret, ?_, ?_⟩, fun s h => ?_⟩
  · change execCalibrate s = _
    unfold execCalibrate
    obtain ⟨hs, rfl⟩ | ⟨hs, rfl⟩ := h <;> rw [hs]
  · conv_lhs => rw [State.acceptCalibrate, State.setRun_eq]
    rfl
  · change execCalibrate s = _
    unfold execCalibrate
    simp only [List.mem_cons, List.not_mem_nil, or_false] at h
    obtain hs | hs | hs := h <;> rw [hs] <;> rfl
namespace Sys2Proof.Machine

/-! ## CLEAR_FAULT -/

section
variable {s : State}

theorem State.station_congr {t : State} (h : t.regs.stationBase = s.regs.stationBase) : t.station = s.station := by
  rw [State.station, h, State.station]

theorem State.calibratePending_due {r : ReturnState} (h : s.run.pendingCal = true) : s.calibratePending r =
    (((s.updRun fun r => { r with pendingCal := false }).updMu fun u => { u with calOrder := true }).updRun
      fun q => { q with ret := some r }).setRun .calibrating := by
  rw [State.calibratePending, if_pos h, State.orderPendingCal, if_pos h]

theorem State.calibratePending_none {r : ReturnState} (h : s.run.pendingCal = false) : s.calibratePending r = s :=
  if_neg (by simp [h])

/-- The state that CLEAR_FAULT reaches before it looks at a CALIBRATE pending. -/
def State.cleared (s : State) : State :=
  ((((s.setLast .accepted).updGuard fun g => { g with
    residual := false, senseOver := false, sourceOver := false, senseRaised := false
    sourceRaised := false }).setRun .stopped).retip).raise .stopped

theorem State.acceptClear_eq : s.acceptClear = s.cleared.calibratePending .stopped := rfl

theorem State.confined_cleared : Confined [.run, .guard, .fetch, .hostMem, .carriages, .regs] s s.cleared :=
  (((((Confined.refl _ s).andThen State.confined_setLast).andThen State.confined_updGuard).andThen
    State.confined_setRun).andThen State.confined_retip).andThen State.confined_raise

theorem State.cleared_run : s.cleared.run = { s.run with state := .stopped, last := .accepted } := by
  rw [State.cleared, State.raise_run, State.confined_retip.run, State.setRun_run]
  rfl

theorem State.cleared_guard : s.cleared.guard = { s.guard with
    residual := false, senseOver := false, sourceOver := false, senseRaised := false, sourceRaised := false } := by
  rw [State.cleared, State.raise_guard, State.confined_retip.guard, State.setRun_guard]
  rfl

theorem State.cleared_fetch : s.cleared.fetch = { s.fetch with waiting := false } := by
  rw [State.cleared, State.raise_fetch, State.confined_retip.fetch, State.setRun_fetch]
  rfl

theorem State.cleared_regs : s.cleared.regs = { s.regs with intStatus := s.regs.intStatus ||| 16 } := by
  rw [State.cleared, State.raise, State.updRegs_regs, State.confined_retip.regs, State.setRun_regs]
  rfl

theorem State.cleared_carr (c : Carriage) : s.cleared.carr c = { s.carr c with tip := tipFor (s.carr c).state } := by
  rw [State.cleared, State.confined_raise.carr, State.carr_retip, State.setRun_carr, State.setRun_state]
  rfl

/-- The mirror shows STATE as CLEAR_FAULT leaves it. -/
theorem State.cleared_mirror (hm : s.run.mirror = true) {j : Nat} (hj : j < 4) :
    s.cleared.hostByte (s.station + 0x30 + BitVec.ofNat 64 j).toNat = some (s.cleared.stateReg.extractLsb' (8 * j) 8) := by
  let q := (s.setLast .accepted).updGuard fun g => { g with
    residual := false, senseOver := false, sourceOver := false, senseRaised := false, sourceRaised := false }
  have after : Confined [.carriages, .regs] (q.setRun .stopped) s.cleared :=
    (State.confined_retip.mono).andThen State.confined_raise
  have shown := State.mirror_shows (s := q) .stopped hm hj
  rw [State.hostByte, after.hostMem, State.stateReg_congr (s := q.setRun .stopped)]
  · exact shown
  all_goals simp only [after.run, after.guard, after.mu, after.fetch]

theorem State.acceptClear_mirror (hm : s.run.mirror = true) {j : Nat} (hj : j < 4) :
    s.acceptClear.hostByte (s.station + 0x30 + BitVec.ofNat 64 j).toNat =
      some (s.acceptClear.stateReg.extractLsb' (8 * j) 8) := by
  have station : s.cleared.station = s.station := State.station_congr (by rw [State.cleared_regs])
  have mirror : s.cleared.run.mirror = true := by rwa [State.cleared_run]
  rw [State.acceptClear_eq]
  cases pending : s.cleared.run.pendingCal
  · rw [State.calibratePending_none pending]
    exact State.cleared_mirror hm hj
  · rw [State.calibratePending_due pending]
    generalize same : ((s.cleared.updRun fun r => { r with pendingCal := false }).updMu fun u =>
      { u with calOrder := true }).updRun (fun q => { q with ret := some .stopped }) = u
    have mirror' : u.run.mirror = true := same ▸ mirror
    have station' : u.station = s.station := (State.station_congr (same ▸ rfl)).trans station
    exact station' ▸ State.mirror_shows .calibrating mirror' hj

theorem State.acceptClear_run : s.acceptClear.run = if s.run.pendingCal then
      { s.run with state := .calibrating, last := .accepted, ret := some .stopped, pendingCal := false }
    else { s.run with state := .stopped, last := .accepted } := by
  have pending_eq : s.cleared.run.pendingCal = s.run.pendingCal := by rw [State.cleared_run]
  rw [State.acceptClear_eq]
  cases pending : s.run.pendingCal
  · rw [State.calibratePending_none (pending_eq.trans pending), State.cleared_run]
    rfl
  · rw [State.calibratePending_due (pending_eq.trans pending), State.setRun_run]
    simp only [State.updRun_run, State.updMu_run, State.cleared_run, if_true]

theorem State.acceptClear_mu :
    s.acceptClear.mu = { s.mu with calOrder := s.mu.calOrder || s.run.pendingCal } := by
  have pending_eq : s.cleared.run.pendingCal = s.run.pendingCal := by rw [State.cleared_run]
  rw [State.acceptClear_eq]
  cases pending : s.run.pendingCal
  · rw [State.calibratePending_none (pending_eq.trans pending), State.confined_cleared.mu, Bool.or_false]
  · rw [State.calibratePending_due (pending_eq.trans pending), State.setRun_mu, Bool.or_true]
    simp only [State.updRun_mu, State.updMu_mu, State.confined_cleared.mu]

theorem State.acceptClear_fetch : s.acceptClear.fetch = { s.fetch with waiting := false } := by
  rw [State.acceptClear_eq]
  cases pending : s.cleared.run.pendingCal
  · rw [State.calibratePending_none pending, State.cleared_fetch]
  · rw [State.calibratePending_due pending, State.setRun_fetch]
    simp only [State.updRun_fetch, State.updMu_fetch, State.cleared_fetch]
end

end Sys2Proof.Machine

open Sys2Proof Sys2Proof.Machine in
/-- Settles O18: block by block, with and without a CALIBRATE pending. -/
theorem clearFaultStops : Obligations.ClearFaultStops := by
  intro s halted
  have rest : Confined [.run, .mu, .fetch, .hostMem] s.cleared s.acceptClear := State.confined_calibratePending
  have all : Confined [.run, .guard, .fetch, .hostMem, .carriages, .regs, .mu] s s.acceptClear :=
    State.confined_cleared.mono.andThen rest
  refine ⟨s.acceptClear, ?_, State.eq_of_same fun b => ?_, fun c => ?_, fun j hj hm => State.acceptClear_mirror hm hj⟩
  · change execClearFault s = _
    rw [execClearFault, halted]
  · cases b with
    | run => exact State.acceptClear_run
    | mu => exact State.acceptClear_mu
    | guard => exact rest.guard.trans State.cleared_guard
    | regs => exact rest.regs.trans State.cleared_regs
    | fetch => exact State.acceptClear_fetch
    | carriages => rfl
    | hostMem => rfl
    | pending => exact all.pending
    | clock => exact all.clock
    | free => exact all.free
    | linkOut => exact all.linkOut
    | setup => exact all.setup
    | claims => exact all.claims
    | pins => exact all.pins
    | qual => exact all.qual
    | disp => exact all.disp
    | nets => exact all.nets
    | frame => exact all.frame
    | log => exact all.log
  · rw [rest.carr, State.cleared_carr]
end

section
/-! PROOFS. The register writes, late responses, the force lines, and START's two reads with the tests of a setup. -/

set_option Elab.async false

namespace Sys2Proof.Machine

/-! ## STATION_BASE by halves -/

theorem writeBase_low (old : Word64) (v : Word32) : writeBase old (.low v) = old.extractLsb' 32 32 ++ v := by
  apply BitVec.eq_of_toNat_eq
  have hv := v.isLt
  have ho := old.isLt
  rw [BitVec.toNat_append, ← Nat.shiftLeft_add_eq_or_of_lt hv, Nat.shiftLeft_eq, BitVec.extractLsb'_toNat,
    Nat.shiftRight_eq_div_pow, writeBase, BitVec.toNat_ofNat]
  omega

theorem writeBase_high (old : Word64) (v : Word32) : writeBase old (.high v) = v ++ old.extractLsb' 0 32 := by
  apply BitVec.eq_of_toNat_eq
  have hv := v.isLt
  have hl : (old.extractLsb' 0 32).toNat < 2 ^ 32 := (old.extractLsb' 0 32).isLt
  rw [BitVec.toNat_append, ← Nat.shiftLeft_add_eq_or_of_lt hl, Nat.shiftLeft_eq, BitVec.extractLsb'_toNat,
    Nat.shiftRight_zero, writeBase, BitVec.toNat_ofNat]
  omega

/-! ## WAKE -/

theorem Fetcher.wake_link {f : Fetcher} {g running : Bool} (h : f.reading = some ⟨.link, false, g⟩) :
    f.wake running = { f with reread := true } := by
  rw [Fetcher.wake, h]
  exact if_pos ⟨rfl, nofun⟩

theorem Fetcher.wake_waiting {f : Fetcher} (h : f.reading = none) (hw : f.waiting = true) :
    f.wake true = { f with reading := some ⟨.link, false, true⟩ } := by
  rw [Fetcher.wake, h]
  exact if_pos (by simp [hw])

theorem Fetcher.wake_none {f : Fetcher} {running : Bool} (h : f.reading = none) (hw : (running && f.waiting) = false) :
    f.wake running = f := by
  rw [Fetcher.wake, h]
  exact if_neg (by simp [hw])

/-! ## The force lines -/

/-- A landing as an assertion that begins finds it, from the level that its line had. -/
theorem Landing.lineAt_eq (l : Landing) (since : Option Nat) : l.lineAt since = { l with
    force := match l.force with
      | .watching _ limit => .watching since limit
      | .notUsed | .qualified | .unqualified => l.force } := by
  cases l with | mk slot role partner attempt method force elec fallback => cases force <;> rfl

theorem State.landing_modLanding {s : State} {c : Carriage} {f : Landing → Landing} (d : Carriage) :
    (s.modLanding c f).landing d = if d = c then (s.landing c).map f else s.landing d :=
  State.landing_setLanding ..

/-! ## The tests of a setup (R21, R37) -/

theorem carriagesOf_eq (d : Side) : carriagesOf d = allCarriages.filter fun c => sideOf c == d := by
  cases d <;> decide

theorem Setup.enabledOn_eq (t : Setup) (d : Side) :
    t.enabledOn d = allCarriages.filter fun c => sideOf c == d && (t.carriages.get c).enabled := by
  rw [Setup.enabledOn, carriagesOf_eq, List.filter_filter]
  exact List.filter_congr fun c _ => Bool.and_comm ..

theorem Setup.mem_enabledOn {t : Setup} {d : Side} {c : Carriage} :
    c ∈ t.enabledOn d ↔ (sideOf c == d && (t.carriages.get c).enabled) = true := by
  rw [Setup.enabledOn_eq, List.mem_filter, and_iff_right (mem_allCarriages c)]

theorem Setup.enabledOn_sorted (t : Setup) (d : Side) :
    (t.enabledOn d).Pairwise fun x y => driveNumber x < driveNumber y := (carriagesOf_sorted d).filter _

/-- Each interval of a rising list of intervals that hold a lane lies below all that follow it. -/
theorem spansRise_iff_pairwise {l : List Interval} (h : ∀ i ∈ l, i.lo ≤ i.hi) :
    spansRise l = true ↔ l.Pairwise fun i j => i.hi < j.lo := by
  induction l with
  | nil => simp [spansRise]
  | cons a rest ih =>
    cases rest with
    | nil => simp [spansRise]
    | cons b rest =>
      have tail := ih fun i hi => h i (List.mem_cons_of_mem a hi)
      have hb : b.lo ≤ b.hi := h b (by simp)
      rw [spansRise, Bool.and_eq_true, tail, List.pairwise_cons (l := b :: rest), Interval.below, decide_eq_true_eq]
      refine and_congr_left fun rises => (⟨fun hab i hi => ?_, fun all => all b (by simp)⟩ :
        a.hi < b.lo ↔ ∀ i ∈ b :: rest, a.hi < i.lo)
      obtain rfl | hi := List.mem_cons.1 hi
      · exact hab
      · exact hab.trans (hb.trans_lt (List.rel_of_pairwise_cons rises hi))

/-- In a list sorted by drive number, what holds pairwise holds of every two in order. -/
theorem pairwise_iff_of_sorted {R : Carriage → Carriage → Prop} {l : List Carriage}
    (hl : l.Pairwise fun x y => driveNumber x < driveNumber y) :
    l.Pairwise R ↔ ∀ x ∈ l, ∀ y ∈ l, driveNumber x < driveNumber y → R x y := by
  induction l with
  | nil => simp
  | cons a rest ih =>
    obtain ⟨first, sorted⟩ := List.pairwise_cons.1 hl
    rw [List.pairwise_cons, ih sorted]
    constructor
    · rintro ⟨ha, hr⟩ x hx y hy hxy
      obtain rfl | hx := List.mem_cons.1 hx
      · obtain rfl | hy := List.mem_cons.1 hy
        · exact absurd hxy (lt_irrefl _)
        · exact ha y hy
      · obtain rfl | hy := List.mem_cons.1 hy
        · exact absurd hxy (first x ‹x ∈ rest›).asymm
        · exact hr x ‹x ∈ rest› y hy hxy
    · exact fun all => ⟨fun y hy => all a (by simp) y (by simp [hy]) (first y hy),
        fun x hx y hy => all x (by simp [hx]) y (by simp [hy])⟩

/-- The lane of a gantry x in the field, and that it is one of 128 in a field of at most 128 lanes. -/
theorem Setup.laneFor_nat {t : Setup} {c : Carriage} {x : Nat} (h : (t.fields.get (sideOf c)).start ≤ x)
    (h' : x < (t.fields.get (sideOf c)).stop) : t.laneFor c x = (x - (t.fields.get (sideOf c)).start) / t.laneWidth := by
  rw [Setup.laneFor, Setup.laneOf]
  rw [if_neg (by omega), if_neg (by omega)]
  simp

theorem spanAt_nonempty {g lane : Nat} (h : lane ≤ 127) : (spanAt g lane).lo ≤ (spanAt g lane).hi := by
  simp only [spanAt, lastLane, Config.lanes]
  omega

/-- R21's four tests of a side, as `fieldValid` makes them. -/
theorem Setup.fieldValid_iff (t : Setup) (d : Side) :
    t.fieldValid d = true ↔ (t.fields.get d).start % t.laneWidth = 0 ∧
      ((t.fields.get d).start < (t.fields.get d).stop ∧ (t.fields.get d).stop ≤ 655360) ∧
      t.laneWidth * ((t.enabledOn d).map fun c => 2 * (t.carriages.get c).guard + 1).sum ≤
        (t.fields.get d).stop - (t.fields.get d).start ∧
      (t.fields.get d).stop ≤ (t.fields.get d).start + 128 * t.laneWidth := by
  simp only [Setup.fieldValid, Bool.and_eq_true, beq_iff_eq, decide_eq_true_eq]
  exact ⟨fun ⟨⟨⟨⟨align, order⟩, top⟩, need⟩, lanes⟩ => ⟨align, ⟨order, top⟩, need, lanes⟩,
    fun ⟨align, ⟨order, top⟩, need, lanes⟩ => ⟨⟨⟨⟨align, order⟩, top⟩, need⟩, lanes⟩⟩

/-- R37's tests of a side, as `parkValid` makes them in a field of at most 128 lanes. -/
theorem Setup.parkValid_iff {t : Setup} {d : Side} (lanes : (t.fields.get d).stop ≤ (t.fields.get d).start + 128 * t.laneWidth) :
    t.parkValid d = true ↔
      (∀ c ∈ t.enabledOn d, (t.fields.get d).start ≤ (t.carriages.get c).parkX ∧
        (t.carriages.get c).parkX < (t.fields.get d).stop) ∧
      ∀ c ∈ t.enabledOn d, ∀ x ∈ t.enabledOn d, driveNumber c < driveNumber x →
        (t.span c (((t.carriages.get c).parkX - (t.fields.get d).start) / t.laneWidth)).hi <
          (t.span x (((t.carriages.get x).parkX - (t.fields.get d).start) / t.laneWidth)).lo := by
  have hside : ∀ c ∈ t.enabledOn d, sideOf c = d := fun c hc => by
    have := Setup.mem_enabledOn.1 hc
    simp only [Bool.and_eq_true, beq_iff_eq] at this
    exact this.1
  rw [Setup.parkValid, Bool.and_eq_true, List.all_eq_true]
  simp only [Setup.xInField, Bool.and_eq_true, decide_eq_true_eq, Nat.cast_le, Nat.cast_lt]
  refine and_congr_right fun inField => ?_
  have hpark : ∀ c ∈ t.enabledOn d, t.parkSpan c =
      t.span c (((t.carriages.get c).parkX - (t.fields.get d).start) / t.laneWidth) := fun c hc => by
    obtain ⟨above, below⟩ := inField c hc
    have hd := hside c hc
    subst hd
    rw [Setup.parkSpan, Setup.laneFor_nat above below]
  have hlane : ∀ c ∈ t.enabledOn d, ((t.carriages.get c).parkX - (t.fields.get d).start) / t.laneWidth ≤ 127 := fun c hc => by
    obtain ⟨above, below⟩ := inField c hc
    exact Nat.le_of_lt_succ (Nat.div_lt_of_lt_mul (by rw [Nat.mul_comm]; omega))
  rw [List.map_congr_left hpark, spansRise_iff_pairwise, List.pairwise_map, pairwise_iff_of_sorted (t.enabledOn_sorted d)]
  intro i hi
  obtain ⟨c, hc, rfl⟩ := List.mem_map.1 hi
  exact spanAt_nonempty (hlane c hc)

theorem Setup.valid_iff (t : Setup) : t.valid = true ↔ ∀ d, t.fieldValid d = true ∧ t.parkValid d = true := by
  simp only [Setup.valid, Bool.and_eq_true]
  exact ⟨fun ⟨⟨⟨ft, fb⟩, pt⟩, pb⟩ d => by cases d; exacts [⟨ft, pt⟩, ⟨fb, pb⟩],
    fun h => ⟨⟨⟨(h .top).1, (h .bottom).1⟩, (h .top).2⟩, (h .bottom).2⟩⟩

end Sys2Proof.Machine

open Sys2Proof Sys2Proof.Machine in
/-- Settles O20: each register write by its definition; the halves of STATION_BASE by their numbers. -/
theorem registerWrites : Obligations.RegisterWrites := by
  refine ⟨fun v s => ⟨_, rfl, rfl, fun g reading => Fetcher.wake_link reading, fun none_ running waiting => ?_,
      fun none_ idle => Fetcher.wake_none none_ ?_, fun off => if_neg (by simp [off]), fun on idle => ?_, fun on busy => ?_⟩,
    fun w s busy => if_neg busy, fun v s idle => ⟨?_, ?_⟩, fun v s idle => if_pos idle, fun v s => ?_, fun v s => ?_,
    fun v => ⟨fun k hk => ?_, rfl, rfl, rfl, rfl, rfl, rfl⟩, fun v => ⟨rfl, fun o ho => if_neg ho⟩⟩
  · have run : (s.run.state == .running) = true := beq_iff_eq.2 running
    change s.fetch.wake (s.run.state == .running) = _
    rw [run]
    exact Fetcher.wake_waiting none_ waiting
  · simpa [Classical.or_iff_not_imp_left] using idle
  · exact (if_pos on).trans (if_neg (by simp [idle]))
  · exact (if_pos on).trans (if_pos busy)
  · exact (if_pos idle).trans (congrArg (fun b => Host.Outcome.next { s with regs := { s.regs with stationBase := b } })
      (writeBase_low s.regs.stationBase v))
  · exact (if_pos idle).trans (congrArg (fun b => Host.Outcome.next { s with regs := { s.regs with stationBase := b } })
      (writeBase_high s.regs.stationBase v))
  · rw [← BitVec.setWidth_eq_extractLsb' (by decide)]
    rfl
  · rw [← BitVec.setWidth_eq_extractLsb' (by decide)]
    rfl
  · subst hk
    rfl

open Sys2Proof Sys2Proof.Machine in
/-- Settles O25: each response by the request it would answer. -/
theorem lateResponses : Obligations.LateResponses := by
  intro s c late
  refine ⟨fun p move halt => ?_, fun n h => ?_, fun h => ?_, fun h => ?_, fun p h => ?_, fun p b h => ?_, fun b h => ?_,
    fun p move halt => ⟨s.modCarr c fun r => { r with request := some ⟨.halt, false⟩ }, ?_, rfl, fun x => ?_⟩⟩
  · exact (if_neg (by simp [move])).trans (if_neg halt)
  · exact if_neg (by simp [h])
  · exact if_neg (by simp [h])
  · exact (if_neg (by simp [h])).trans (if_neg (by simp [h]))
  · exact if_neg (by simp [h])
  · exact if_neg (by simp [h])
  · exact if_neg (by simp [h])
  · exact (if_neg (by simp [move])).trans (if_pos halt)
  · exact State.carr_modCarr ..

open Sys2Proof Sys2Proof.Machine in
/-- Settles O31. -/
theorem forceLines : Obligations.ForceLines := by
  intro s c
  refine ⟨?_, s.updPins (fun p => { p with force := p.force.set c false }) |>.modLanding c fun l => l.lineAt none, rfl, rfl,
    rfl, rfl, fun d hd => ?_, fun l hl => ?_⟩
  · cases was : s.pins.force.get c
    · refine ⟨(s.updPins fun p => { p with force := p.force.set c true }).modLanding c fun l => l.lineAt (some s.clock),
        ?_, rfl, rfl, rfl, fun d hd => ?_, fun l hl => ?_⟩
      · change Host.Outcome.next (if s.pins.force.get c then _ else _) = _
        rw [was]
        rfl
      · exact (State.landing_modLanding d).trans (if_neg hd)
      · refine (State.landing_modLanding c).trans ((if_pos rfl).trans ?_)
        rw [show (s.updPins _).landing c = some l from hl, Option.map_some, Landing.lineAt_eq] <;> rfl
    · refine ⟨s.updPins fun p => { p with force := p.force.set c true }, ?_, rfl, rfl, rfl, fun d hd => rfl, fun l hl => ?_⟩
      · change Host.Outcome.next (if s.pins.force.get c then _ else _) = _
        rw [was]
        rfl
      · refine hl.trans ?_
        cases l with | mk slot role partner attempt method force elec fallback => cases force <;> rfl
  · exact (State.landing_modLanding d).trans (if_neg hd)
  · refine (State.landing_modLanding c).trans ((if_pos rfl).trans ?_)
    rw [show (s.updPins _).landing c = some l from hl, Option.map_some, Landing.lineAt_eq] <;> rfl

open Sys2Proof Sys2Proof.Machine in
/-- Settles O42: the tests side by side, and each read in its stage of STARTING. -/
theorem startReads : Obligations.StartReads := by
  refine ⟨fun t => ?_, fun s b starting => ⟨fun stage => ⟨parseStation b, if_pos ⟨starting, stage⟩, rfl, rfl, rfl, rfl, rfl, rfl⟩,
    fun stage valid => (if_pos ⟨starting, stage⟩).trans (if_pos valid), fun stage invalid => ⟨s.refuseSetup, ?_, ?_, ?_, ?_⟩⟩⟩
  · rw [Setup.valid_iff]
    refine forall_congr' fun d => ?_
    dsimp only
    rw [Setup.fieldValid_iff, ← Setup.enabledOn_eq]
    constructor
    · rintro ⟨⟨align, bounds, need, lanes⟩, park⟩
      obtain ⟨inField, rise⟩ := (Setup.parkValid_iff lanes).1 park
      exact ⟨align, bounds, need, lanes, fun c hc => inField c (Setup.mem_enabledOn.2 hc),
        fun c x hc hx => rise c (Setup.mem_enabledOn.2 hc) x (Setup.mem_enabledOn.2 hx)⟩
    · rintro ⟨align, bounds, need, lanes, inField, rise⟩
      exact ⟨⟨align, bounds, need, lanes⟩, (Setup.parkValid_iff lanes).2 ⟨fun c hc => inField c (Setup.mem_enabledOn.1 hc),
        fun c hc x hx => rise c x (Setup.mem_enabledOn.1 hc) (Setup.mem_enabledOn.1 hx)⟩⟩
  · exact (if_pos ⟨starting, stage⟩).trans (if_neg (by simp [invalid]))
  · have rest : Confined [.run, .fetch, .hostMem] s s.refuseSetup :=
      (State.confined_updRun.mono).andThen State.confined_goBack
    have link : s.refuseSetup.fetch = { s.fetch with waiting := false } := by
      rw [State.refuseSetup, State.goBack, State.setRun_fetch]
      rfl
    have memory : s.refuseSetup.hostMem = s.mirrored s.refuseSetup := by
      conv_lhs => rw [State.refuseSetup, State.goBack, State.setRun_eq]
      rfl
    calc s.refuseSetup
      _ = { s with run := s.refuseSetup.run, hostMem := s.refuseSetup.hostMem, fetch := s.refuseSetup.fetch } := rest.eq_mix
      _ = _ := by rw [memory, link]
  · rw [State.refuseSetup, State.goBack, State.setRun_run]
    rfl
  · rw [State.refuseSetup, State.goBack, State.setRun_state, State.updRun_run]
    cases s.run.ret with
    | none => rfl
    | some q => cases q <;> rfl
end

section
/-! PROOFS. The registers as they are read, and the values of a setup record (R189, R190, R200). -/

set_option Elab.async false

namespace Sys2Proof.Machine

/-! ## STATE -/

theorem bitAt_eq (b : Bool) (i : Nat) : bitAt b i = 2 ^ i * b.toNat := by cases b <;> simp [bitAt]

theorem runCode_lt (q : RunState) : runCode q < 16 := by cases q <;> decide
theorem chainCode_lt (q : ChainState) : chainCode q < 4 := by cases q <;> decide
theorem resultCode_lt (q : CommandResult) : resultCode q < 4 := by cases q <;> decide

/-- STATE as a number whose digits are its fields. -/
theorem State.stateReg_toNat (s : State) : s.stateReg.toNat = runCode s.run.state + 16 * chainCode s.chainState +
    256 * s.guard.residual.toNat + 512 * s.guard.senseOver.toNat + 1024 * s.guard.sourceOver.toNat +
    2048 * s.mu.calRange.toNat + 4096 * s.run.chainBreak.toNat + 8192 * s.run.setupInvalid.toNat +
    16384 * s.run.orderFault.toNat + 65536 * resultCode s.run.last := by
  have := runCode_lt s.run.state
  have := chainCode_lt s.chainState
  have := resultCode_lt s.run.last
  have := s.guard.residual.toNat_le
  have := s.guard.senseOver.toNat_le
  have := s.guard.sourceOver.toNat_le
  have := s.mu.calRange.toNat_le
  have := s.run.chainBreak.toNat_le
  have := s.run.setupInvalid.toNat_le
  have := s.run.orderFault.toNat_le
  simp only [State.stateReg, BitVec.toNat_ofNat, bitAt_eq]
  omega

/-- A field of a register, from its number. -/
theorem extractLsb'_eq_ofNat {w : Word32} {i n k : Nat} (h : w.toNat / 2 ^ i % 2 ^ n = k % 2 ^ n) :
    w.extractLsb' i n = BitVec.ofNat n k := by
  apply BitVec.eq_of_toNat_eq
  rw [BitVec.extractLsb'_toNat, Nat.shiftRight_eq_div_pow, BitVec.toNat_ofNat, h]

/-- A bit of a register, from its number. -/
theorem getLsbD_eq_of_div {w : Word32} {i : Nat} {b : Bool} (h : w.toNat / 2 ^ i % 2 = b.toNat) : w.getLsbD i = b := by
  rw [← BitVec.testBit_toNat, Nat.testBit_eq_decide_div_mod_eq, h]
  cases b <;> rfl

theorem getLsbD_eq_false_of_div {w : Word32} {i : Nat} (h : w.toNat / 2 ^ i % 2 = 0) : w.getLsbD i = false :=
  getLsbD_eq_of_div (b := false) h

/-- Some bit is set in both of two words of six bits. -/
theorem and_ne_zero_iff (x y : BitVec 6) : (x &&& y != 0) = true ↔ ∃ b < 6, x.getLsbD b = true ∧ y.getLsbD b = true := by
  rw [bne_iff_ne, ne_eq, BitVec.eq_of_getLsbD_eq_iff]
  simp only [BitVec.getLsbD_and, BitVec.ofNat_eq_ofNat, BitVec.getLsbD_zero, not_forall, Bool.not_eq_false,
    Bool.and_eq_true, exists_prop]

/-- A word read by its halves. -/
theorem halves_append (w : Word64) : BitVec.ofNat 32 (w.toNat / 4294967296) ++ BitVec.ofNat 32 w.toNat = w := by
  apply BitVec.eq_of_toNat_eq
  have hw := w.isLt
  rw [BitVec.toNat_append, ← Nat.shiftLeft_add_eq_or_of_lt (BitVec.isLt _), Nat.shiftLeft_eq, BitVec.toNat_ofNat,
    BitVec.toNat_ofNat]
  omega

/-- The six bits of INT_STATUS or INT_ENABLE as they are read. -/
theorem setWidth_extractLsb' (x : BitVec 6) : (x.setWidth 32).extractLsb' 0 6 = x := by
  apply BitVec.eq_of_toNat_eq
  have hx := x.isLt
  rw [BitVec.extractLsb'_toNat, BitVec.toNat_setWidth, Nat.shiftRight_zero]
  omega

/-! ## The setup record -/

theorem byteAt_lt (b : List Byte) (i : Nat) : byteAt b i < 256 := (b.getD i 0).isLt

/-- A number brought to the nearer bound of a range. -/
theorem clampNat_eq {lo hi : Nat} (h : lo ≤ hi) (n : Nat) :
    clampNat lo hi n = if n < lo then lo else if hi < n then hi else n := by
  rw [clampNat]
  split <;> [skip; split] <;> omega

theorem clampInt_eq {lo hi : Int} (h : lo ≤ hi) (n : Int) :
    clampInt lo hi n = if n < lo then lo else if hi < n then hi else n := by
  rw [clampInt]
  split <;> [skip; split] <;> omega

theorem min_eq_near (hi n : Nat) : min hi n = if n < 0 then 0 else if hi < n then hi else n := by
  split <;> [skip; split] <;> omega

theorem filter_eq_near (b : List Byte) (i : Nat) :
    max 1 (byteAt b i) = if byteAt b i < 1 then 1 else if 255 < byteAt b i then 255 else byteAt b i := by
  have := byteAt_lt b i
  split <;> [skip; split] <;> omega

theorem guardModeOf_eq (n : Nat) :
    guardModeOf n = if n = 1 then .retry else if n = 2 then .report else if n = 3 then .ignore else .latch := by
  unfold guardModeOf
  split <;> simp_all

theorem retryDwellOf_eq (n : Nat) : retryDwellOf n = if n = 0 then 1000 else 20000 := by
  unfold retryDwellOf
  split <;> simp_all

theorem Setup.filterTime_eq (t : Setup) (c : Carriage) : t.filterTime c =
    if (t.carriages.get c).filter = 0 then t.filter0 else if (t.carriages.get c).filter = 1 then t.filter1
    else if (t.carriages.get c).filter = 2 then t.filter2 else t.filter3 := by
  unfold Setup.filterTime
  split <;> simp_all

theorem parseSetup_filterTime (b : List Byte) (c : Carriage) :
    1 ≤ (parseSetup b).filterTime c ∧ (parseSetup b).filterTime c ≤ 255 := by
  have range (i : Nat) : 1 ≤ max 1 (byteAt b i) ∧ max 1 (byteAt b i) ≤ 255 := by
    have := byteAt_lt b i
    omega
  unfold Setup.filterTime
  split
  · exact range 0x0C
  · exact range 0x0D
  · exact range 0x0E
  · exact range 0x0F

end Sys2Proof.Machine

open Sys2Proof Sys2Proof.Machine in
/-- Settles O21: the fields of STATE are the digits of its number. -/
theorem registerReads : Obligations.RegisterReads := by
  intro s v
  have number : v.toNat = _ := s.stateReg_toNat
  have := runCode_lt s.run.state
  have := chainCode_lt s.chainState
  have := resultCode_lt s.run.last
  have := s.guard.residual.toNat_le
  have := s.guard.senseOver.toNat_le
  have := s.guard.sourceOver.toNat_le
  have := s.mu.calRange.toNat_le
  have := s.run.chainBreak.toNat_le
  have := s.run.setupInvalid.toNat_le
  have := s.run.orderFault.toNat_le
  refine ⟨⟨rfl, rfl, rfl, rfl, rfl, rfl, rfl, fun o ho => ?_⟩, extractLsb'_eq_ofNat ?_, extractLsb'_eq_ofNat ?_,
    getLsbD_eq_of_div ?_, getLsbD_eq_of_div ?_, getLsbD_eq_of_div ?_, getLsbD_eq_of_div ?_, getLsbD_eq_of_div ?_,
    getLsbD_eq_of_div ?_, getLsbD_eq_of_div ?_, extractLsb'_eq_ofNat ?_,
    ⟨getLsbD_eq_false_of_div ?_, getLsbD_eq_false_of_div ?_, getLsbD_eq_false_of_div ?_,
      extractLsb'_eq_ofNat (k := 0) ?_⟩, ?_, ?_, ?_, rfl, rfl, and_ne_zero_iff _ _⟩
  · rw [State.readOffset, registerAt.eq_def]
    split <;> simp_all
  case refine_16 => exact halves_append s.regs.stationBase
  case refine_17 => exact setWidth_extractLsb' s.regs.intStatus
  case refine_18 => exact setWidth_extractLsb' s.regs.intEnable
  all_goals
    rw [number]
    omega

open Sys2Proof Sys2Proof.Machine in
/-- Settles O43. -/
theorem setupValuesInRange : Obligations.SetupValuesInRange := by
  refine ⟨fun b => ?_, fun b => ?_⟩
  · refine ⟨clampNat_eq (by decide) _, clampNat_eq (by decide) _, clampNat_eq (by decide) _, clampNat_eq (by decide) _,
      min_eq_near _ _, min_eq_near _ _, min_eq_near _ _, filter_eq_near _ _, filter_eq_near _ _, filter_eq_near _ _,
      filter_eq_near _ _, clampNat_eq (by decide) _, min_eq_near _ _, clampNat_eq (by decide) _, guardModeOf_eq _,
      guardModeOf_eq _, rfl, retryDwellOf_eq _, rfl, rfl, fun c => ?_⟩
    have block := parseSetup_carriage b c
    dsimp only
    rw [Setup.filterTime_eq, block]
    refine ⟨rfl, clampInt_eq (by decide) _, rfl, ?_, min_eq_near _ _, rfl, rfl, rfl, min_eq_near _ _, min_eq_near _ _⟩
    rw [← clampInt_eq (by decide)]
    exact Int.toNat_of_nonneg (Int.le_max_left ..)
  · have block := parseSetup_carriage b
    simp only [block]
    simp only [parseSetup, parseCarriage, clampNat, clampInt]
    refine ⟨by omega, by omega, by omega, by omega, by omega, by omega, by omega, by omega, by omega, by omega, ?_, ?_,
      fun c => ⟨parseSetup_filterTime b c, by omega, by omega, by omega, by omega, by omega, by omega, trivial⟩⟩
    · unfold deglitchOf
      split <;> decide
    · unfold retryDwellOf
      split <;> decide
end

section
/-! PROOFS. The fields of the entries of the result log, and the net records they are formed from (R158, R166, R170 to
R172). -/

set_option Elab.async false

namespace Sys2Proof.Machine

/-! ## Fields of bytes -/

@[simp] theorem byteAt_append_left {a b : List Byte} {i : Nat} (h : i < a.length) : byteAt (a ++ b) i = byteAt a i := by
  rw [byteAt, byteAt, List.getD_append _ _ _ _ h]

@[simp] theorem byteAt_append_right {a b : List Byte} {i : Nat} (h : a.length ≤ i) :
    byteAt (a ++ b) i = byteAt b (i - a.length) := by
  rw [byteAt, byteAt, List.getD_append_right _ _ _ _ h]

@[simp] theorem fieldAt_append_left {a b : List Byte} {i n : Nat} (h : i + n ≤ a.length) :
    fieldAt (a ++ b) i n = fieldAt a i n := by
  induction n generalizing i with
  | zero => rfl
  | succ n ih => rw [fieldAt, fieldAt, byteAt_append_left (by omega), ih (by omega)]

@[simp] theorem fieldAt_append_right {a b : List Byte} {i n : Nat} (h : a.length ≤ i) :
    fieldAt (a ++ b) i n = fieldAt b (i - a.length) n := by
  induction n generalizing i with
  | zero => rfl
  | succ n ih =>
    rw [fieldAt, fieldAt, byteAt_append_right h, ih (by omega), show i + 1 - a.length = i - a.length + 1 by omega]

@[simp] theorem byteAt_cons_succ (x : Byte) (l : List Byte) (i : Nat) : byteAt (x :: l) (i + 1) = byteAt l i := rfl

@[simp] theorem fieldAt_cons_succ (x : Byte) (l : List Byte) (i n : Nat) : fieldAt (x :: l) (i + 1) n = fieldAt l i n := by
  induction n generalizing i with
  | zero => rfl
  | succ n ih => rw [fieldAt, fieldAt, ih, byteAt_cons_succ]

@[simp] theorem byteAt_cons_zero (x : Byte) (l : List Byte) : byteAt (x :: l) 0 = x.toNat := rfl

/-- The number that a little-endian field gives back. -/
@[simp] theorem fieldAt_leBytes (n v : Nat) : fieldAt (leBytes n v) 0 n = v % 256 ^ n := by
  induction n generalizing v with
  | zero => simp [fieldAt, Nat.mod_one]
  | succ n ih =>
    have first : byteAt (leBytes (n + 1) v) 0 = v % 256 := BitVec.toNat_ofNat ..
    rw [fieldAt, first, leBytes, fieldAt_cons_succ, ih, Nat.pow_succ', Nat.mod_mul]

@[simp] theorem byteAt_leBytes (n v : Nat) : byteAt (leBytes (n + 1) v) 0 = v % 256 := BitVec.toNat_ofNat ..

@[simp] theorem byteAt_replicate (n i : Nat) : byteAt (List.replicate n 0) i = 0 := by
  rw [byteAt, List.getD_eq_getElem?_getD, List.getElem?_replicate]
  split <;> rfl

/-- The integer that a two's complement field gives back. -/
theorem signedAt_of_fieldAt {b : List Byte} {i n : Nat} {v : Int} (h : fieldAt b i n = (v % (256 ^ n : Nat)).toNat)
    (lo : -(256 ^ n : Nat) ≤ 2 * v) (hi : 2 * v < (256 ^ n : Nat)) : signedAt b i n = v := by
  have pos : 0 < 256 ^ n := Nat.pow_pos (by decide)
  rw [signedAt, h]
  generalize 256 ^ n = m at *
  have : v % (m : Int) = v ∨ v % (m : Int) = v + m := by
    rcases le_or_gt 0 v with nonneg | neg
    · exact .inl (Int.emod_eq_of_lt nonneg (by omega))
    · right
      rw [← Int.add_emod_right, Int.emod_eq_of_lt (by omega) (by omega)]
  have nonneg : 0 ≤ v % (m : Int) := Int.emod_nonneg v (by omega)
  split <;> omega

@[simp] theorem fieldAt_leSigned (n : Nat) (v : Int) : fieldAt (leSigned n v) 0 n = (v % (256 ^ n : Nat)).toNat := by
  have pos : (0 : Int) < (256 ^ n : Nat) := Int.natCast_pos.2 (Nat.pow_pos (by decide))
  have below := Int.emod_lt_of_pos v pos
  have nonneg := Int.emod_nonneg v pos.ne'
  rw [leSigned, fieldAt_leBytes, Nat.mod_eq_of_lt (by omega)]

/-- The flags of a byte are its bits. -/
theorem testBit_bitByte (l : List Bool) (i : Nat) : Nat.testBit (bitByte l) i = l.getD i false := by
  induction l generalizing i with
  | nil => simp [bitByte]
  | cons b rest ih =>
    have parts : bitByte (b :: rest) = Nat.bit b (bitByte rest) := by
      rw [bitByte, Nat.bit_val, Nat.add_comm]
      cases b <;> rfl
    rw [parts]
    cases i with
    | zero => simp
    | succ i => simp [Nat.testBit_bit_succ, ih]

theorem bitByte_lt (l : List Bool) : bitByte l < 2 ^ l.length := by
  induction l with
  | nil => simp [bitByte]
  | cons b rest ih =>
    rw [bitByte, List.length_cons, Nat.pow_succ']
    split <;> omega

/-! ## RESULT's carriages -/

theorem carriageCode_lt (c : Option Carriage) : carriageCode c < 256 := by
  cases c with
  | none => decide
  | some c => cases c <;> decide

@[simp] theorem carriageBytes_length (l : List (Option Carriage)) : (carriageBytes l).length = 4 := by
  rw [carriageBytes, List.length_take, List.length_append, List.length_map, List.length_replicate]
  omega

theorem byteAt_carriageBytes (l : List (Option Carriage)) {n : Nat} (h : n < 4) :
    byteAt (carriageBytes l) n = carriageCode (l.getD n none) := by
  rw [byteAt, carriageBytes, List.getD_eq_getElem?_getD, List.getElem?_take_of_lt h, List.getD_eq_getElem?_getD,
    List.getElem?_append, List.length_map, List.getElem?_map]
  by_cases inside : n < l.length
  · rw [if_pos inside, List.getElem?_eq_getElem inside]
    exact Nat.mod_eq_of_lt (carriageCode_lt _)
  · rw [if_neg inside, List.getElem?_eq_none (Nat.not_lt.1 inside), List.getElem?_replicate]
    split <;> rfl

/-! ## Net records -/

/-- A net outside the list has the record it has after reset. -/
theorem lookupKey_of_lt {β : Type} {k : Nat} {l : List (Nat × β)} (rise : keysRise l = true)
    (h : ∀ q ∈ l.head?, k < q.1) : lookupKey k l = none := by
  induction l with
  | nil => rfl
  | cons q rest ih =>
    obtain ⟨above, tail⟩ := (keysRise_cons q rest).1 rise
    have hk := h q rfl
    rw [lookupKey, if_neg hk.ne']
    exact ih tail fun r hr => hk.trans (above r hr)

theorem mem_iff_lookupKey {β : Type} {k : Nat} {v : β} {l : List (Nat × β)} (rise : keysRise l = true) :
    (k, v) ∈ l ↔ lookupKey k l = some v := by
  induction l with
  | nil => simp [lookupKey]
  | cons q rest ih =>
    obtain ⟨k', v'⟩ := q
    obtain ⟨above, tail⟩ := (keysRise_cons _ rest).1 rise
    rw [lookupKey, List.mem_cons, ih tail]
    split
    · next e =>
      subst e
      rw [lookupKey_of_lt tail above]
      simp [eq_comm]
    · next ne => simp [Ne.symm ne]

theorem keysRise_pairwise {β : Type} {l : List (Nat × β)} (h : keysRise l = true) : l.Pairwise fun a b => a.1 < b.1 := by
  induction l with
  | nil => exact .nil
  | cons q rest ih =>
    obtain ⟨above, tail⟩ := (keysRise_cons q rest).1 h
    refine List.pairwise_cons.2 ⟨fun r hr => ?_, ih tail⟩
    cases rest with
    | nil => cases hr
    | cons p rest =>
      obtain rfl | hr := List.mem_cons.1 hr
      · exact above r rfl
      · exact (above p rfl).trans (List.rel_of_pairwise_cons (ih tail) hr)

section
variable {t : NetTable} (rise : keysRise t.recs = true)
include rise

theorem NetTable.get_of_mem {q : Nat × NetRec} (h : q ∈ t.recs) : t.get q.1 = q.2 := by
  rw [NetTable.get, (mem_iff_lookupKey rise).1 h]
  rfl

theorem NetTable.mem_of_fail {n : Nat} (h : (t.get n).verdict = .fail) : (n, t.get n) ∈ t.recs := by
  rw [mem_iff_lookupKey rise]
  revert h
  rw [NetTable.get]
  cases lookupKey n t.recs with
  | none => exact nofun
  | some r => exact fun _ => rfl

/-- The first failing net is the lowest-numbered one in use. -/
theorem NetTable.firstFail_eq {n : Nat} (used : n < t.inUse) (fails : (t.get n).verdict = .fail)
    (first : ∀ m < n, (t.get m).verdict ≠ .fail) : t.firstFail = some (n, t.get n) := by
  have member : (n, t.get n) ∈ t.used := List.mem_filter.2 ⟨NetTable.mem_of_fail rise fails, by simpa using used⟩
  cases found : t.firstFail with
  | none =>
    rw [NetTable.firstFail, List.find?_eq_none] at found
    exact absurd (by simpa using fails) (found _ member)
  | some q =>
    have isFail : q.2.verdict = .fail := by simpa using List.find?_some found
    have inList : q ∈ t.used := List.mem_of_find?_eq_some found
    have record := NetTable.get_of_mem rise (List.mem_filter.1 inList).1
    obtain lower | rfl | higher := Nat.lt_trichotomy q.1 n
    · exact absurd (record ▸ isFail) (first _ lower)
    · rw [record]
    · obtain ⟨-, before, after, split, earlier⟩ := List.find?_eq_some_iff_append.1 found
      have sorted : t.used.Pairwise fun a b => a.1 < b.1 := (keysRise_pairwise rise).filter _
      rw [split, List.pairwise_append, List.pairwise_cons] at sorted
      obtain ⟨-, ⟨above, -⟩, -⟩ := sorted
      rw [split] at member
      obtain member | member := List.mem_append.1 member
      · exact absurd (earlier _ member) (by simp [fails])
      · obtain same | member := List.mem_cons.1 member
        · rw [same]
        · exact absurd (above _ member) higher.asymm

theorem NetTable.firstFail_isSome_iff : t.firstFail.isSome = true ↔ ∃ n < t.inUse, (t.get n).verdict = .fail := by
  rw [NetTable.firstFail, List.find?_isSome]
  constructor
  · rintro ⟨q, member, fails⟩
    obtain ⟨member, used⟩ := List.mem_filter.1 member
    exact ⟨q.1, by simpa using used, by rw [NetTable.get_of_mem rise member]; simpa using fails⟩
  · rintro ⟨n, used, fails⟩
    exact ⟨(n, t.get n), List.mem_filter.2 ⟨NetTable.mem_of_fail rise fails, by simpa using used⟩, by simpa using fails⟩
end


/-! ## The entries -/

/-- The fields of FRAME_START that hold a signed offset. -/
theorem frameStartBytes_offsets (n : BoardBegin) (age : Nat) {q : Nat × Int}
    (h : q ∈ [(0x10, n.offsets.top.x), (0x12, n.offsets.top.y), (0x14, n.offsets.bottom.x), (0x16, n.offsets.bottom.y)]) :
    fieldAt (frameStartBytes n age) q.1 2 = (q.2 % (256 ^ 2 : Nat)).toNat := by
  simp only [List.mem_cons, List.not_mem_nil, or_false] at h
  obtain rfl | rfl | rfl | rfl := h <;> simp [frameStartBytes]

/-- The fields of FRAME_END that hold a count. -/
theorem frameEndBytes_counts (f : FrameRec) (t : NetTable) (dropped : Nat) (discarded : Option Nat) {q : Nat × Nat}
    (h : q ∈ [(0x04, f.counts.pass), (0x08, f.counts.failing), (0x0C, f.counts.nocontact), (0x10, f.counts.skipped),
      (0x14, f.counts.error)]) : fieldAt (frameEndBytes f t dropped discarded) q.1 4 = q.2 % 4294967296 := by
  simp only [List.mem_cons, List.not_mem_nil, or_false] at h
  obtain rfl | rfl | rfl | rfl | rfl := h <;> simp [frameEndBytes]

theorem noteCode_lt (k : NoteKind) : noteCode k < 256 := by cases k <;> decide
theorem verdictCode_lt (v : Verdict) : verdictCode v < 256 := by cases v <;> decide
theorem causeCode_lt (q : Cause) : causeCode q < 256 := by
  cases q with
  | landing k => cases k <;> decide
  | _ => decide

/-- The verdict field of FRAME_END. -/
theorem frameEndBytes_verdict (f : FrameRec) (t : NetTable) (dropped : Nat) (discarded : Option Nat) :
    byteAt (frameEndBytes f t dropped discarded) 0x01 = (match discarded with
      | some _ => 4
      | none => match boardVerdict f t with
        | .pass => 1
        | .fail => 2
        | .incomplete => 3
        | .aborted => 4) := by
  cases discarded with
  | some n => rfl
  | none => cases h : boardVerdict f t <;> simp [frameEndBytes, h, boardCode]

/-- The flags of FRAME_END. -/
theorem frameEndBytes_flags (f : FrameRec) (t : NetTable) (dropped : Nat) (discarded : Option Nat) :
    byteAt (frameEndBytes f t dropped discarded) 0x02 =
      bitByte [f.imageWritten, discarded.isNone && f.reason == some .nextBegin] := by
  have small := bitByte_lt [f.imageWritten, discarded.isNone && f.reason == some .nextBegin]
  have first : byteAt (frameEndBytes f t dropped discarded) 0x02 =
      bitByte [f.imageWritten, discarded.isNone && f.reason == some .nextBegin] % 256 := by simp [frameEndBytes]
  rw [first, Nat.mod_eq_of_lt (small.trans_le (show 2 ^ 2 ≤ 256 by decide))]

/-- The first failing tag of FRAME_END. -/
theorem frameEndBytes_tag (f : FrameRec) (t : NetTable) (dropped : Nat) (discarded : Option Nat) :
    fieldAt (frameEndBytes f t dropped discarded) 0x1C 4 = (match discarded, t.firstFail with
      | none, some q => (q.2.firstTag.getD 0).toNat
      | _, _ => 0) := by
  have field : fieldAt (frameEndBytes f t dropped discarded) 0x1C 4 = (match discarded, t.firstFail with
      | none, some q => (q.2.firstTag.getD 0).toNat
      | _, _ => 0) % 4294967296 := by simp [frameEndBytes] <;> rfl
  rw [field]
  split
  · exact Nat.mod_eq_of_lt (BitVec.isLt _)
  · rfl

/-- The flags of RESULT. -/
theorem resultBytes_flags (c : StepCopy) (o : Outcome) : byteAt (resultBytes c o) 0x12 =
    bitByte [o.clipped, o.ranged, o.guardIgnored, o.passOnRetest, o.stepClamped, o.elecFallback] := by
  have small := bitByte_lt [o.clipped, o.ranged, o.guardIgnored, o.passOnRetest, o.stepClamped, o.elecFallback]
  have first : byteAt (resultBytes c o) 0x12 =
      bitByte [o.clipped, o.ranged, o.guardIgnored, o.passOnRetest, o.stepClamped, o.elecFallback] % 256 := by
    simp [resultBytes]
  rw [first, Nat.mod_eq_of_lt (small.trans_le (show 2 ^ 6 ≤ 256 by decide))]

/-- The carriage list of RESULT. -/
theorem resultBytes_carriages (c : StepCopy) (o : Outcome) {n : Nat} (h : n < 4) :
    byteAt (resultBytes c o) (0x16 + n) = carriageCode (o.carriages.getD n none) := by
  rw [resultBytes, byteAt_append_left (by simp; omega), byteAt_append_left (by simp; omega),
    byteAt_append_right (by simp)]
  simp [byteAt_carriageBytes _ h]

end Sys2Proof.Machine

open Sys2Proof Sys2Proof.Machine in
/-- Settles O51: each field is read from the part of the entry that holds it; the first failing tag from the record of the
lowest-numbered failing net. -/
theorem resultLayout : Obligations.ResultLayout := by
  refine ⟨fun n age => ?_, fun n => ?_, rfl, fun f t dropped discarded rise => ?_, fun c o => ?_⟩
  · refine ⟨by simp [frameStartBytes], rfl, rfl, by simp [frameStartBytes],
      by simpa [frameStartBytes] using n.serial.isLt, by simpa [frameStartBytes] using n.planTag.isLt,
      fun q hq lo hi => signedAt_of_fieldAt (frameStartBytes_offsets n age hq) (by omega) (by omega), fun small => ?_,
      by simpa [frameStartBytes] using n.seq.isLt, by simp [frameStartBytes], by simp [frameStartBytes]⟩
    simpa [frameStartBytes] using Nat.lt_succ_of_le small
  · refine ⟨by simp [noteBytes], rfl, by simpa [noteBytes] using noteCode_lt n.kind,
      by simpa [noteBytes] using carriageCode_lt n.carriage, by simp [noteBytes], by simpa [noteBytes] using n.tag.isLt,
      by simpa [noteBytes] using n.seq.isLt, by simp [noteBytes], fun j hj => ?_⟩
    rw [noteBytes, byteAt_append_right (by simp), byteAt_replicate]
  · refine ⟨by simp [frameEndBytes], rfl, by simp [frameEndBytes], frameEndBytes_verdict f t dropped discarded, ?_,
      fun q hq small => (frameEndBytes_counts f t dropped discarded hq).trans (Nat.mod_eq_of_lt small),
      fun e => by subst e; simp [frameEndBytes], fun n e small => by subst e; simpa [frameEndBytes] using small,
      by simp [frameEndBytes], fun some_ => ?_, fun e none_ => ?_, fun n tag e used fails first record => ?_⟩
    · rw [frameEndBytes_flags, testBit_bitByte, testBit_bitByte]
      exact ⟨rfl, rfl, bitByte_lt _⟩
    · rw [frameEndBytes_tag]
      cases discarded with
      | none => exact absurd rfl some_
      | some n => rfl
    · have no_fail : t.firstFail = none := by
        rw [← Option.not_isSome_iff_eq_none, NetTable.firstFail_isSome_iff rise]
        exact fun ⟨n, used, fails⟩ => none_ n used fails
      rw [frameEndBytes_tag, e, no_fail]
    · rw [frameEndBytes_tag, e, NetTable.firstFail_eq rise used fails first]
      dsimp only
      rw [record]
      rfl
  · refine ⟨by simp [resultBytes], rfl, rfl, by simpa [resultBytes] using verdictCode_lt o.verdict,
      by simpa [resultBytes] using causeCode_lt o.cause, by simpa [resultBytes] using c.tag.isLt,
      by simpa [resultBytes] using c.seq.isLt,
      fun lo hi => signedAt_of_fieldAt (by simp [resultBytes]) (by omega) (by omega), ?_, by simp [resultBytes],
      by simp [resultBytes], by simp [resultBytes], fun n hn => resultBytes_carriages c o hn, fun small => ?_,
      fun n hn => ?_, rfl, rfl⟩
    · rw [resultBytes_flags]
      simp only [testBit_bitByte]
      exact ⟨rfl, rfl, rfl, rfl, rfl, rfl, bitByte_lt _⟩
    · simpa [resultBytes] using Nat.lt_succ_of_le small
    · rw [resultBytes, byteAt_append_right (by simp), byteAt_replicate]
end

section
/-! PROOFS. Admission checks 1 to 9 (R12). -/

set_option Elab.async false

namespace Sys2Proof.Machine

section
variable {α : Type} {bad : α → Bool}

theorem firstBad_eq_some {l : List α} {m : Nat} {p : α} (i : Nat) (hp : l[m]? = some p) (hbad : bad p = true)
    (first : ∀ j < m, ∀ q, l[j]? = some q → bad q = false) : firstBad bad i l = some (i + m) := by
  induction l generalizing m i with
  | nil => simp at hp
  | cons x rest ih =>
    cases m with
    | zero =>
      obtain rfl : x = p := by simpa using hp
      exact if_pos hbad
    | succ m =>
      have head := first 0 (by omega) x rfl
      rw [firstBad, head, if_neg (by decide), ih (i + 1) (by simpa using hp) fun j hj q hq =>
        first (j + 1) (by omega) q (by simpa using hq)]
      congr 1
      omega

theorem firstBad_eq_none {l : List α} (i : Nat) (good : ∀ p ∈ l, bad p = false) : firstBad bad i l = none := by
  induction l generalizing i with
  | nil => rfl
  | cons x rest ih =>
    rw [firstBad, good x (by simp), if_neg (by decide), ih _ fun p hp => good p (by simp [hp])]
end

/-- The point at an index fails check 3, where `seen` are roles that are taken already. -/
def BadRoleAt (k : Kind) (seen : List Role) (l : List RawPoint) (i : Nat) : Prop :=
  ∃ p, l[i]? = some p ∧ (sideCode p.side = none ∨ ∀ q, roleOf p.role = some q →
    q ∉ k.roles ∨ q ∈ seen ∨ ∃ j < i, ∃ o, l[j]? = some o ∧ roleOf o.role = some q)

section
variable {k : Kind} {seen : List Role} {p : RawPoint} {rest : List RawPoint} {m : Nat}

/-- Behind a point that takes its role, check 3 is that of the rest with the role taken. -/
theorem badRoleAt_succ {r : Role} (hr : roleOf p.role = some r) :
    BadRoleAt k seen (p :: rest) (m + 1) ↔ BadRoleAt k (r :: seen) rest m := by
  have taken (q : Role) : (∃ j < m + 1, ∃ o, (p :: rest)[j]? = some o ∧ roleOf o.role = some q) ↔
      q = r ∨ ∃ j < m, ∃ o, rest[j]? = some o ∧ roleOf o.role = some q := by
    constructor
    · rintro ⟨j, hj, o, ho, hq⟩
      cases j with
      | zero =>
        obtain rfl : p = o := by simpa using ho
        exact .inl (Option.some.inj (hq.symm.trans hr))
      | succ j => exact .inr ⟨j, by omega, o, by simpa using ho, hq⟩
    · rintro (rfl | ⟨j, hj, o, ho, hq⟩)
      · exact ⟨0, by omega, p, rfl, hr⟩
      · exact ⟨j + 1, by omega, o, by simpa using ho, hq⟩
  simp only [BadRoleAt, List.getElem?_cons_succ, taken, List.mem_cons]
  refine exists_congr fun p => and_congr_right fun _ => or_congr_right (forall₂_congr fun q _ => or_congr_right ?_)
  tauto

/-- What `badRole` makes of the first point. -/
theorem badRole_cons (i : Nat) :
    (BadRoleAt k seen (p :: rest) 0 ∧ badRole k i seen (p :: rest) = some i) ∨
      ∃ r, roleOf p.role = some r ∧ ¬ BadRoleAt k seen (p :: rest) 0 ∧
        badRole k i seen (p :: rest) = badRole k (i + 1) (r :: seen) rest := by
  rw [badRole]
  cases hs : sideCode p.side with
  | none => exact .inl ⟨⟨p, rfl, .inl hs⟩, rfl⟩
  | some d =>
    cases hr : roleOf p.role with
    | none => exact .inl ⟨⟨p, rfl, .inr fun q hq => absurd (hr.symm.trans hq) (by simp)⟩, rfl⟩
    | some r =>
      by_cases good : k.roles.contains r ∧ ¬ seen.contains r
      · refine .inr ⟨r, rfl, ?_, if_pos good⟩
        obtain ⟨listed, fresh⟩ := good
        rintro ⟨p', hp, side | role⟩
        · obtain rfl : p = p' := by simpa using hp
          exact absurd (hs.symm.trans side) (by simp)
        · obtain rfl : p = p' := by simpa using hp
          obtain out | inSeen | ⟨j, hj, -⟩ := role r hr
          · exact out (by simpa using listed)
          · exact fresh (by simpa using inSeen)
          · exact absurd hj (by omega)
      · refine .inl ⟨⟨p, rfl, .inr fun q hq => ?_⟩, if_neg good⟩
        obtain rfl : r = q := Option.some.inj (hr.symm.trans hq)
        by_cases listed : r ∈ k.roles
        · exact .inr (.inl (by simpa [listed] using good))
        · exact .inl listed

theorem badRole_eq_some {l : List RawPoint} (i : Nat) (bad : BadRoleAt k seen l m)
    (first : ∀ j < m, ¬ BadRoleAt k seen l j) : badRole k i seen l = some (i + m) := by
  induction l generalizing m i seen with
  | nil =>
    obtain ⟨p, hp, -⟩ := bad
    simp at hp
  | cons p rest ih =>
    obtain ⟨headBad, eq⟩ | ⟨r, hr, headGood, eq⟩ := badRole_cons (k := k) (seen := seen) (p := p) (rest := rest) i
    · cases m with
      | zero => exact eq
      | succ m => exact absurd headBad (first 0 (by omega))
    · cases m with
      | zero => exact absurd bad headGood
      | succ m =>
        rw [eq, ih (i + 1) ((badRoleAt_succ hr).1 bad) fun j hj h => first (j + 1) (by omega) ((badRoleAt_succ hr).2 h)]
        congr 1
        omega

theorem badRole_eq_none {l : List RawPoint} (i : Nat) (good : ∀ j, ¬ BadRoleAt k seen l j) :
    badRole k i seen l = none := by
  induction l generalizing i seen with
  | nil => rfl
  | cons p rest ih =>
    obtain ⟨headBad, -⟩ | ⟨r, hr, -, eq⟩ := badRole_cons (k := k) (seen := seen) (p := p) (rest := rest) i
    · exact absurd headBad (good 0)
    · rw [eq]
      exact ih _ fun j h => good (j + 1) ((badRoleAt_succ hr).2 h)
end

theorem Kind.allowsRange_iff (k : Kind) (r : Nat) :
    k.allowsRange r = true ↔ ∀ a b, k.ranges = some (a, b) → a ≤ r ∧ r ≤ b := by
  unfold Kind.allowsRange
  cases k.ranges with
  | none => simp
  | some q =>
    obtain ⟨lo, hi⟩ := q
    simp only [Bool.and_eq_true, decide_eq_true_eq, Option.some.injEq, Prod.mk.injEq, and_imp]
    exact ⟨fun h a b ha hb => ha ▸ hb ▸ h, fun h => h lo hi rfl rfl⟩

end Sys2Proof.Machine

open Sys2Proof Sys2Proof.Machine in
/-- Settles O46: the checks in their order, each with those before it passed. -/
theorem admissionChecks : Obligations.AdmissionChecks := by
  intro r n
  split
  · next h => rw [RawStep.failing, h]
  · next k h =>
    intro ok2 bad3 ok4 ok5 ok6 ok7 bad8 ok9 ok3 ok8
    have toBad (i : Nat) : bad3 i ↔ BadRoleAt k [] r.used i := by
      simp only [bad3, BadRoleAt, List.not_mem_nil, false_or]
    have to4 : k.allowsRange r.range = true ↔ ok4 := k.allowsRange_iff r.range
    have to5 : (k ≠ .cap ∧ (4 < r.gainMin ∨ 4 < r.gainMax ∨ r.gainMax < r.gainMin)) ↔ ¬ ok5 := by
      constructor
      · rintro ⟨noCap, h⟩ (cap | ⟨order, top⟩)
        · exact noCap cap
        · omega
      · exact fun h => ⟨fun cap => h (.inl cap), by_contra fun hn => h (.inr (by omega))⟩
    have to6 : (r.window = 0 ∨ 4096 < r.window ∨ 3 < r.retest) ↔ ¬ ok6 := by
      simp only [ok6]
      omega
    have to7 : (r.flag 3 ∧ r.flag 4 ∧ r.hi < r.lo) ↔ ¬ ok7 := by
      simp only [ok7]
      push Not
      rfl
    have to9 : (k = .cap ∧ (5000 < r.threshold ∨ compliance r.range ≤ 1000 * r.threshold)) ↔ ¬ ok9 := by
      simp only [ok9]
      push Not
      refine and_congr_right fun _ => ?_
      omega
    have pass3 (h3 : ok3) : badRole k 0 [] r.used = none := badRole_eq_none 0 fun j hj => h3 j ((toBad j).2 hj)
    have pass8 (h8 : ok8) : firstBad (fun p => decide (n ≤ p.net)) 0 r.used = none :=
      firstBad_eq_none 0 fun p hp => by
        obtain ⟨i, hi⟩ := List.mem_iff_getElem?.1 hp
        exact decide_eq_false fun hn => h8 i ⟨p, hi, hn⟩
    rw [RawStep.failing, h]
    dsimp only
    refine ⟨fun h2 => if_pos h2, fun h2 i hi first => ?_, fun ⟨h2, h3⟩ h4 => ?_, fun ⟨h2, h3, h4⟩ h5 => ?_,
      fun ⟨h2, h3, h4, h5⟩ h6 => ?_, fun ⟨h2, h3, h4, h5, h6⟩ h7 => ?_, fun ⟨h2, h3, h4, h5, h6, h7⟩ i hi first => ?_,
      fun ⟨h2, h3, h4, h5, h6, h7, h8⟩ h9 => ?_, fun ⟨h2, h3, h4, h5, h6, h7, h8, h9⟩ => ?_⟩
    all_goals rw [if_neg (not_not.2 h2)]
    · rw [badRole_eq_some 0 ((toBad i).1 hi) fun j hj hb => first j hj ((toBad j).2 hb), Nat.zero_add]
    all_goals
      rw [pass3 h3]
      simp only [to5, to6, to7, to9]
    · rw [if_pos (mt to4.1 h4)]
    all_goals rw [if_neg (not_not.2 (to4.2 h4))]
    · rw [if_pos h5]
    all_goals rw [if_neg (not_not.2 h5)]
    · rw [if_pos h6]
    all_goals rw [if_neg (not_not.2 h6)]
    · rw [if_pos h7]
    all_goals rw [if_neg (not_not.2 h7)]
    · obtain ⟨p, hp, hn⟩ := hi
      rw [firstBad_eq_some 0 hp (decide_eq_true hn) fun j hj q hq => decide_eq_false fun hn => first j hj ⟨q, hq, hn⟩,
        Nat.zero_add]
    all_goals rw [pass8 h8]
    · exact if_pos h9
    · exact if_neg (not_not.2 h9)
end

section
/-! PROOFS. HELD, the net records and the board verdict (R96, R100, R159, R166, R185). -/

set_option Elab.async false

namespace Sys2Proof.Machine

/-! ## Entries of the window -/

section
variable {s : State} {k : Nat} {e : Entry}

theorem State.entry_mem (h : s.entry k = some e) : e ∈ s.disp.window := List.mem_of_find?_eq_some h

theorem State.entry_slot (h : s.entry k = some e) : e.slot = k := by simpa using List.find?_some h

/-- In a window of distinct slots a step's entry is the one in its slot. -/
theorem State.entry_of_mem (nodup : (s.disp.window.map (·.slot)).Nodup) (h : e ∈ s.disp.window) :
    s.entry e.slot = some e := by
  cases found : s.entry e.slot with
  | none => exact absurd (beq_self_eq_true e.slot) (List.find?_eq_none.1 found e h)
  | some f => rw [List.inj_on_of_nodup_map nodup h (State.entry_mem found) (State.entry_slot found).symm]

theorem State.entry_none_iff : s.entry k = none ↔ ∀ e ∈ s.disp.window, e.slot ≠ k := by
  simp [State.entry, List.find?_eq_none]

/-- An entry after a change of one slot's entry that leaves the slot. -/
theorem State.entry_modEntry {f : Entry → Entry} (hf : ∀ e, (f e).slot = e.slot) (j : Nat) :
    (s.modEntry k f).entry j = if j = k then (s.entry j).map f else s.entry j := by
  have same : ((fun e : Entry => e.slot == j) ∘ fun e => if e.slot == k then f e else e) = fun e => e.slot == j := by
    funext e
    simp only [Function.comp]
    split
    · rw [hf]
    · rfl
  rw [State.entry, State.modEntry_window, List.find?_map, same, ← State.entry]
  split
  · next e =>
    subst e
    cases found : s.entry j with
    | none => rfl
    | some e => simp [State.entry_slot found]
  · next ne =>
    cases found : s.entry j with
    | none => rfl
    | some e => simp [State.entry_slot found, ne]

theorem State.entry_congr {t : State} (h : t.disp.window = s.disp.window) (k : Nat) : t.entry k = s.entry k := by
  rw [State.entry, h, State.entry]
end

/-! ## Net records -/

section
variable {t : NetTable}

theorem NetTable.get_put (n : Nat) (r : NetRec) (m : Nat) : (t.put n r).get m = if m = n then r else t.get m := by
  rw [NetTable.get, NetTable.put]
  split
  · next e => rw [e, lookupKey_insertKey_same]; rfl
  · next ne => rw [lookupKey_insertKey_ne _ _ ne]; rfl

theorem NetTable.get_foldl_put (g : NetRec → NetRec) {l : List Nat} (nodup : l.Nodup) (t : NetTable) (m : Nat) :
    (l.foldl (fun t n => t.put n (g (t.get n))) t).get m = if m ∈ l then g (t.get m) else t.get m := by
  induction l generalizing t with
  | nil => simp
  | cons n rest ih =>
    obtain ⟨fresh, nodup⟩ := List.nodup_cons.1 nodup
    rw [List.foldl_cons, ih nodup, NetTable.get_put]
    by_cases e : m = n
    · subst e
      simp [fresh]
    · simp [e]

/-- The record of a net after a step's outcome. -/
theorem NetTable.get_update (c : StepCopy) (v : Verdict) (m : Nat) :
    (t.update c v).get m = if m ∈ c.nets then (t.get m).update v c.tag else t.get m := by
  have folded (u : Verdict) := NetTable.get_foldl_put (fun r => r.update u c.tag) (l := c.nets) (List.nodup_dedup _) t m
  cases v with
  | low => exact folded .low
  | high => exact folded .high
  | unresolved => exact folded .unresolved
  | pass => exact folded .pass
  | nocontact => exact (ite_self _).symm
  | skipped => exact (ite_self _).symm
  | error => exact (ite_self _).symm

theorem StepCopy.mem_nets {c : StepCopy} {n : Nat} : n ∈ c.nets ↔ ∃ p ∈ c.points, p.net = n := by
  simp [StepCopy.nets, List.mem_dedup]
end

/-! ## HELD -/

section
variable {s : State} {k : Nat} {e : Entry} {o : Outcome}

theorem State.enterHeld_undecided (h : ∀ e, s.entry k = some e → e.outcome = none) : s.enterHeld k = s := by
  rw [State.enterHeld.eq_def]
  cases he : s.entry k with
  | none => rfl
  | some e => simp only [h e he]

/-- A step with an outcome as it enters HELD. -/
theorem State.enterHeld_eq (he : s.entry k = some e) (ho : e.outcome = some o) : s.enterHeld k =
    (((s.modEntry k fun e => { e with state := .held }).updNets fun t => t.update e.copy o.verdict).offerResult k).markScan := by
  rw [State.enterHeld.eq_def]
  simp only [he, ho]

theorem State.offerResult_window : (s.offerResult k).disp.window = s.disp.window := by
  unfold State.offerResult
  split <;> rfl

theorem State.offerResult_nets : (s.offerResult k).nets = s.nets := by
  unfold State.offerResult
  split <;> rfl

/-- An entry as it enters HELD: one that has an outcome. -/
def Entry.enter (f : Entry) : Entry := if f.outcome.isSome then { f with state := .held } else f

@[simp] theorem Entry.enter_slot (f : Entry) : f.enter.slot = f.slot := by
  unfold Entry.enter
  split <;> rfl

@[simp] theorem Entry.enter_outcome (f : Entry) : f.enter.outcome = f.outcome := by
  unfold Entry.enter
  split <;> rfl

theorem Entry.enter_enter (f : Entry) : f.enter.enter = f.enter := by
  cases h : f.outcome.isSome <;> simp [Entry.enter, h]

/-- Every entry of a slot, as that slot's step enters HELD. -/
def enterSlot (k : Nat) (w : List Entry) : List Entry := w.map fun f => if f.slot = k then f.enter else f

theorem enterSlot_slots (k : Nat) (w : List Entry) : (enterSlot k w).map (·.slot) = w.map (·.slot) := by
  rw [enterSlot, List.map_map]
  refine List.map_congr_left fun f _ => ?_
  rw [Function.comp]
  split <;> simp

/-- The window after a step has entered HELD. -/
theorem State.enterHeld_window (nodup : (s.disp.window.map (·.slot)).Nodup) :
    (s.enterHeld k).disp.window = enterSlot k s.disp.window := by
  have entry {f : Entry} (hf : f ∈ s.disp.window) (hk : f.slot = k) : s.entry k = some f :=
    hk ▸ State.entry_of_mem nodup hf
  by_cases decided : ∃ e o, s.entry k = some e ∧ e.outcome = some o
  · obtain ⟨e, o, he, ho⟩ := decided
    rw [State.enterHeld_eq he ho]
    refine State.offerResult_window.trans (List.map_congr_left fun f hf => ?_)
    by_cases hk : f.slot = k
    · obtain rfl : e = f := Option.some.inj (he.symm.trans (entry hf hk))
      simp [hk, Entry.enter, ho]
    · simp [hk]
  · have undecided (f : Entry) (hf : s.entry k = some f) : f.outcome = none :=
      Option.eq_none_iff_forall_ne_some.2 fun o ho => decided ⟨f, o, hf, ho⟩
    rw [State.enterHeld_undecided undecided]
    refine (List.map_id _).symm.trans (List.map_congr_left fun f hf => ?_)
    split
    · next hk => simp [Entry.enter, undecided f (entry hf hk)]
    · rfl

/-- The net table takes the verdict of the step that enters HELD. -/
def NetTable.take (t : NetTable) (e : Entry) : NetTable :=
  match e.outcome with
  | some o => t.update e.copy o.verdict
  | none => t

theorem State.enterHeld_nets (he : s.entry k = some e) : (s.enterHeld k).nets = s.nets.take e := by
  unfold NetTable.take
  cases ho : e.outcome with
  | none => rw [State.enterHeld_undecided fun f hf => by rw [he] at hf; cases hf; exact ho]
  | some o =>
    rw [State.enterHeld_eq he ho]
    exact State.offerResult_nets

theorem State.entry_enterHeld_ne (nodup : (s.disp.window.map (·.slot)).Nodup) {f : Entry} (hf : s.entry f.slot = some f)
    (h : f.slot ≠ k) : (s.enterHeld k).entry f.slot = some f := by
  have nodup' : ((s.enterHeld k).disp.window.map (·.slot)).Nodup := by
    rwa [State.enterHeld_window nodup, enterSlot_slots]
  refine State.entry_of_mem nodup' ?_
  rw [State.enterHeld_window nodup]
  exact List.mem_map.2 ⟨f, State.entry_mem hf, if_neg h⟩

/-- A list of the window's entries, each in its slot. -/
structure State.Lists (s : State) (l : List Entry) : Prop where
  window : (s.disp.window.map (·.slot)).Nodup
  slots : (l.map (·.slot)).Nodup
  entries : ∀ e ∈ l, s.entry e.slot = some e

/-- Behind the first entry of a list, which has entered HELD, the others are as they were. -/
theorem State.Lists.enterHeld {l : List Entry} (h : s.Lists (e :: l)) : (s.enterHeld e.slot).Lists l where
  window := by rw [State.enterHeld_window h.window, enterSlot_slots]; exact h.window
  slots := (List.nodup_cons.1 h.slots).2
  entries f hf := State.entry_enterHeld_ne h.window (h.entries f (List.mem_cons_of_mem e hf)) fun same =>
    (List.nodup_cons.1 h.slots).1 (List.mem_map.2 ⟨f, hf, same⟩)

theorem State.Lists.tail {l : List Entry} (h : s.Lists (e :: l)) : s.Lists l where
  window := h.window
  slots := (List.nodup_cons.1 h.slots).2
  entries f hf := h.entries f (List.mem_cons_of_mem e hf)

theorem State.Lists.filter {l : List Entry} (h : s.Lists l) (p : Entry → Bool) : s.Lists (l.filter p) where
  window := h.window
  slots := h.slots.sublist (List.filter_sublist.map _)
  entries f hf := h.entries f (List.mem_filter.1 hf).1

theorem State.lists_window (nodup : (s.disp.window.map (·.slot)).Nodup) : s.Lists s.disp.window :=
  ⟨nodup, nodup, fun _ he => State.entry_of_mem nodup he⟩

/-- A step in LIFTING with no carriage in its assignment. -/
def Entry.lifted (e : Entry) : Bool := e.state == .lifting && e.assignment.all (·.isNone)

theorem Entry.lifted_iff (e : Entry) : (e.state = .lifting ∧ e.serving = []) ↔ e.lifted = true := by
  simp [Entry.lifted, Entry.serving, List.filterMap_eq_nil_iff]

/-- What the Dispatcher does at HELD with one entry. -/
def State.holdOne (s : State) (e : Entry) : State :=
  match s.entry e.slot with
  | some e => if e.state = .lifting ∧ e.serving = [] then s.enterHeld e.slot else s
  | none => s

theorem State.holdOne_eq (h : s.entry e.slot = some e) : s.holdOne e = if e.lifted then s.enterHeld e.slot else s := by
  rw [State.holdOne.eq_def, h]
  simp only [Entry.lifted_iff]

/-- At HELD the Dispatcher takes the steps that are lifted, in plan order. -/
theorem State.Lists.holdLifted {l : List Entry} (h : s.Lists l) :
    l.foldl State.holdOne s = ((l.filter Entry.lifted).map (·.slot)).foldl (fun v k => v.enterHeld k) s := by
  induction l generalizing s with
  | nil => rfl
  | cons e rest ih =>
    rw [List.foldl_cons, List.filter_cons, State.holdOne_eq (h.entries e (by simp))]
    cases e.lifted
    · exact ih h.tail
    · exact ih h.enterHeld

theorem State.Lists.foldl_window {l : List Entry} (h : s.Lists l) :
    ((l.map (·.slot)).foldl (fun v k => v.enterHeld k) s).disp.window =
      s.disp.window.map fun f => if f.slot ∈ l.map (·.slot) then f.enter else f := by
  induction l generalizing s with
  | nil => simp
  | cons e rest ih =>
    rw [List.map_cons, List.foldl_cons, ih h.enterHeld, State.enterHeld_window h.window, enterSlot, List.map_map]
    refine List.map_congr_left fun f _ => ?_
    by_cases here : f.slot = e.slot
    · simp [here, Entry.enter_enter]
    · simp [here]

theorem State.Lists.foldl_nets {l : List Entry} (h : s.Lists l) :
    ((l.map (·.slot)).foldl (fun v k => v.enterHeld k) s).nets = l.foldl NetTable.take s.nets := by
  induction l generalizing s with
  | nil => rfl
  | cons e rest ih =>
    rw [List.map_cons, List.foldl_cons, ih h.enterHeld, State.enterHeld_nets (h.entries e (by simp)), List.foldl_cons]

theorem State.holdLifted_eq (nodup : (s.disp.window.map (·.slot)).Nodup) :
    s.holdLifted = ((s.disp.window.filter Entry.lifted).map (·.slot)).foldl (fun v k => v.enterHeld k) s :=
  (State.lists_window nodup).holdLifted

theorem State.holdLifted_window (nodup : (s.disp.window.map (·.slot)).Nodup) :
    s.holdLifted.disp.window = s.disp.window.map fun e => if e.lifted then e.enter else e := by
  have lists := State.lists_window nodup
  rw [State.holdLifted_eq nodup, (lists.filter _).foldl_window]
  refine List.map_congr_left fun e he => ?_
  have listed : e.slot ∈ (s.disp.window.filter Entry.lifted).map (·.slot) ↔ e.lifted = true := by
    refine ⟨fun h => ?_, fun h => List.mem_map_of_mem (List.mem_filter.2 ⟨he, h⟩)⟩
    obtain ⟨f, hf, same⟩ := List.mem_map.1 h
    obtain ⟨hf, lifted⟩ := List.mem_filter.1 hf
    exact List.inj_on_of_nodup_map nodup hf he same ▸ lifted
  simp only [listed]

theorem State.holdLifted_nets (nodup : (s.disp.window.map (·.slot)).Nodup) :
    s.holdLifted.nets = (s.disp.window.filter Entry.lifted).foldl NetTable.take s.nets := by
  rw [State.holdLifted_eq nodup, ((State.lists_window nodup).filter _).foldl_nets]

/-- What the log and the list of refused outcomes make of an outcome that is offered. -/
theorem State.offerResult_eq (s : State) (k : Nat) : s.offerResult k = { s with
    disp := { s.disp with refused := if s.log.results.length < 3 then s.disp.refused else s.disp.refused ++ [k] }
    log := if s.log.results.length < 3 then
        { s.log with results := s.log.results ++ [⟨k, s.log.offers⟩], offers := s.log.offers + 1 }
      else s.log } := by
  rw [State.offerResult, Config.heldResults]
  split <;> rfl
end

end Sys2Proof.Machine

open Sys2Proof Sys2Proof.Machine in
/-- Settles O52: the net records one net at a time; the steps that enter HELD one after the other, each leaving the entries
of the others. -/
theorem netAndBoardVerdicts : Obligations.NetAndBoardVerdicts := by
  refine ⟨fun t c v n => ⟨fun h => ?_, fun h => ?_⟩, fun s k h => State.enterHeld_undecided h, fun s k e o he ho => ?_,
    fun s nodup => ⟨State.holdLifted_eq nodup, ?_, State.holdLifted_nets nodup⟩, fun f t rise => ?_⟩
  · rw [NetTable.get_update, if_neg fun named => ?_]
    obtain ⟨p, hp, hn⟩ := StepCopy.mem_nets.1 named
    exact h p hp hn
  · rw [NetTable.get_update, if_pos (StepCopy.mem_nets.2 h)]
    have tag : some ((t.get n).firstTag.getD c.tag) =
        if (t.get n).firstTag = none then some c.tag else (t.get n).firstTag := by
      cases (t.get n).firstTag <;> rfl
    cases v <;> simp only [NetRec.update, tag] <;> rfl
  · rw [State.enterHeld_eq he ho, State.offerResult_eq]
    have slots : (fun f : Entry => if f.slot == k then { f with state := .held } else f) =
        fun f => if f.slot = k then { f with state := .held } else f := by
      funext f
      simp only [beq_iff_eq]
    refine ⟨rfl, ?_, rfl⟩
    rw [← slots]
    rfl
  · rw [State.holdLifted_window nodup]
    refine List.map_congr_left fun e _ => ?_
    unfold Entry.enter Entry.lifted
    cases e.outcome.isSome <;> simp
  · have failed := NetTable.firstFail_isSome_iff rise
    refine ⟨fun next => if_pos next, fun plan fails => ?_, fun plan none_ bad => ?_, fun plan none_ noContact noError => ?_⟩
    · exact (if_neg plan).trans (if_pos (failed.2 fails))
    · exact (if_neg plan).trans ((if_neg (mt failed.1 none_)).trans (if_pos bad))
    · exact (if_neg plan).trans ((if_neg (mt failed.1 none_)).trans (if_neg (by omega)))
end

section
/-! PROOFS. Entries and publications as they complete: the retire list, the frame, the held notes and RESULTS (R163, R165,
R168, R170, R182, R185 to R187). -/

set_option Elab.async false

namespace Sys2Proof.Machine

/-! ## The retire list (R182) -/

/-- A segment that the retired sequence passes over: left, and owing nothing. -/
def RetireEntry.settled (q : RetireEntry) : Bool := q.left && q.owes == 0

theorem RetireEntry.settled_iff (q : RetireEntry) : (q.left = true ∧ q.owes = 0) ↔ q.settled = true := by
  simp [RetireEntry.settled]

theorem retireRun_eq (l : List RetireEntry) (q : Option Word32) :
    retireRun l q = (l.dropWhile RetireEntry.settled, ((l.takeWhile RetireEntry.settled).getLast?.map (·.seq)).or q) := by
  induction l generalizing q with
  | nil => simp [retireRun]
  | cons e rest ih =>
    rw [retireRun]
    simp only [RetireEntry.settled_iff]
    cases settled : e.settled
    · simp [settled]
    · rw [if_pos rfl, ih, List.dropWhile_cons_of_pos settled, List.takeWhile_cons_of_pos settled, List.getLast?_cons]
      cases (rest.takeWhile RetireEntry.settled).getLast? <;> simp

section
variable {s : State}

/-- The run of segments at the head of the retire list that the retired sequence passes over, and the last of them. -/
def Fetcher.lastSettled (f : Fetcher) : Option RetireEntry := (f.retire.takeWhile RetireEntry.settled).getLast?

theorem State.retire_some {q : RetireEntry} (h : s.fetch.lastSettled = some q) :
    s.retire = (s.updFetch fun f => { f with
      retire := f.retire.dropWhile RetireEntry.settled, retiredSeq := q.seq }).writeStation 0x28 q.seq.toNat := by
  rw [State.retire, retireRun_eq, show (s.fetch.retire.takeWhile RetireEntry.settled).getLast? = some q from h]
  rfl

theorem State.retire_none (h : s.fetch.lastSettled = none) : s.retire = s := by
  rw [State.retire, retireRun_eq, show (s.fetch.retire.takeWhile RetireEntry.settled).getLast? = none from h]
  rfl

theorem State.retire_list : s.retire.fetch.retire = s.fetch.retire.dropWhile RetireEntry.settled := by
  cases h : s.fetch.lastSettled with
  | some q => rw [State.retire_some h]; rfl
  | none =>
    have empty : s.fetch.retire.takeWhile RetireEntry.settled = [] := List.getLast?_eq_none_iff.1 h
    rw [State.retire_none h]
    conv_lhs => rw [← List.takeWhile_append_dropWhile (p := RetireEntry.settled) (l := s.fetch.retire), empty, List.nil_append]

/-- What passing over segments leaves of the Fetcher. -/
theorem State.retire_fetch : s.retire.fetch =
    { s.fetch with retire := s.retire.fetch.retire, retiredSeq := s.retire.fetch.retiredSeq } := by
  cases h : s.fetch.lastSettled with
  | some q => rw [State.retire_some h]; rfl
  | none => rw [State.retire_none h]

theorem State.hostByte_retire_ne {a : Nat} (h : ∀ i < 4, a ≠ (s.station + BitVec.ofNat 64 (0x28 + i)).toNat) :
    s.retire.hostByte a = s.hostByte a := by
  cases settled : s.fetch.lastSettled with
  | some q =>
    rw [State.retire_some settled]
    exact State.hostByte_writeStation_ne (s := s.updFetch _) h
  | none => rw [State.retire_none settled]

/-- The bytes of a word that a whole write of a Station Block field leaves. -/
theorem State.hostByte_writeStation {o : Nat} {w : Word32} {j : Nat} (hj : j < 4) :
    (s.writeStation o w.toNat).hostByte (s.station + BitVec.ofNat 64 o + BitVec.ofNat 64 j).toNat =
      some (w.extractLsb' (8 * j) 8) := by
  have hl : j < (leBytes 4 w.toNat).length := by rwa [leBytes_length]
  exact (State.hostByte_writeHost _ _ _ _ hl (by rw [leBytes_length]; decide)).trans (congrArg some (leBytes_word w j hl))

/-- The retired sequence has passed over a retire list: `f` and `a` are the Fetcher and the Station Block's address before,
`u` the state after. -/
structure Retired (f : Fetcher) (a : Word64) (list : List RetireEntry) (u : State) : Prop where
  rest : u.fetch.retire = list.dropWhile RetireEntry.settled
  kept : list.takeWhile RetireEntry.settled = [] → u.fetch.retiredSeq = f.retiredSeq
  last : ∀ q, (list.takeWhile RetireEntry.settled).getLast? = some q → u.fetch.retiredSeq = q.seq ∧ ∀ j < 4,
    u.hostByte (a + 0x28 + BitVec.ofNat 64 j).toNat = some (q.seq.extractLsb' (8 * j) 8)

theorem State.retired (s : State) : Retired s.fetch s.station s.fetch.retire s.retire where
  rest := State.retire_list
  kept h := by rw [State.retire_none (List.getLast?_eq_none_iff.2 h)]
  last q h := by
    rw [State.retire_some h]
    exact ⟨rfl, fun j hj => State.hostByte_writeStation (s := s.updFetch _) hj⟩

theorem Retired.congr {f : Fetcher} {a : Word64} {l : List RetireEntry} {u v : State} (h : Retired f a l u)
    (hf : v.fetch.retire = u.fetch.retire) (hq : v.fetch.retiredSeq = u.fetch.retiredSeq) (hm : v.hostMem = u.hostMem) :
    Retired f a l v where
  rest := hf.trans h.rest
  kept e := hq.trans (h.kept e)
  last q e := ⟨hq.trans (h.last q e).1, fun j hj => by rw [State.hostByte, hm]; exact (h.last q e).2 j hj⟩

/-- The retire list with one thing less owed by a segment. -/
def owedLess (k : SegmentKind) (which : Word32 → Bool) (l : List RetireEntry) : List RetireEntry :=
  l.map fun q => if q.kind = k ∧ which q.seq = true then { q with owes := q.owes - 1 } else q

variable {k : SegmentKind} {which : Word32 → Bool}

theorem State.owesLess_eq :
    s.owesLess k which = (s.updFetch fun f => { f with retire := owedLess k which f.retire }).retire := rfl

theorem State.owesLess_retired : Retired s.fetch s.station (owedLess k which s.fetch.retire) (s.owesLess k which) := by
  rw [State.owesLess_eq]
  have dealt := (s.updFetch fun f => { f with retire := owedLess k which f.retire }).retired
  exact ⟨dealt.rest, dealt.kept, dealt.last⟩

theorem State.owesLess_fetch : (s.owesLess k which).fetch =
    { s.fetch with
      retire := (s.owesLess k which).fetch.retire, retiredSeq := (s.owesLess k which).fetch.retiredSeq } := by
  rw [State.owesLess_eq]
  exact State.retire_fetch

theorem State.hostByte_owesLess_ne {a : Nat} (h : ∀ i < 4, a ≠ (s.station + BitVec.ofNat 64 (0x28 + i)).toNat) :
    (s.owesLess k which).hostByte a = s.hostByte a := by
  rw [State.owesLess_eq, State.hostByte_retire_ne (s := s.updFetch _) h]
  rfl
end

/-! ## FRAME_START (R163) -/

section
variable {s : State} {b : BoardBegin}

theorem State.offerNote_room {n : Note} (h : s.log.notes.length < 8) : s.offerNote n =
    s.updLog fun l => { l with notes := l.notes ++ [⟨n, l.offers⟩], offers := l.offers + 1 } :=
  congrArg (fun l => { s with log := l }) (if_pos h)

theorem State.offerNote_full {n : Note} (h : ¬ s.log.notes.length < 8) : s.offerNote n =
    s.updLog fun l => { l with dropped := min 65535 (l.dropped + 1) } :=
  congrArg (fun l => { s with log := l }) (if_neg h)

/-- What a FRAME_START opens, before its segment is dealt with. -/
def State.openFrame (b : BoardBegin) (s : State) : State :=
  let s := s.updNets fun _ => ⟨[], b.netCount⟩
  let s := s.updFrame fun f =>
    { f with
      state := .opened
      reason := none
      serial := b.serial
      planTag := b.planTag
      offsets := b.offsets
      netCount := b.netCount
      imageAddr := b.imageAddr
      parkOnClose := false
      counts := ⟨0, 0, 0, 0, 0⟩
      imageWritten := false
      imageBusy := false }
  let s := s.updMu fun u => { u with zAge := saturate 65535 u.zAge }
  let s := s.updLog fun l => { l with dropped := 0 }
  let s := if b.clampMarks = 0 then s else s.offerNote ⟨.offsetClamped, none, b.clampMarks, 0, b.seq, 0⟩
  s.updFetch fun f => { f with hold := if f.hold = some .frameStart then none else f.hold }

theorem State.frameStartWritten_eq :
    s.frameStartWritten b = (s.openFrame b).owesLess .boardBegin fun q => q == b.seq := rfl

/-- The log with a note offered, the dropped-note count just cleared. -/
def LogWriter.clampNote (l : LogWriter) (b : BoardBegin) : LogWriter :=
  if b.clampMarks = 0 then { l with dropped := 0 }
  else if l.notes.length < 8 then
    { l with
      dropped := 0, notes := l.notes ++ [⟨⟨.offsetClamped, none, b.clampMarks, 0, b.seq, 0⟩, l.offers⟩]
      offers := l.offers + 1 }
  else { l with dropped := 1 }

/-- The note that a FRAME_START owes, offered with the dropped-note count just cleared. -/
theorem State.offerClampNote {l : LogWriter} (h : s.log = { l with dropped := 0 }) :
    (if b.clampMarks = 0 then s else s.offerNote ⟨.offsetClamped, none, b.clampMarks, 0, b.seq, 0⟩) =
      { s with log := l.clampNote b } := by
  have notes : s.log.notes = l.notes := by rw [h]
  unfold LogWriter.clampNote
  by_cases marks : b.clampMarks = 0
  · rw [if_pos marks, if_pos marks, ← h]
  · rw [if_neg marks, if_neg marks]
    by_cases room : l.notes.length < 8
    · rw [if_pos room, State.offerNote_room (notes ▸ room), State.updLog, h]
    · rw [if_neg room, State.offerNote_full (notes ▸ room), State.updLog, h]
      rfl

theorem State.openFrame_eq : s.openFrame b = { s with
    nets := ⟨[], b.netCount⟩
    frame := { s.frame with
      state := .opened, reason := none, serial := b.serial, planTag := b.planTag, offsets := b.offsets
      netCount := b.netCount, imageAddr := b.imageAddr, parkOnClose := false, counts := ⟨0, 0, 0, 0, 0⟩
      imageWritten := false, imageBusy := false }
    mu := { s.mu with zAge := min 65535 (s.mu.zAge + 1) }
    log := s.log.clampNote b
    fetch := { s.fetch with hold := if s.fetch.hold = some .frameStart then none else s.fetch.hold } } := by
  unfold State.openFrame
  dsimp only
  rw [State.offerClampNote (l := s.log) rfl]
  rfl
end

/-! ## FRAME_END (R165, R167) -/

section
variable {s : State}

/-- A parking BOARD_END parks with the FRAME_END that closes its frame (R167). -/
def State.parksAtEnd (s : State) : Bool := s.frame.parkOnClose && s.frame.abortDiscards.isNone && s.parksNow

/-- The frame closed by a FRAME_END, before its segment is dealt with. -/
def State.closeFrame (s : State) : State :=
  let t := s.updFrame fun f =>
    { f with state := .none, reason := none, parkOnClose := false, abortDiscards := none, imageBusy := false }
  (if s.parksAtEnd then t.orderFramePark else t).updFetch fun f =>
    { f with hold := if f.hold = some .frameEnd then (if s.parksAtEnd then some .park else none) else f.hold }

theorem State.closeFrame_frame : s.closeFrame.frame = { s.frame with
    state := .none, reason := none, parkOnClose := false, abortDiscards := none, imageBusy := false } := by
  unfold State.closeFrame
  cases s.parksAtEnd <;> rfl

theorem State.closeFrame_fetch : s.closeFrame.fetch = { s.fetch with hold := s.closeFrame.fetch.hold } := by
  unfold State.closeFrame
  cases s.parksAtEnd <;> rfl

theorem State.confined_closeFrame : Confined [.frame, .run, .fetch] s s.closeFrame := by
  unfold State.closeFrame
  exact .andThen (.ite (fun _ => (State.confined_updFrame.mono).andThen State.confined_orderFramePark)
    fun _ => State.confined_updFrame.mono) State.confined_updFetch

/-- The closed frame with its segment dealt with. -/
def State.settleFrame (s : State) : State :=
  if s.frame.reason = some .boardEnd then s.closeFrame.owesLess .boardEnd fun _ => true else s.closeFrame

theorem State.frameEndWritten_eq : s.frameEndWritten =
    if s.settleFrame.log.due.isSome then s.settleFrame.orderPendingCal else s.settleFrame := rfl

theorem State.confined_settleFrame : Confined [.frame, .run, .fetch, .hostMem] s s.settleFrame :=
  .ite (fun _ => (State.confined_closeFrame.mono).andThen State.confined_owesLess) fun _ => State.confined_closeFrame.mono

theorem State.confined_frameEnd : Confined [.run, .mu] s.settleFrame s.frameEndWritten := by
  rw [State.frameEndWritten_eq]
  exact .ite (fun _ => State.confined_orderPendingCal) fun _ => .refl _ _

theorem State.settleFrame_frame : s.settleFrame.frame = s.closeFrame.frame := by
  unfold State.settleFrame
  split
  · exact State.confined_owesLess.frame
  · rfl

theorem State.settleFrame_fetch : s.settleFrame.fetch = { s.fetch with
    hold := s.settleFrame.fetch.hold, retire := s.settleFrame.fetch.retire
    retiredSeq := s.settleFrame.fetch.retiredSeq } := by
  have closed := State.closeFrame_fetch (s := s)
  unfold State.settleFrame
  split
  · rw [State.owesLess_fetch, closed]
  · rw [closed]

theorem State.settleFrame_retired (h : s.frame.reason = some .boardEnd) :
    Retired s.fetch s.station (owedLess .boardEnd (fun _ => true) s.fetch.retire) s.settleFrame := by
  have station : s.closeFrame.station = s.station := State.station_congr (by rw [State.confined_closeFrame.regs])
  have dealt := State.owesLess_retired (s := s.closeFrame) (k := .boardEnd) (which := fun _ => true)
  rw [station, State.closeFrame_fetch] at dealt
  rw [State.settleFrame, if_pos h]
  exact ⟨dealt.rest, dealt.kept, dealt.last⟩

theorem State.settleFrame_kept (h : s.frame.reason ≠ some .boardEnd) :
    s.settleFrame.fetch.retire = s.fetch.retire ∧ s.settleFrame.fetch.retiredSeq = s.fetch.retiredSeq := by
  rw [State.settleFrame, if_neg h, State.closeFrame_fetch]
  exact ⟨rfl, rfl⟩
end

/-! ## Entries -/

section
variable {s : State}

theorem State.resultWritten_eq {k : Nat} {e : Entry} {o : Outcome} (he : s.entry k = some e) (ho : e.outcome = some o) :
    s.resultWritten k =
      (s.updFrame fun f => { f with counts := f.counts.count o.verdict }).modEntry k fun e => { e with state := .done } := by
  rw [State.resultWritten.eq_def]
  simp only [he, ho]

theorem State.entry_resultWritten {k : Nat} {e : Entry} {o : Outcome} (he : s.entry k = some e)
    (ho : e.outcome = some o) : (s.resultWritten k).entry k = some { e with state := .done } := by
  rw [State.resultWritten_eq he ho, State.entry_modEntry (f := fun e => { e with state := .done }) fun _ => rfl, if_pos rfl,
    State.confined_updFrame.entry, he]
  rfl

theorem State.resultWritten_frame {k : Nat} {e : Entry} {o : Outcome} (he : s.entry k = some e) (ho : e.outcome = some o) :
    (s.resultWritten k).frame = { s.frame with counts := s.frame.counts.count o.verdict } := by
  rw [State.resultWritten_eq he ho, State.confined_modEntry.frame]
  rfl

theorem State.frameStartWritten_fetch {b : BoardBegin} : (s.frameStartWritten b).fetch = { s.fetch with
    hold := if s.fetch.hold = some .frameStart then none else s.fetch.hold
    retire := (s.frameStartWritten b).fetch.retire, retiredSeq := (s.frameStartWritten b).fetch.retiredSeq } := by
  rw [State.frameStartWritten_eq, State.owesLess_fetch, State.openFrame_eq]

theorem State.frameStartWritten_retired {b : BoardBegin} : Retired s.fetch s.station
    (owedLess .boardBegin (fun q => q == b.seq) s.fetch.retire) (s.frameStartWritten b) := by
  have station : (s.openFrame b).station = s.station := State.station_congr (by rw [State.openFrame_eq])
  have dealt := State.owesLess_retired (s := s.openFrame b) (k := .boardBegin) (which := fun q => q == b.seq)
  rw [station] at dealt
  rw [State.frameStartWritten_eq]
  rw [show (s.openFrame b).fetch = { s.fetch with
    hold := if s.fetch.hold = some .frameStart then none else s.fetch.hold } by rw [State.openFrame_eq]] at dealt
  exact ⟨dealt.rest, dealt.kept, dealt.last⟩

/-- An entry that retires segments leaves every byte of host memory outside the retired-sequence field. -/
theorem State.hostByte_entryLanded {k : EntryKind} {a : Nat} (h : (∃ b, k = .frameStart b) ∨ k = .frameEnd →
    ∀ i < 4, a ≠ (s.station + BitVec.ofNat 64 (0x28 + i)).toNat) : (s.entryLanded k).hostByte a = s.hostByte a := by
  cases k with
  | note => rfl
  | result n => rw [State.hostByte, State.entryLanded, State.confined_resultWritten.hostMem, State.hostByte]
  | frameStart b =>
    have off := h (.inl ⟨b, rfl⟩)
    have station : (s.openFrame b).station = s.station := State.station_congr (by rw [State.openFrame_eq])
    rw [State.entryLanded, State.frameStartWritten_eq, State.hostByte_owesLess_ne (station ▸ off), State.hostByte,
      State.openFrame_eq, State.hostByte]
  | frameEnd =>
    have off := h (.inr rfl)
    have station : s.closeFrame.station = s.station := State.station_congr (by rw [State.confined_closeFrame.regs])
    rw [State.entryLanded, State.hostByte, State.confined_frameEnd.hostMem, ← State.hostByte, State.settleFrame]
    split
    · rw [State.hostByte_owesLess_ne (station ▸ off), State.hostByte, State.confined_closeFrame.hostMem, State.hostByte]
    · rw [State.hostByte, State.confined_closeFrame.hostMem, State.hostByte]

/-- What an entry that has landed leaves of the count and the index of the log. -/
theorem State.entryLanded_log {k : EntryKind} : (s.entryLanded k).log.published = s.log.published ∧
    (s.entryLanded k).log.widx = s.log.widx := by
  cases k with
  | note => exact ⟨rfl, rfl⟩
  | result n => rw [State.entryLanded, State.confined_resultWritten.log]; exact ⟨rfl, rfl⟩
  | frameEnd =>
    rw [State.entryLanded, State.confined_frameEnd.log, State.confined_settleFrame.log]
    exact ⟨rfl, rfl⟩
  | frameStart b =>
    rw [State.entryLanded, State.frameStartWritten_eq, State.confined_owesLess.log, State.openFrame_eq]
    change (s.log.clampNote b).published = _ ∧ (s.log.clampNote b).widx = _
    unfold LogWriter.clampNote
    split
    · exact ⟨rfl, rfl⟩
    split
    · exact ⟨rfl, rfl⟩
    · exact ⟨rfl, rfl⟩

/-- The bytes of the net image. -/
theorem NetTable.image_getElem (t : NetTable) {n : Nat} (h : n < t.image.length) : t.image[n] = netByte (t.get n) := by
  simp [NetTable.image]

theorem netByte_toNat (r : NetRec) : (netByte r).toNat = netCode r.verdict + 4 * min 63 r.fails := by
  have : netCode r.verdict ≤ 2 := by cases r.verdict <;> decide
  rw [netByte, BitVec.toNat_ofNat]
  omega

theorem netByte_fails (r : NetRec) : (netByte r).extractLsb' 2 6 = BitVec.ofNat 6 (min 63 r.fails) := by
  have : netCode r.verdict ≤ 2 := by cases r.verdict <;> decide
  apply BitVec.eq_of_toNat_eq
  rw [BitVec.extractLsb'_toNat, netByte_toNat, Nat.shiftRight_eq_div_pow, BitVec.toNat_ofNat]
  omega

theorem netByte_verdict (r : NetRec) : (netByte r).extractLsb' 0 2 = (match r.verdict with
    | .untested => 0
    | .pass => 1
    | .fail => 2) := by
  apply BitVec.eq_of_toNat_eq
  rw [BitVec.extractLsb'_toNat, netByte_toNat, Nat.shiftRight_zero]
  cases r.verdict <;> simp [netCode]
end

end Sys2Proof.Machine

open Sys2Proof Sys2Proof.Machine in
/-- Settles O49: the bytes land first; what the kind of the entry then does leaves them but for the retired sequence. -/
theorem entriesWritten : Obligations.EntriesWritten := by
  refine ⟨fun s none_ => ?_, fun s idle => if_neg (by simp [idle]), fun s k bytes writing length => ?_, fun s busy small => ?_⟩
  · change execEntryWritten s = _
    unfold execEntryWritten
    split
    · next k b h => exact absurd h (none_ k b)
    · rfl
    · rfl
  · let t := s.writeHost (s.log.base + BitVec.ofNat 64 (32 * s.log.widx)) bytes
    let v := t.entryLanded k
    have rest : Confined landedBlocks t v := State.confined_entryLanded
    obtain ⟨published, widx⟩ := State.entryLanded_log (s := t) (k := k)
    have off (a : Nat) (h : (∃ b, k = .frameStart b) ∨ k = .frameEnd →
        ∀ i < 4, a ≠ (s.station + BitVec.ofNat 64 (0x28 + i)).toNat) : v.hostByte a = t.hostByte a :=
      State.hostByte_entryLanded h
    refine ⟨v.updLog fun l => { l with writing := some ⟨k, bytes, .publish⟩ }, ?_, rest.setup, rest.claims,
      rest.carriages, rest.regs, rfl, published, widx, fun j x hj clear => ?_, fun a outside clear => ?_, ?_⟩
    · change execEntryWritten s = _
      rw [execEntryWritten, writing]
    · obtain ⟨inside, rfl⟩ := List.getElem?_eq_some_iff.1 hj
      refine (off _ fun hk i hi e => clear hk i hi (BitVec.eq_of_toNat_eq e)).trans ?_
      exact State.hostByte_writeHost s _ _ _ inside (by omega)
    · exact (off a clear).trans (State.hostByte_writeHost_ne _ _ _ _ fun j hj => (outside j (length ▸ hj)).symm)
    · intro retires
      cases k with
      | note => rfl
      | result n =>
        refine ⟨State.confined_resultWritten.nets, fun e o he ho => ?_⟩
        exact ⟨State.entry_resultWritten (s := t) he ho, State.resultWritten_frame (s := t) he ho⟩
      | frameStart b =>
        have dealt : Retired t.fetch t.station _ v := State.frameStartWritten_retired
        have opened : Confined [.fetch, .hostMem] (t.openFrame b) v := State.confined_owesLess
        have nets := opened.nets
        have frame := opened.frame
        have mu := opened.mu
        have log := opened.log
        rw [State.openFrame_eq] at nets frame mu log
        refine ⟨fun n => ?_, ?_, ?_, ?_, ?_, ?_, ?_, ?_, ?_, ?_, ?_, fun none_ => ?_, fun some_ room => ?_, fun some_ full => ?_,
          State.frameStartWritten_fetch (s := t), dealt.rest, dealt.kept, dealt.last⟩
        · exact (congrArg (fun x : NetTable => x.get n) nets).trans rfl
        · exact congrArg NetTable.inUse nets
        · exact congrArg FrameRec.state frame
        · exact congrArg FrameRec.counts frame
        · exact congrArg FrameRec.imageWritten frame
        · exact congrArg FrameRec.serial frame
        · exact congrArg FrameRec.planTag frame
        · exact congrArg FrameRec.offsets frame
        · exact congrArg FrameRec.netCount frame
        · exact congrArg FrameRec.imageAddr frame
        · exact congrArg MeasUnit.zAge mu
        · have kept : v.log = _ := log.trans (if_pos none_)
          have notes := congrArg LogWriter.notes kept
          exact ⟨notes, congrArg LogWriter.dropped kept⟩
        · have offered : v.log = _ := log.trans ((if_neg some_).trans (if_pos room))
          exact ⟨congrArg LogWriter.dropped offered, congrArg LogWriter.notes offered⟩
        · have dropped : v.log = _ := log.trans ((if_neg some_).trans (if_neg (Nat.not_lt.2 full)))
          have notes := congrArg LogWriter.notes dropped
          exact ⟨notes, congrArg LogWriter.dropped dropped⟩
      | frameEnd =>
        have ended : Confined [.run, .mu] t.settleFrame v := State.confined_frameEnd
        have frame : v.frame = _ := ended.frame.trans (State.settleFrame_frame.trans State.closeFrame_frame)
        have fetch : v.fetch = _ := ended.fetch.trans State.settleFrame_fetch
        refine ⟨congrArg FrameRec.state frame, ended.nets.trans State.confined_settleFrame.nets,
          congrArg FrameRec.abortDiscards frame, ?_, fun byEnd => ?_, fun other => ?_⟩
        · change v.fetch = { t.fetch with
            hold := v.fetch.hold, retire := v.fetch.retire, retiredSeq := v.fetch.retiredSeq }
          rw [fetch]
        · have dealt := (State.settleFrame_retired (s := t) byEnd).congr (v := v) (by rw [ended.fetch]) (by rw [ended.fetch])
            ended.hostMem
          exact ⟨dealt.rest, dealt.kept, dealt.last⟩
        · obtain ⟨list, seq⟩ := State.settleFrame_kept (s := t) other
          exact ⟨(congrArg Fetcher.retire ended.fetch).trans list, (congrArg Fetcher.retiredSeq ended.fetch).trans seq⟩
  · refine ⟨(s.writeHost s.frame.imageAddr s.nets.image).updFrame fun f =>
      { f with imageWritten := true, imageBusy := false }, if_pos busy, rfl, fun n hn => ?_, fun a outside => ?_⟩
    · have inside : n < s.nets.image.length := by rwa [NetTable.image_length]
      refine ⟨netByte (s.nets.get n), ?_, netByte_fails _, netByte_verdict _⟩
      rw [← NetTable.image_getElem _ inside]
      exact State.hostByte_writeHost s _ _ _ inside (by rw [NetTable.image_length]; omega)
    · exact State.hostByte_writeHost_ne s _ _ _ fun n hn => (outside n (by rwa [NetTable.image_length] at hn)).symm
end

section
/-! PROOFS. Publications: the slot of a RESULT, the refill by the slots then occupied, and RESULTS (R79, R178, R182, R186,
R187). -/

set_option Elab.async false

namespace Sys2Proof.Machine

/-! ## Refill (R178) -/

section
variable {s : State}

/-- A delivery in progress counts for a slot. -/
theorem State.occupied_eq : s.occupied =
    s.disp.window.length + (if ∃ g, s.fetch.reading = some ⟨.record, false, g⟩ then 1 else 0) := by
  have counted : (match s.fetch.reading with
      | some r => if r.kind = .record ∧ ¬ r.voided then 1 else 0
      | none => 0) = if ∃ g, s.fetch.reading = some ⟨.record, false, g⟩ then 1 else 0 := by
    cases s.fetch.reading with
    | none => simp
    | some r =>
      obtain ⟨kind, voided, again⟩ := r
      cases kind <;> cases voided <;> simp
  rw [← counted]
  rfl

theorem State.updateRefill_fetch : s.updateRefill.fetch = { s.fetch with
    refill := if s.occupied < 12 then true else if 16 ≤ s.occupied then false else s.fetch.refill } := rfl
end

/-! ## The slot of a published RESULT -/

section
variable {s : State} {n : Nat} {e : Entry}

theorem State.freeSlotOf_none (h : s.entry n = none) : s.freeSlotOf n = s := by
  rw [State.freeSlotOf.eq_def]
  simp only [h]

/-- A slot is free, and its step's segment owes one thing less. -/
def State.dealStep (n : Nat) (q : Word32) (s : State) : State :=
  (((s.updDisp fun d => { d with window := d.window.filter fun e => e.slot != n }).markScan).owesLess .steps
    fun p => p == q)

theorem State.freeSlotOf_some (h : s.entry n = some e) :
    s.freeSlotOf n = (s.dealStep n e.copy.seq).updateRefill := by
  rw [State.freeSlotOf.eq_def]
  simp only [h]
  rfl

theorem State.dealStep_disp {q : Word32} : (s.dealStep n q).disp =
    { s.disp with window := s.disp.window.filter (fun e => e.slot != n), scan := true } :=
  State.confined_owesLess.disp

theorem State.dealStep_fetch {q : Word32} : (s.dealStep n q).fetch = { s.fetch with
    retire := (s.dealStep n q).fetch.retire, retiredSeq := (s.dealStep n q).fetch.retiredSeq } := State.owesLess_fetch

theorem State.dealStep_retired {q : Word32} : Retired s.fetch s.station (owedLess .steps (fun p => p == q) s.fetch.retire)
    (s.dealStep n q) := by
  let t := (s.updDisp fun d => { d with window := d.window.filter fun e => e.slot != n }).markScan
  have dealt := State.owesLess_retired (s := t) (k := .steps) (which := fun p => p == q)
  exact ⟨dealt.rest, dealt.kept, dealt.last⟩

/-- The Fetcher once a slot is free. -/
theorem State.freeSlotOf_fetch (h : s.entry n = some e) : (s.freeSlotOf n).fetch = { s.fetch with
    retire := (s.freeSlotOf n).fetch.retire, retiredSeq := (s.freeSlotOf n).fetch.retiredSeq
    refill := if (s.dealStep n e.copy.seq).occupied < 12 then true
      else if 16 ≤ (s.dealStep n e.copy.seq).occupied then false else s.fetch.refill } := by
  rw [State.freeSlotOf_some h, State.updateRefill_fetch, State.dealStep_fetch]

theorem State.freeSlotOf_disp (h : s.entry n = some e) : (s.freeSlotOf n).disp =
    { s.disp with window := s.disp.window.filter (fun e => e.slot != n), scan := true } := by
  rw [State.freeSlotOf_some h]
  exact State.dealStep_disp

theorem State.freeSlotOf_retired (h : s.entry n = some e) : Retired s.fetch s.station
    (owedLess .steps (fun p => p == e.copy.seq) s.fetch.retire) (s.freeSlotOf n) := by
  rw [State.freeSlotOf_some h]
  exact State.dealStep_retired.congr rfl rfl rfl

theorem owedLess_beq {k : SegmentKind} {p : Word32} {l : List RetireEntry} : owedLess k (fun q => q == p) l =
    l.map fun q => if q.kind = k ∧ q.seq = p then { q with owes := q.owes - 1 } else q :=
  List.map_congr_left fun q _ => by simp

/-- The published count is not the retired sequence. -/
theorem station_fields_apart (p : Word64) {i j : Nat} (hi : i < 4) (hj : j < 4) :
    (p + 0x24 + BitVec.ofNat 64 j).toNat ≠ (p + BitVec.ofNat 64 (0x28 + i)).toNat := by
  have hp := p.isLt
  have offset : (0x24 : BitVec 64).toNat = 36 := rfl
  simp only [BitVec.toNat_add, BitVec.toNat_ofNat, offset, ne_eq]
  omega

theorem State.hostByte_freeSlotOf {j : Nat} (hj : j < 4) :
    (s.freeSlotOf n).hostByte (s.station + 0x24 + BitVec.ofNat 64 j).toNat =
      s.hostByte (s.station + 0x24 + BitVec.ofNat 64 j).toNat := by
  cases h : s.entry n with
  | none => rw [State.freeSlotOf_none h]
  | some e =>
    rw [State.freeSlotOf_some h]
    exact State.hostByte_owesLess_ne (s := State.markScan _) fun i hi => station_fields_apart _ hi hj
end

/-! ## RESULTS (R187) -/

section
variable {s : State} {k : EntryKind}

/-- RESULTS is raised after the publication of an entry of a kind. -/
def State.resultsDue (s : State) (k : EntryKind) : Prop :=
  k = .frameEnd ∨ s.log.notify ≤ (s.log.published - s.log.notified).toNat ∨
    ((∃ n, k = .result n) ∧ s.fetch.waiting = true ∧ s.disp.window = [])

theorem State.testResults_due (h : s.resultsDue k) : s.testResults k = { s with
    log := { s.log with notified := s.log.published }
    regs := { s.regs with intStatus := s.regs.intStatus ||| (if k = .frameEnd then 3 else 1) } } := by
  have raised (k : EntryKind) (hk : k ≠ .frameEnd) : s.raiseResults = { s with
      log := { s.log with notified := s.log.published }
      regs := { s.regs with intStatus := s.regs.intStatus ||| (if k = .frameEnd then 3 else 1) } } := by
    rw [if_neg hk]
    rfl
  obtain rfl | threshold | ⟨⟨n, rfl⟩, waiting, empty⟩ := h
  · rw [if_pos rfl, State.testResults, State.raiseResults, State.raise, State.raise]
    simp only [State.updRegs, State.updLog, causeBit, BitVec.or_assoc]
    rfl
  · cases k with
    | frameEnd =>
      rw [if_pos rfl, State.testResults, State.raiseResults, State.raise, State.raise]
      simp only [State.updRegs, State.updLog, causeBit, BitVec.or_assoc]
      rfl
    | result n => exact (if_pos (.inl threshold)).trans (raised _ nofun)
    | frameStart b => exact (if_pos threshold).trans (raised _ nofun)
    | note => exact (if_pos threshold).trans (raised _ nofun)
  · exact (if_pos (.inr ⟨waiting, empty⟩)).trans (raised _ nofun)

theorem State.testResults_kept (h : ¬ s.resultsDue k) : s.testResults k = s := by
  simp only [State.resultsDue, not_or, not_and] at h
  obtain ⟨noEnd, below, noLast⟩ := h
  cases k with
  | frameEnd => exact absurd rfl noEnd
  | result n => exact if_neg fun raised => raised.elim below fun ⟨waiting, empty⟩ => noLast ⟨n, rfl⟩ waiting empty
  | frameStart b => exact if_neg below
  | note => exact if_neg below
end

/-! ## Publications -/

section
variable {s : State} {k : EntryKind}

/-- A publication up to RESULTS: the count and the write index advance, and the slot of a RESULT is free. -/
def State.publish (k : EntryKind) (s : State) : State :=
  let t := (s.updLog fun l =>
    { l with published := l.published + 1, widx := (l.widx + 1) % l.capacity, writing := none }).writeStation 0x24
      (s.log.published + 1).toNat
  match k with
  | .result n => t.freeSlotOf n
  | .frameStart _ | .note | .frameEnd => t

theorem State.published_eq : s.published k = (s.publish k).testResults k := rfl

/-- The count and the index of a publication. -/
def State.advance (s : State) : State :=
  (s.updLog fun l =>
    { l with published := l.published + 1, widx := (l.widx + 1) % l.capacity, writing := none }).writeStation 0x24
      (s.log.published + 1).toNat

theorem State.publish_result (n : Nat) : s.publish (.result n) = s.advance.freeSlotOf n := rfl

theorem State.publish_other (h : ∀ n, k ≠ .result n) : s.publish k = s.advance := by
  cases k with
  | result n => exact absurd rfl (h n)
  | _ => rfl

theorem State.confined_publish : Confined [.disp, .fetch, .hostMem] s.advance (s.publish k) := by
  cases k with
  | result n => exact State.confined_freeSlotOf
  | frameStart b => exact .refl _ _
  | note => exact .refl _ _
  | frameEnd => exact .refl _ _

theorem State.publish_waiting : (s.publish k).fetch.waiting = s.fetch.waiting := by
  cases k with
  | result n =>
    rw [State.publish_result]
    cases h : s.advance.entry n with
    | none => rw [State.freeSlotOf_none h]; rfl
    | some e =>
      rw [State.freeSlotOf_fetch h]
      rfl
  | _ => rfl

theorem State.hostByte_publish {j : Nat} (hj : j < 4) :
    (s.publish k).hostByte (s.station + 0x24 + BitVec.ofNat 64 j).toNat =
      some ((s.log.published + 1).extractLsb' (8 * j) 8) := by
  have written : s.advance.hostByte (s.station + 0x24 + BitVec.ofNat 64 j).toNat =
      some ((s.log.published + 1).extractLsb' (8 * j) 8) := State.hostByte_writeStation (s := s.updLog _) hj
  cases k with
  | result n => exact (State.hostByte_freeSlotOf (s := s.advance) hj).trans written
  | _ => exact written

theorem State.publish_log : (s.publish k).log = { s.log with
    published := s.log.published + 1, widx := (s.log.widx + 1) % s.log.capacity, writing := none } :=
  State.confined_publish.log

/-- The log after the whole of a publication, but for the notified count. -/
theorem State.published_log : (s.published k).log = { (s.publish k).log with notified := (s.published k).log.notified } := by
  rw [State.published_eq]
  by_cases due : (s.publish k).resultsDue k
  · rw [State.testResults_due due]
  · rw [State.testResults_kept due]
end

end Sys2Proof.Machine

open Sys2Proof Sys2Proof.Machine in
/-- Settles O50: a publication up to RESULTS, and then the test of RESULTS on the state it has reached. -/
theorem publicationCompletes : Obligations.PublicationCompletes := by
  intro s k bytes writing
  have tested : Confined [.regs, .log] (s.publish k) (s.published k) := State.confined_testResults
  have first : Confined [.log, .hostMem] s s.advance := (State.confined_updLog.mono).andThen State.confined_writeStation
  have all : Confined [.log, .hostMem, .disp, .fetch, .regs] s (s.published k) :=
    (first.mono.andThen (State.confined_publish (k := k))).andThen tested
  have entry (n : Nat) : s.advance.entry n = s.entry n := first.entry n
  have log := State.published_log (s := s) (k := k)
  rw [State.publish_log] at log
  have count := congrArg LogWriter.published log
  have index := congrArg LogWriter.widx log
  have noWrite := congrArg LogWriter.writing log
  have drained := congrArg LogWriter.drained log
  refine ⟨s.published k, ?_, all.setup, all.claims, all.carriages, all.nets, all.frame, all.mu,
    count, index, noWrite, drained, fun j hj => ?_, fun other => ?_, fun n hk gone => ?_, fun n e hk he => ?_, ?_⟩
  · change execPublication s = _
    rw [execPublication, writing]
  · rw [State.hostByte, tested.hostMem]
    exact State.hostByte_publish hj
  · rw [tested.disp, tested.fetch, State.publish_other other]
    exact ⟨rfl, rfl⟩
  · subst hk
    rw [tested.disp, tested.fetch, State.publish_result, State.freeSlotOf_none ((entry n).trans gone)]
    exact ⟨rfl, rfl⟩
  · subst hk
    have there : s.advance.entry n = some e := (entry n).trans he
    have disp : (s.published (.result n)).disp = _ := tested.disp.trans (State.freeSlotOf_disp there)
    have fetch : (s.published (.result n)).fetch = _ := tested.fetch.trans (State.freeSlotOf_fetch there)
    have dealt := (State.freeSlotOf_retired there).congr (congrArg Fetcher.retire tested.fetch)
      (congrArg Fetcher.retiredSeq tested.fetch) tested.hostMem
    have window : (s.published (.result n)).disp.window = s.disp.window.filter fun f => f.slot ≠ n :=
      (congrArg Dispatcher.window disp).trans (List.filter_congr fun f _ => by simp [bne, BEq.beq])
    have counted : (s.advance.dealStep n e.copy.seq).occupied = (s.published (.result n)).disp.window.length +
        (if ∃ g, s.fetch.reading = some ⟨.record, false, g⟩ then 1 else 0) := by
      rw [State.occupied_eq, State.dealStep_fetch, State.dealStep_disp, disp]
      rfl
    refine ⟨?_, congrArg Dispatcher.scan disp, window, ?_, ?_⟩
    · rw [State.entry_none_iff, window]
      exact fun f hf => by simpa using (List.mem_filter.1 hf).2
    · dsimp only
      rw [← counted]
      rw [fetch]
      rfl
    · rw [show s.advance.fetch = s.fetch from first.fetch, owedLess_beq] at dealt
      exact ⟨dealt.rest, dealt.kept, dealt.last⟩
  · have raised : (s.publish k).resultsDue k ↔ (k = .frameEnd ∨
        s.log.notify ≤ (s.log.published + 1 - s.log.notified).toNat ∨
        ((∃ n, k = .result n) ∧ s.fetch.waiting = true ∧ (s.published k).disp.window = [])) := by
      rw [State.resultsDue, State.publish_log, State.publish_waiting, tested.disp]
    rw [← raised]
    refine ⟨fun due => ?_, fun calm => ?_⟩
    · rw [State.published_eq, State.testResults_due due, State.publish_log, State.confined_publish.regs]
      exact ⟨rfl, rfl⟩
    · rw [State.published_eq, State.testResults_kept calm, State.publish_log, State.confined_publish.regs]
      exact ⟨rfl, rfl⟩
end

section
/-! PROOFS. Segment headers: the completions of the Fetcher's reads, the checks of a header, the chain break, and what an
accepted header leads to (R161 to R167, R177, R181). -/

set_option Elab.async false

namespace Sys2Proof.Machine

/-! ## The Fetcher's read in progress -/

section
variable {f : Fetcher} {k : ReadKind}

theorem Fetcher.awaiting_some {v g : Bool} (h : f.reading = some ⟨k, v, g⟩) : f.awaiting k = some v := by
  rw [Fetcher.awaiting, h]
  exact if_pos rfl

theorem Fetcher.awaiting_none (h : ∀ v g, f.reading ≠ some ⟨k, v, g⟩) : f.awaiting k = none := by
  cases reading : f.reading with
  | none => rw [Fetcher.awaiting, reading]
  | some r =>
    rw [Fetcher.awaiting, reading]
    exact if_neg fun same => h r.voided r.again (by rw [reading, ← same])
end

/-! ## The body of a BOARD_BEGIN (R161) -/

theorem clampMark_eq (v : Int) (m : Nat) : clampMark v m = if v < -5000 ∨ 5000 < v then m else 0 := by
  rw [clampMark, clampInt_eq (by decide)]
  by_cases low : v < -5000
  · rw [if_pos low, if_neg (by omega), if_pos (.inl low)]
  · by_cases high : 5000 < v
    · rw [if_neg low, if_pos high, if_neg (by omega), if_pos (.inr high)]
    · rw [if_neg low, if_neg high, if_pos rfl, if_neg (not_or.2 ⟨low, high⟩)]

/-! ## The chain break (R181) -/

section
variable {s : State} {n : Nat} {q : Word32}

/-- A chain break up to the change of the controller state. -/
def State.noteBreak (n : Nat) (q : Word32) (s : State) : State :=
  (((s.updFetch fun f => { (f.toPhase .header) with broken := true, reading := none }).offerNote
    ⟨.chainBreak, none, n, 0, q, 0⟩).raise .fault).updRun fun r => { r with chainBreak := true }

theorem State.breakChain_eq : s.breakChain n q = if s.run.state = .running then
    ((s.noteBreak n q).setRun .draining).updRun fun r => { r with runPark := .both .due } else s.noteBreak n q := rfl

theorem State.breakChain_fetch : (s.breakChain n q).fetch =
    { (s.noteBreak n q).fetch with waiting := (s.breakChain n q).fetch.waiting } := by
  rw [State.breakChain_eq]
  split
  · rw [State.updRun_fetch, State.setRun_fetch]
  · rfl

theorem State.breakChain_run : (s.breakChain n q).run.chainBreak = true ∧
    (s.breakChain n q).run.state = if s.run.state = .running then .draining else s.run.state := by
  rw [State.breakChain_eq]
  split
  · simp only [State.updRun_run, State.setRun_run]
    exact ⟨rfl, trivial⟩
  · exact ⟨rfl, rfl⟩

theorem State.confined_breakRun : Confined [.run, .fetch, .hostMem] (s.noteBreak n q) (s.breakChain n q) :=
  .ite (fun _ => State.confined_setRun.andThen State.confined_updRun) fun _ => .refl _ _
end

/-! ## The checks of a header (R177, R181) -/

section
variable {s : State} {b : List Byte}

/-- The number of the first check that a header fails, or 0. -/
def State.headerCode (b : List Byte) (s : State) : Nat :=
  if s.fetch.expected ≠ none ∧ s.fetch.expected ≠ some (headerSeq b) then 1
  else if segmentKindOf (byteAt b 4) = none then 2
  else if segmentKindOf (byteAt b 4) = some .steps ∧ s.frame.state ≠ .opened then 3 else 0

/-- A header that fails a check breaks the chain with its code, and one that fails none is accepted. -/
theorem State.takeHeader_eq : (s.headerCode b ≠ 0 → s.takeHeader b = s.breakChain (s.headerCode b) (headerSeq b)) ∧
    (s.headerCode b = 0 → ∃ k, segmentKindOf (byteAt b 4) = some k ∧ s.takeHeader b = s.acceptHeader k b) := by
  rw [State.headerCode, State.takeHeader]
  simp only [Option.isSome_iff_ne_none]
  by_cases wrong : s.fetch.expected ≠ none ∧ s.fetch.expected ≠ some (headerSeq b)
  · simp [if_pos wrong]
  · simp only [if_neg wrong]
    cases segmentKindOf (byteAt b 4) with
    | none => simp
    | some k =>
      by_cases noFrame : k = .steps ∧ s.frame.state ≠ .opened
      · simp [noFrame.1, noFrame.2]
      · simp only [if_neg noFrame, Option.some.injEq]
        simp
end

/-! ## Headers accepted (R177) -/

section
variable {s : State} {k : SegmentKind} {b : List Byte}

/-- The number of records of a segment. -/
def recordsOf (k : SegmentKind) (b : List Byte) : Nat := if k = .steps then headerCount b else 0

theorem listedPhase_eq (k : SegmentKind) (b : List Byte) :
    (if recordsOf k b = 0 then FetchPhase.link else .records 0) =
      if k = .steps ∧ byteAt b 5 ≠ 0 then .records 0 else .link := by
  by_cases steps : k = .steps
  · by_cases empty : byteAt b 5 = 0 <;> simp [recordsOf, headerCount, steps, empty]
  · simp [recordsOf, steps]

/-- What a segment owes when it joins the retire list (R182). -/
def State.segmentOwes (k : SegmentKind) (b : List Byte) (s : State) : Nat :=
  match k with
  | .steps => headerCount b
  | .boardBegin => 1
  | .boardEnd => if s.frame.state = .opened then 1 else 0

/-- An accepted header up to the body of its segment. -/
def State.listSegment (k : SegmentKind) (b : List Byte) (s : State) : State :=
  (s.updFetch fun f =>
    { f with
      reading := none
      expected := some (headerSeq b + 1)
      retire := f.retire ++ [⟨headerSeq b, k, false, s.segmentOwes k b⟩]
      hold := none
      pos := f.pos.map fun p => { p with
        seq := headerSeq b, kind := k, count := recordsOf k b
        phase := if recordsOf k b = 0 then .link else .records 0 } }).writeStation 0x2C (headerSeq b).toNat

theorem State.acceptHeader_begin : s.acceptHeader .boardBegin b =
    ((s.listSegment .boardBegin b).updFetch fun f => { f with hold := some .frameStart }).takeBegin
      (parseBoardBegin b) := rfl

theorem State.acceptHeader_end : s.acceptHeader .boardEnd b = (s.listSegment .boardEnd b).takeEnd (headerPark b) := rfl

theorem State.takeEnd_fetch {p : Bool} : (s.takeEnd p).fetch = { s.fetch with hold := (s.takeEnd p).fetch.hold } := by
  rw [State.takeEnd.eq_def]
  split
  · rfl
  all_goals split <;> rfl

/-- The Fetcher after an accepted header, but for what it holds for. -/
theorem State.acceptHeader_fetch : (s.acceptHeader k b).fetch =
    { (s.listSegment k b).fetch with hold := (s.acceptHeader k b).fetch.hold } := by
  cases k with
  | steps => rfl
  | boardBegin =>
    rw [State.acceptHeader_begin, State.confined_takeBegin.fetch]
    rfl
  | boardEnd =>
    rw [State.acceptHeader_end]
    exact State.takeEnd_fetch

theorem State.acceptHeader_hostMem : (s.acceptHeader k b).hostMem = (s.listSegment k b).hostMem := by
  cases k with
  | steps => rfl
  | boardBegin => exact State.confined_takeBegin.hostMem
  | boardEnd => exact State.confined_takeEnd.hostMem

theorem State.hostByte_listSegment {j : Nat} (hj : j < 4) :
    (s.listSegment k b).hostByte (s.station + 0x2C + BitVec.ofNat 64 j).toNat =
      some ((headerSeq b).extractLsb' (8 * j) 8) :=
  State.hostByte_writeStation (s := s.updFetch _) hj

/-! ### Board segments -/

theorem State.orderPendingCal_mu : s.orderPendingCal.mu.calOrder = (s.mu.calOrder || s.run.pendingCal) ∧
    s.orderPendingCal.run.pendingCal = false := by
  rw [State.orderPendingCal]
  cases h : s.run.pendingCal with
  | true => simp
  | false => simp [h]

theorem State.takeBegin_frame {n : BoardBegin} : (s.takeBegin n).frame = if s.frame.state = .opened then
    { s.frame with state := .closing, reason := some .nextBegin, parkOnClose := false } else s.frame := by
  rw [State.takeBegin.eq_def]
  dsimp only [State.updLog_frame]
  cases h : s.frame.state with
  | opened => simp
  | none => exact State.confined_orderPendingCal.frame
  | closing => exact State.confined_orderPendingCal.frame

theorem State.takeBegin_log {n : BoardBegin} : (s.takeBegin n).log = { s.log with due := some n } := by
  rw [State.takeBegin.eq_def]
  dsimp only [State.updLog_frame]
  split
  · rfl
  all_goals exact State.confined_orderPendingCal.log

theorem State.takeBegin_noFrame {n : BoardBegin} (h : s.frame.state = .none) :
    (s.takeBegin n).mu.calOrder = (s.mu.calOrder || s.run.pendingCal) ∧ (s.takeBegin n).run.pendingCal = false := by
  rw [State.takeBegin.eq_def]
  simp only [State.updLog_frame, h]
  exact State.orderPendingCal_mu

theorem State.takeEnd_opened {p : Bool} (h : s.frame.state = .opened) : s.takeEnd p =
    (s.updFrame fun f => { f with state := .closing, reason := some .boardEnd, parkOnClose := p }).updFetch fun f =>
      { f with hold := some .frameEnd } := by
  rw [State.takeEnd.eq_def]
  simp only [h]

theorem State.takeEnd_other {p : Bool} (h : s.frame.state ≠ .opened) : s.takeEnd p =
    if p && s.parksNow then s.orderFramePark.updFetch fun f => { f with hold := some .park }
    else s.updFetch fun f => { f with hold := none } := by
  rw [State.takeEnd.eq_def]
  cases state : s.frame.state with
  | opened => exact absurd state h
  | none => rfl
  | closing => rfl

theorem State.parksNow_iff : s.parksNow = true ↔ s.run.state ∈ [.running, .draining] := by
  simp [State.parksNow]
end

end Sys2Proof.Machine

open Sys2Proof Sys2Proof.Machine in
/-- Settles O44: the body's fields one by one, the reads with no effect, and for a header in hand the chain break of the
first failed check, or the acceptance by kind. -/
theorem headerChecked : Obligations.HeaderChecked := by
  refine ⟨fun b => ?_, fun s b => ⟨fun g void => ?_, fun idle => ?_⟩, fun s b p g reading pos => ?_⟩
  · have nets := clampNat_eq (lo := 1) (hi := 4096) (by decide) (fieldAt b 0x1C 2)
    have near (v : Int) := clampInt_eq (lo := -5000) (hi := 5000) (by decide) v
    refine ⟨rfl, rfl, nets.trans ?_, ?_, ?_, rfl, rfl, ?_⟩
    · simp only [Nat.lt_one_iff]
    · exact congrArg₂ Pos.mk (near _) (near _)
    · exact congrArg₂ Pos.mk (near _) (near _)
    · simp only [← clampMark_eq]
      rfl
  · change execHeaderRead b s = _
    rw [execHeaderRead, Fetcher.awaiting_some void]
    rfl
  · change execHeaderRead b s = _
    rw [execHeaderRead, Fetcher.awaiting_none idle]
  · have checked := State.takeHeader_eq (s := s) (b := b)
    have rest : Confined headerBlocks s (s.takeHeader b) := State.confined_takeHeader
    have answer : exec (.headerRead b) s = .next (s.takeHeader b).finish := by
      change execHeaderRead b s = _
      rw [execHeaderRead, Fetcher.awaiting_some reading]
    intro seq kind code
    change (s.headerCode b ≠ 0 → _) ∧ (s.headerCode b = 0 → _) at checked
    refine ⟨s.takeHeader b, answer, rest.setup, rest.claims, rest.carriages, rest.disp, rest.nets, ?_, fun bad => ?_,
      fun good => ?_⟩
    · by_cases good : s.headerCode b = 0
      · obtain ⟨k, -, taken⟩ := checked.2 good
        rw [taken, State.acceptHeader_fetch]
        rfl
      · rw [checked.1 good, State.breakChain_fetch]
        rfl
    · change s.headerCode b ≠ 0 at bad
      have ended := State.confined_breakRun (s := s) (n := s.headerCode b) (q := headerSeq b)
      obtain ⟨mark, state⟩ := State.breakChain_run (s := s) (n := s.headerCode b) (q := headerSeq b)
      rw [checked.1 bad, State.breakChain_fetch]
      refine ⟨rfl, ?_, rfl, rfl, mark, congrArg Regs.intStatus ended.regs, state, fun room => ?_⟩
      · exact congrArg (Option.map _) pos
      · rw [ended.log]
        have offered := State.offerNote_room (s := s.updFetch fun f => { (f.toPhase .header) with broken := true, reading := none })
          (n := ⟨.chainBreak, none, s.headerCode b, 0, headerSeq b, 0⟩) room
        exact congrArg (fun t : State => t.log.notes) offered
    · obtain ⟨k, listed, taken⟩ := checked.2 good
      rw [taken]
      refine ⟨k, listed, ?_, ?_, ?_, fun j hj => ?_, ?_⟩
      · rw [State.acceptHeader_fetch]
        rfl
      · rw [State.acceptHeader_fetch]
        refine (congrArg (Option.map _) pos).trans ?_
        simp only [listedPhase_eq]
        rfl
      · rw [State.acceptHeader_fetch]
        cases k <;> rfl
      · rw [State.hostByte, State.acceptHeader_hostMem]
        exact State.hostByte_listSegment hj
      · cases k with
        | steps => exact ⟨rfl, rfl, rfl⟩
        | boardBegin =>
          rw [State.acceptHeader_begin]
          refine ⟨State.takeBegin_log, ?_, State.takeBegin_frame, fun noFrame => ?_⟩
          · rw [State.confined_takeBegin.fetch]
            rfl
          · exact State.takeBegin_noFrame noFrame
        | boardEnd =>
          rw [State.acceptHeader_end]
          refine ⟨State.confined_takeEnd.log, ?_, fun opened => ?_, fun other => ?_⟩
          · by_cases opened : s.frame.state = .opened
            · rw [State.takeEnd_opened (s := s.listSegment .boardEnd b) opened, if_pos opened]
              rfl
            · rw [State.takeEnd_other (s := s.listSegment .boardEnd b) opened, if_neg opened]
              split <;> rfl
          · rw [State.takeEnd_opened (s := s.listSegment .boardEnd b) opened]
            exact ⟨rfl, rfl⟩
          · intro parks
            rw [State.takeEnd_other (s := s.listSegment .boardEnd b) other]
            have parks_iff : parks ↔ (headerPark b && (s.listSegment .boardEnd b).parksNow) = true := by
              rw [Bool.and_eq_true, State.parksNow_iff]
              rfl
            rw [parks_iff]
            refine ⟨fun park => ?_, fun stay => ?_⟩
            · rw [if_pos park]
              exact ⟨rfl, rfl⟩
            · rw [if_neg stay]
              exact ⟨rfl, rfl⟩
end

section
/-! PROOFS. Links: the reads that the position calls for, a link other than 0, and CHAIN_WAIT (R176, R178 to R180, R182,
R184). -/

set_option Elab.async false

namespace Sys2Proof.Machine

/-! ## The reads that the position calls for (R176 to R180) -/

section
variable {s : State}

theorem State.leaveHold_eq {p : FetchPos} (h : s.fetch.pos = some p) :
    s.leaveHold = if p.phase = .hold ∧ s.fetch.hold = none then s.updFetch Fetcher.goNext else s := by
  rw [State.leaveHold.eq_def]
  simp only [h]

theorem State.leaveHold_none (h : s.fetch.pos = none) : s.leaveHold = s := by
  rw [State.leaveHold.eq_def]
  simp only [h]

theorem Fetcher.goNext_some {f : Fetcher} {a : Word64} (h : f.next = some a) :
    f.goNext = { f with pos := some ⟨a, 0, .steps, 0, .header⟩, next := none } := by
  rw [Fetcher.goNext.eq_def]
  simp only [h]

theorem Fetcher.goNext_none {f : Fetcher} (h : f.next = none) : f.goNext = f := by
  rw [Fetcher.goNext.eq_def]
  simp only [h]

theorem Fetcher.toPhase_eq {f : Fetcher} {p : FetchPos} (h : f.pos = some p) (q : FetchPhase) :
    f.toPhase q = { f with pos := some { p with phase := q } } := by
  rw [Fetcher.toPhase, h]
  rfl

/-- A hold that stays, or one with no link in hand, leaves the Fetcher where it is. -/
theorem State.leaveHold_same (h : ∀ p, s.fetch.pos = some p → p.phase = .hold → s.fetch.hold ≠ none ∨ s.fetch.next = none) :
    s.leaveHold = s := by
  cases pos : s.fetch.pos with
  | none => exact State.leaveHold_none pos
  | some p =>
    rw [State.leaveHold_eq pos]
    by_cases ends : p.phase = .hold ∧ s.fetch.hold = none
    · have noLink : s.fetch.next = none := (h p pos ends.1).resolve_left fun holds => holds ends.2
      rw [if_pos ends, State.updFetch, Fetcher.goNext_none noLink]
    · rw [if_neg ends]

theorem State.leaveHold_goes {p : FetchPos} {a : Word64} (pos : s.fetch.pos = some p) (phase : p.phase = .hold)
    (free : s.fetch.hold = none) (next : s.fetch.next = some a) :
    s.leaveHold = s.updFetch fun f => { f with pos := some ⟨a, 0, .steps, 0, .header⟩, next := none } := by
  rw [State.leaveHold_eq pos, if_pos ⟨phase, free⟩, State.updFetch, Fetcher.goNext_some next]
  rfl

theorem State.leaveHold_running : s.leaveHold.run = s.run ∧ s.leaveHold.fetch.reading = s.fetch.reading ∧
    s.leaveHold.fetch.broken = s.fetch.broken := by
  cases pos : s.fetch.pos with
  | none => rw [State.leaveHold_none pos]; exact ⟨rfl, rfl, rfl⟩
  | some p =>
    rw [State.leaveHold_eq pos]
    split
    · cases next : s.fetch.next with
      | none => rw [State.updFetch, Fetcher.goNext_none next]; exact ⟨rfl, rfl, rfl⟩
      | some a => rw [State.updFetch, Fetcher.goNext_some next]; exact ⟨rfl, rfl, rfl⟩
    · exact ⟨rfl, rfl, rfl⟩

theorem State.fetchKick_eq : s.fetchKick = if s.run.state = .running ∧ s.fetch.reading = none ∧ s.fetch.broken = false then
    s.leaveHold.startReads else s.leaveHold := by
  obtain ⟨run, reading, broken⟩ := State.leaveHold_running (s := s)
  rw [State.fetchKick]
  simp only [run, reading, broken, Bool.not_eq_true]

section
variable {p : FetchPos} (pos : s.fetch.pos = some p)
include pos

theorem State.startReads_header (h : p.phase = .header ∨ p.phase = .waitList) : s.startReads =
    if s.fetch.retire.length < 32 then (s.updFetch fun f => f.toPhase .header).startFetch .header
    else s.updFetch fun f => f.toPhase .waitList := by
  rw [State.startReads.eq_def]
  obtain h | h := h <;> simp only [pos, h] <;> rfl

theorem State.startReads_record {i : Nat} (h : p.phase = .records i) :
    s.startReads = if s.fetch.refill then (s.startFetch .record).updateRefill else s := by
  rw [State.startReads.eq_def]
  simp only [pos, h]

theorem State.startReads_link (h : p.phase = .link) :
    s.startReads = if s.fetch.waiting then s else s.startFetch .link := by
  rw [State.startReads.eq_def]
  simp only [pos, h]

theorem State.startReads_hold (h : p.phase = .hold) : s.startReads = s := by
  rw [State.startReads.eq_def]
  simp only [pos, h]
end

theorem State.startReads_none (h : s.fetch.pos = none) : s.startReads = s := by
  rw [State.startReads.eq_def]
  simp only [h]

/-- While a delivery is in progress, refill goes on as long as a slot is left for it and one more. -/
theorem State.refill_of_delivery {s : State} (reading : s.fetch.reading = some ⟨.record, false, false⟩)
    (active : s.fetch.refill = true) :
    s.updateRefill.fetch = { s.fetch with refill := decide (s.disp.window.length + 1 < 16) } := by
  have one : ∃ g, s.fetch.reading = some ⟨.record, false, g⟩ := ⟨false, reading⟩
  have refill : (if s.disp.window.length + 1 < 12 then true else if 16 ≤ s.disp.window.length + 1 then false else true) =
      decide (s.disp.window.length + 1 < 16) := by
    by_cases full : s.disp.window.length + 1 < 16
    · rw [if_neg (Nat.not_le.2 full), ite_self, decide_eq_true full]
    · rw [if_neg (by omega), if_pos (Nat.not_lt.1 full), decide_eq_false full]
  rw [State.updateRefill_fetch, State.occupied_eq, if_pos one, active, refill]
end

/-! ## Links (R180, R182) -/

section
variable {s : State} {p : FetchPos} {a : Word64}

/-- The retire list with a segment left. -/
def leftBehind (q : Word32) (l : List RetireEntry) : List RetireEntry :=
  l.map fun e => if e.seq = q then { e with left := true } else e

theorem mem_leftBehind {q : Word32} {l : List RetireEntry} {e : RetireEntry} (h : e ∈ leftBehind q l) (hq : e.seq = q) :
    e.left = true := by
  obtain ⟨f, -, rfl⟩ := List.mem_map.1 h
  by_cases same : f.seq = q
  · rw [if_pos same]
  · rw [if_neg same] at hq
    exact absurd hq same

/-- A link in hand, before the segments that owe nothing are passed over. -/
def State.leaveSegment (a : Word64) (p : FetchPos) (s : State) : State :=
  s.updFetch fun f =>
    let f := { f with next := some a, waiting := false, reread := false, reading := none, retire := leftBehind p.seq f.retire }
    if f.hold.isSome then f.toPhase .hold else f.goNext

theorem State.takeLink_eq (pos : s.fetch.pos = some p) : s.takeLink a = (s.leaveSegment a p).retire := by
  rw [State.takeLink]
  simp only [pos, Option.some.injEq]
  rfl

theorem State.leaveSegment_fetch (pos : s.fetch.pos = some p) : (s.leaveSegment a p).fetch = { s.fetch with
    waiting := false, reread := false, reading := none, retire := leftBehind p.seq s.fetch.retire
    next := if s.fetch.hold = none then none else some a
    pos := some (if s.fetch.hold = none then ⟨a, 0, .steps, 0, .header⟩ else { p with phase := .hold }) } := by
  let f : Fetcher := { s.fetch with
    next := some a, waiting := false, reread := false, reading := none, retire := leftBehind p.seq s.fetch.retire }
  have left : (s.leaveSegment a p).fetch = if f.hold.isSome then f.toPhase .hold else f.goNext := rfl
  rw [left]
  by_cases free : s.fetch.hold = none
  · rw [if_pos free, if_pos free, if_neg (by rw [show f.hold = none from free]; nofun)]
    exact Fetcher.goNext_some (f := f) rfl
  · rw [if_neg free, if_neg free, if_pos (Option.isSome_iff_ne_none.2 free)]
    exact Fetcher.toPhase_eq (f := f) pos _

theorem State.retire_hostMem (h : s.fetch.retire.takeWhile RetireEntry.settled = []) : s.retire.hostMem = s.hostMem := by
  rw [State.retire_none (List.getLast?_eq_none_iff.2 h)]

/-- The Fetcher after a link of 0. -/
theorem State.linkZero_fetch : s.linkZero.fetch = { s.fetch with
    waiting := s.fetch.waiting || (s.run.state == .running) || !s.fetch.rereads (s.run.state == .running), reread := false
    reading := if s.fetch.reread && (s.run.state == .running) then some ⟨.link, false, true⟩ else none
    pollOn := decide (s.fetch.pollMs ≠ 0) } := by
  rw [State.linkZero]
  by_cases again : s.fetch.rereads (s.run.state == .running) = true
  · simp only [if_pos again]
    rfl
  · simp only [if_neg again]
    by_cases told : s.log.published = s.log.notified
    · exact congrArg (fun t : State => t.startPoll.fetch) (if_pos told)
    · exact congrArg (fun t : State => t.startPoll.fetch) (if_neg told)

theorem State.linkZero_again (h : s.fetch.rereads (s.run.state == .running) = true) :
    s.linkZero.regs = s.regs ∧ s.linkZero.log = s.log := by
  rw [State.linkZero]
  simp only [h, if_true]
  exact ⟨rfl, rfl⟩

theorem State.linkZero_first (h : s.fetch.rereads (s.run.state == .running) = false) :
    s.linkZero.regs = { s.regs with
      intStatus := s.regs.intStatus ||| 4 ||| (if s.log.published = s.log.notified then 0 else 1) } ∧
    s.linkZero.log = { s.log with notified := s.log.published } := by
  rw [State.linkZero]
  simp only [h]
  by_cases told : s.log.published = s.log.notified
  · have same : s.log = { s.log with notified := s.log.published } := by rw [told]
    simpa [told, State.startPoll, State.raise, causeBit] using same
  · simp [told, State.startPoll, State.raiseResults, State.raise, causeBit]

theorem Fetcher.rereads_eq {f : Fetcher} {k : ReadKind} {v g running : Bool} (h : f.reading = some ⟨k, v, g⟩) :
    f.rereads running = (f.waiting || (g && !running)) := by
  rw [Fetcher.rereads, h, Bool.and_comm]
end

end Sys2Proof.Machine

open Sys2Proof Sys2Proof.Machine in
/-- Settles O47: the Fetcher's going on by its position, and the two kinds of link. -/
theorem linkTaken : Obligations.LinkTaken := by
  refine ⟨fun s => ?_, fun s => State.startReads_none, fun s p pos => ⟨fun phase => ?_, fun i phase => ?_, fun phase => ?_,
    State.startReads_hold pos⟩, fun s link => ⟨fun g void => ?_, fun idle => ?_⟩, fun s link p g reading pos => ?_⟩
  · intro v
    refine ⟨State.leaveHold_same, fun p a => State.leaveHold_goes, fun running idle sound => ?_, fun stays => ?_,
      fun waits => if_pos waits, fun idle ready => ?_, ?_⟩
    · rw [State.fetchKick_eq, if_pos ⟨running, idle, sound⟩]
    · rw [State.fetchKick_eq, if_neg]
      rintro ⟨running, idle, sound⟩
      rw [sound] at stays
      exact stays.elim (fun h => h running) fun h => h.elim (fun h => h idle) fun h => nomatch h
    · rw [State.tidyPoll, if_neg]
      · rfl
      · rw [idle, ready]
        exact fun h => h.elim nofun nofun
    · intro n
      rw [State.updateRefill, State.occupied_eq]
      rfl
  · rw [State.startReads_header pos phase]
    refine ⟨fun few => ?_, fun many => ?_⟩
    · rw [if_pos few, State.startFetch, State.updFetch, State.updFetch, Fetcher.toPhase_eq pos]
    · rw [if_neg (Nat.not_lt.2 many), State.updFetch, Fetcher.toPhase_eq pos]
  · rw [State.startReads_record pos phase]
    refine ⟨fun active => ?_, fun calm => by rw [calm]; rfl⟩
    have refilled := State.refill_of_delivery (s := s.startFetch .record) rfl active
    rw [if_pos active]
    calc (s.startFetch .record).updateRefill
        = { s with fetch := (s.startFetch .record).updateRefill.fetch } := rfl
      _ = _ := by rw [refilled]; rfl
  · rw [State.startReads_link pos phase]
    exact ⟨fun go => by rw [go]; rfl, fun wait => by rw [wait]; rfl⟩
  · change execLinkRead link s = _
    rw [execLinkRead, Fetcher.awaiting_some void]
    rfl
  · change execLinkRead link s = _
    rw [execLinkRead, Fetcher.awaiting_none idle]
  · intro a
    have answer : exec (.linkRead link) s = .next (if a ≠ 0 then s.takeLink a else s.linkZero).finish := by
      change execLinkRead link s = _
      rw [execLinkRead, Fetcher.awaiting_some reading]
    by_cases first : a = 0
    · rw [if_neg (not_not.2 first)] at answer
      have rest : Confined [.fetch, .regs, .log, .hostMem] s s.linkZero := State.confined_linkZero.mono
      have again := Fetcher.rereads_eq (running := s.run.state == .running) reading
      refine ⟨s.linkZero, answer, rest.eq_mix, ?_, fun other => absurd first other, fun _ => ?_⟩
      · rw [State.linkZero_fetch]
      · intro running again'
        change s.fetch.rereads running = again' at again
        refine ⟨?_, State.confined_linkZero.hostMem, fun h => State.linkZero_again (again.trans h),
          fun h => State.linkZero_first (again.trans h)⟩
        rw [State.linkZero_fetch, again]
    · rw [if_pos first, State.takeLink_eq pos] at answer
      have left := State.leaveSegment_fetch (a := a) pos
      have rest : Confined [.fetch, .regs, .log, .hostMem] s (s.leaveSegment a p).retire :=
        (State.confined_updFetch.mono).andThen State.confined_retire
      have dealt := (s.leaveSegment a p).retired
      have retired := State.retire_fetch (s := s.leaveSegment a p)
      rw [left] at dealt retired
      refine ⟨(s.leaveSegment a p).retire, answer, rest.eq_mix, ?_, fun _ => ⟨?_, ?_, ?_, ?_, fun free => ?_, fun held => ?_,
        fun e he => ?_, dealt.rest, fun none_ => ⟨dealt.kept none_, ?_⟩, dealt.last⟩, fun zero => absurd zero first⟩
      · rw [retired]
      · rw [retired]
      · rw [retired]
      · exact State.confined_retire.regs
      · exact State.confined_retire.log
      · rw [retired]
        exact ⟨congrArg some (if_pos free), if_pos free⟩
      · rw [retired]
        exact ⟨congrArg some (if_neg held), if_neg held⟩
      · rw [dealt.rest] at he
        exact mem_leftBehind ((List.dropWhile_sublist _).mem he)
      · refine State.retire_hostMem ?_
        rw [left]
        exact none_
end

section
/-! PROOFS. The Log Writer: the drained count, the choice of the next entry, its room test and the start of its write (R164,
R165, R183 to R186). -/

set_option Elab.async false

namespace Sys2Proof.Machine

/-! ## The drained count (R183, R184) -/

theorem takeDrained_eq (p d v : Word32) : takeDrained p d v =
    if (v - d).slt 0 then d else if BitVec.slt 0 (v - p) then p else v := by
  have zero : (0 : Word32).toInt = 0 := rfl
  rw [takeDrained]
  simp only [BitVec.slt_iff_toInt_lt, zero]

section
variable {s t : State}

theorem State.windowDone_iff : s.windowDone = true ↔ ∀ e ∈ s.disp.window, e.state = .done := by
  simp [State.windowDone]

/-- The next entry depends on the frame, the window, the unit and what the log has due and holds. -/
theorem State.nextEntry_congr (frame : t.frame = s.frame) (disp : t.disp = s.disp) (mu : t.mu = s.mu)
    (due : t.log.due = s.log.due) (notes : t.log.notes = s.log.notes) (results : t.log.results = s.log.results) :
    t.nextEntry = s.nextEntry := by
  rw [State.nextEntry, State.nextEntry, State.frameStartDue, State.frameStartDue, State.frameEndDue, State.frameEndDue,
    State.nextHeld, State.nextHeld, State.windowDone, State.windowDone, frame, disp, mu, due, notes, results]

theorem State.roomAfterRead_log :
    s.roomAfterRead = { s with log := s.roomAfterRead.log, fetch := { s.fetch with pollOn := s.roomAfterRead.fetch.pollOn } } ∧
    s.roomAfterRead.log = { s.log with room := s.roomAfterRead.log.room } := by
  rw [State.roomAfterRead]
  split
  · exact ⟨rfl, rfl⟩
  · split
    · exact ⟨rfl, rfl⟩
    · split <;> exact ⟨rfl, rfl⟩

/-- An entry whose room test fails after a read waits for room, with the poll timer running if it has an interval. -/
theorem State.roomAfterRead_waits {k : EntryKind} (idle : s.log.writing = none) (next : s.nextEntry = some k)
    (full : s.log.hasRoom k = false) :
    s.roomAfterRead.log.room = .roomWait ∧ s.roomAfterRead.fetch.pollOn = decide (s.fetch.pollMs ≠ 0) := by
  rw [State.roomAfterRead, idle]
  simp only [next, full]
  exact ⟨rfl, rfl⟩
end

/-! ## The choice of the next entry (R185) -/

section
variable {s : State}

theorem State.frameStartDue_eq_some {b : BoardBegin} : s.frameStartDue = some b ↔
    s.log.due = some b ∧ s.frame.state = .none ∧ s.mu.calOrder = false ∧ s.mu.op ≠ .calibration := by
  rw [State.frameStartDue]
  split
  next ready =>
    obtain ⟨noFrame, noOrder, noCal⟩ := ready
    exact ⟨fun due => ⟨due, noFrame, Bool.not_eq_true _ ▸ noOrder, noCal⟩, fun h => h.1⟩
  next busy =>
    refine ⟨nofun, fun ⟨_, noFrame, noOrder, noCal⟩ => absurd ⟨noFrame, ?_, noCal⟩ busy⟩
    rw [noOrder]
    nofun

theorem State.frameEndDue_iff : s.frameEndDue = true ↔ s.frame.state ≠ .none ∧ (s.frame.abortDiscards ≠ none ∨
    (s.frame.state = .closing ∧ (∀ e ∈ s.disp.window, e.state = .done) ∧
      (s.frame.imageAddr = 0 ∨ s.frame.imageWritten = true))) := by
  rw [← State.windowDone_iff]
  simp only [State.frameEndDue, Bool.and_eq_true, Bool.or_eq_true, bne_iff_ne, beq_iff_eq, Option.isSome_iff_ne_none,
    ne_eq, and_assoc]

theorem State.nextEntry_start {b : BoardBegin} (h : s.frameStartDue = some b) : s.nextEntry = some (.frameStart b) := by
  rw [State.nextEntry, h]

theorem State.nextEntry_end (start : s.frameStartDue = none) (close : s.frameEndDue = true) :
    s.nextEntry = some .frameEnd := by
  rw [State.nextEntry, start]
  exact if_pos close

theorem State.nextEntry_held (start : s.frameStartDue = none) (close : s.frameEndDue = false) :
    s.nextEntry = s.nextHeld := by
  rw [State.nextEntry, start]
  exact if_neg (by rw [close]; nofun)

/-- The note at the head of its list, in a frame. -/
def State.noteNext (s : State) : Option HeldNote := if s.frame.state = .none then none else s.log.notes.head?

theorem State.noteNext_eq_some {n : HeldNote} :
    s.noteNext = some n ↔ s.frame.state ≠ .none ∧ s.log.notes.head? = some n := by
  rw [State.noteNext]
  by_cases noFrame : s.frame.state = .none
  · simp [noFrame]
  · simp [noFrame]

theorem State.nextHeld_eq : s.nextHeld = match s.log.results.head?, s.noteNext with
    | none, none => none
    | some r, none => some (.result r.slot)
    | none, some _ => some .note
    | some r, some n => if r.offer < n.offer then some (.result r.slot) else some .note := rfl

theorem State.nextHeld_result {r : HeldResult} (hr : s.log.results.head? = some r)
    (first : ∀ n, s.noteNext = some n → r.offer < n.offer) : s.nextHeld = some (.result r.slot) := by
  rw [State.nextHeld_eq, hr]
  cases note : s.noteNext with
  | none => rfl
  | some n => exact if_pos (first n note)

theorem State.nextHeld_note {n : HeldNote} (hn : s.noteNext = some n)
    (first : ∀ r, s.log.results.head? = some r → n.offer < r.offer) : s.nextHeld = some .note := by
  rw [State.nextHeld_eq, hn]
  cases result : s.log.results.head? with
  | none => rfl
  | some r => exact if_neg (Nat.not_lt.2 (Nat.le_of_lt (first r result)))

theorem State.nextHeld_none (results : s.log.results = []) (notes : ∀ n, s.noteNext ≠ some n) : s.nextHeld = none := by
  rw [State.nextHeld_eq, results, Option.eq_none_iff_forall_ne_some.2 notes]
  rfl
end

/-! ## The room test (R184) -/

theorem LogWriter.hasRoom_iff (l : LogWriter) (k : EntryKind) :
    l.hasRoom k = true ↔ k.needs ≤ (l.capacity : Int) - (l.published - l.drained).toNat := by
  rw [LogWriter.hasRoom, decide_eq_true_iff]
  rfl

theorem EntryKind.needs_eq (k : EntryKind) : k.needs = if k = .frameEnd then 1 else 2 := by
  cases k <;> simp [EntryKind.needs]

/-! ## The start of a write (R185, R186) -/

section
variable {s : State} {k : EntryKind}

/-- The net image is due: a closing frame, its steps DONE, has an image that is not written. -/
def State.imageDue (s : State) : Prop :=
  s.frame.state = .closing ∧ s.frame.abortDiscards = none ∧ (∀ e ∈ s.disp.window, e.state = .done) ∧
    s.frame.imageAddr ≠ 0 ∧ s.frame.imageWritten = false

theorem State.startImage_eq : s.startImage = { s with frame := { s.frame with imageBusy := s.startImage.frame.imageBusy } } := by
  rw [State.startImage]
  split <;> rfl

theorem State.startImage_busy : s.startImage.frame.imageBusy = true ↔ s.frame.imageBusy = true ∨ s.imageDue := by
  rw [State.startImage, State.imageDue, ← State.windowDone_iff, ← Bool.not_eq_true]
  split
  next due =>
    obtain ⟨closing, noAbort, done, address, unwritten, -⟩ := due
    exact ⟨fun _ => .inr ⟨closing, noAbort, done, address, unwritten⟩, fun _ => rfl⟩
  next notDue =>
    refine ⟨.inl, fun h => h.elim id fun ⟨closing, noAbort, done, address, unwritten⟩ => ?_⟩
    exact not_not.1 fun idle => notDue ⟨closing, noAbort, done, address, unwritten, idle⟩

theorem State.startImage_next : s.startImage.nextEntry = s.nextEntry := by
  rw [State.startImage]
  split <;> rfl

theorem State.startImage_bytes : s.startImage.entryBytes k = s.entryBytes k := by
  rw [State.startImage]
  split
  · cases k <;> rfl
  · rfl

theorem State.logKick_eq : s.logKick = if s.log.writing.isSome then s.startImage else
    match s.nextEntry with
    | none => s.startImage
    | some k =>
      if s.log.hasRoom k then s.startImage.startWrite k
      else if s.log.room = .ready then s.startImage.updLog fun l => { l with reading := true }
      else s.startImage := by
  rw [State.logKick, State.startImage_next, State.confined_startImage.log] <;> rfl

/-- The log with an entry's write begun. -/
def State.beginWrite (k : EntryKind) (s : State) : State :=
  s.updLog fun l => { l with writing := some ⟨k, s.entryBytes k, .bytes⟩, room := .ready }

/-- The write of a RESULT begun, its place in the held-result list free. -/
def State.beginResult (n : Nat) (s : State) : State :=
  (s.beginWrite (.result n)).updLog fun l => { l with results := l.results.drop 1 }

theorem State.startWrite_result (n : Nat) : s.startWrite (.result n) = (s.beginResult n).offerAgain := rfl

theorem State.offerAgain_none (h : s.disp.refused = []) : s.offerAgain = s := by
  rw [State.offerAgain.eq_def]
  simp only [h]

theorem State.offerAgain_some {m : Nat} {rest : List Nat} (h : s.disp.refused = m :: rest) :
    s.offerAgain = (s.updDisp fun d => { d with refused := rest }).offerResult m := by
  rw [State.offerAgain.eq_def]
  simp only [h]

/-- An outcome that was refused takes the place that a RESULT has left. -/
theorem State.offerAgain_room {m : Nat} {rest : List Nat} (h : s.disp.refused = m :: rest)
    (room : s.log.results.length < 3) : s.offerAgain = { s with
      disp := { s.disp with refused := rest }
      log := { s.log with results := s.log.results ++ [⟨m, s.log.offers⟩], offers := s.log.offers + 1 } } := by
  rw [State.offerAgain_some h]
  exact if_pos room

/-- Whatever the list of refused outcomes, only it and the held results change. -/
theorem State.offerAgain_same : s.offerAgain = { s with
      disp := { s.disp with refused := s.offerAgain.disp.refused }
      log := { s.log with results := s.offerAgain.log.results, offers := s.offerAgain.log.offers } } := by
  cases h : s.disp.refused with
  | nil => rw [State.offerAgain_none h]
  | cons m rest =>
    rw [State.offerAgain_some h, State.offerResult_eq]
    split <;> rfl

/-- What the start of a write leaves. -/
theorem State.startWrite_same : s.startWrite k = { s with
      log := (s.startWrite k).log, disp := { s.disp with refused := (s.startWrite k).disp.refused } } ∧
    (s.startWrite k).log = { s.log with
      writing := some ⟨k, s.entryBytes k, .bytes⟩, room := .ready, due := (s.startWrite k).log.due
      notes := (s.startWrite k).log.notes, results := (s.startWrite k).log.results
      offers := (s.startWrite k).log.offers } := by
  cases k with
  | frameStart b => exact ⟨rfl, rfl⟩
  | note => exact ⟨rfl, rfl⟩
  | frameEnd => exact ⟨rfl, rfl⟩
  | result n =>
    rw [State.startWrite_result, State.offerAgain_same]
    exact ⟨rfl, rfl⟩

/-- What the start of a write takes out of what is due and of the notes. -/
theorem State.startWrite_lists : ((∃ b, k = .frameStart b) → (s.startWrite k).log.due = none) ∧
    ((∀ b, k ≠ .frameStart b) → (s.startWrite k).log.due = s.log.due) ∧
    (s.startWrite k).log.notes = (if k = .note then s.log.notes.drop 1 else s.log.notes) := by
  cases k with
  | frameStart b => exact ⟨fun _ => rfl, fun other => absurd rfl (other b), rfl⟩
  | note => exact ⟨nofun, fun _ => rfl, rfl⟩
  | frameEnd => exact ⟨nofun, fun _ => rfl, rfl⟩
  | result n =>
    rw [State.startWrite_result, State.offerAgain_same]
    exact ⟨nofun, fun _ => rfl, rfl⟩

theorem State.startWrite_noResult (h : ∀ n, k ≠ .result n) : (s.startWrite k).log.results = s.log.results ∧
    (s.startWrite k).disp = s.disp ∧ (s.startWrite k).log.offers = s.log.offers := by
  cases k with
  | result n => exact absurd rfl (h n)
  | frameStart b => exact ⟨rfl, rfl, rfl⟩
  | note => exact ⟨rfl, rfl, rfl⟩
  | frameEnd => exact ⟨rfl, rfl, rfl⟩
end

end Sys2Proof.Machine

open Sys2Proof Sys2Proof.Machine in
/-- Settles O48: the drained read and the poll expiry, the choice of the next entry, its room test, and the start of its
write. -/
theorem pollAndDrained : Obligations.PollAndDrained := by
  refine ⟨fun s v reading => ?_, fun s on => ?_, fun s off => ?_, fun s => ?_, fun l k => ?_, fun s => ?_⟩
  · let t := s.updLog fun l =>
      { l with drained := takeDrained l.published l.drained v, reading := l.reread, reread := false }
    obtain ⟨same, log⟩ := State.roomAfterRead_log (s := t)
    refine ⟨t.roomAfterRead, if_pos reading, same, ?_, ?_, ?_, ?_, ?_, ?_, fun k idle next full => ?_⟩
    · rw [log, ← takeDrained_eq]
      rfl
    · rw [log]
      rfl
    · rw [log]
      rfl
    · rw [log]
      rfl
    · rw [log]
      rfl
    · rw [log]
      rfl
    · have next' : t.nextEntry = some k := by
        rw [← next]
        refine State.nextEntry_congr ?_ ?_ ?_ ?_ ?_ ?_
        · rw [same]
        · rw [same]
        · rw [same]
        · rw [log]
        · rw [log]
        · rw [log]
      have full' : t.log.hasRoom k = false := by
        rw [log] at full
        exact full
      exact State.roomAfterRead_waits (s := t) idle next' full'
  · have link : (s.run.state == .running && s.fetch.waiting && s.fetch.reading.isNone) = true ↔
        s.run.state = .running ∧ s.fetch.waiting = true ∧ s.fetch.reading = none := by
      simp [and_assoc]
    refine (if_pos on).trans ?_
    simp only [link]
    rfl
  · exact if_neg (by rw [off]; nofun)
  · intro start close note
    have noStart (h : ∀ b, ¬ start b) : s.frameStartDue = none :=
      Option.eq_none_iff_forall_ne_some.2 fun b due => h b (State.frameStartDue_eq_some.1 due)
    refine ⟨fun b due => State.nextEntry_start (State.frameStartDue_eq_some.2 due),
      fun idle closes => State.nextEntry_end (noStart idle) (State.frameEndDue_iff.2 closes), fun idle stays => ?_⟩
    have notes (n : HeldNote) : s.noteNext = some n ↔ note n := State.noteNext_eq_some
    have noClose : s.frameEndDue = false := Bool.eq_false_iff.2 fun due => stays (State.frameEndDue_iff.1 due)
    rw [State.nextEntry_held (noStart idle) noClose]
    exact ⟨fun r hr first => State.nextHeld_result hr fun n hn => first n ((notes n).1 hn),
      fun n hn first => State.nextHeld_note ((notes n).2 hn) first,
      fun none_ noNote => State.nextHeld_none none_ fun n hn => noNote n ((notes n).1 hn)⟩
  · intro free
    have room := (l.hasRoom_iff k).trans (by rw [EntryKind.needs_eq])
    change _ ↔ _ ≤ free at room
    refine ⟨fun none_ => Bool.eq_false_iff.2 fun has => ?_, fun one => room.trans ?_, fun two => room.2 ?_⟩
    · have needs := room.1 has
      split at needs <;> omega
    · rw [one]
      by_cases last : k = .frameEnd
      · simp [last]
      · simp [last]
    · split <;> omega
  · intro image
    have same := State.startImage_eq (s := s)
    refine ⟨s.startImage, same, State.startImage_busy, fun quiet => ?_, fun k idle next => ⟨fun full => ?_, fun room => ?_⟩⟩
    · rw [State.logKick_eq]
      obtain busy | none_ := quiet
      · rw [if_pos (Option.isSome_iff_ne_none.2 busy)]
      · rw [none_]
        exact ite_self _
    · rw [State.logKick_eq, idle, next, if_neg nofun]
      refine ⟨fun ready => ?_, fun waits => ?_⟩
      · refine (if_neg (by rw [full]; nofun)).trans ((if_pos ready).trans ?_)
        rw [State.updLog, State.confined_startImage.log]
      · simp only [full, waits]
        rfl
    · have started : s.logKick = s.startImage.startWrite k := by
        rw [State.logKick_eq, idle, next, if_neg nofun]
        exact if_pos room
      rw [started]
      obtain ⟨rest, log⟩ := State.startWrite_same (s := s.startImage) (k := k)
      obtain ⟨due, kept, notes⟩ := State.startWrite_lists (s := s.startImage) (k := k)
      have before : s.startImage.log = s.log := State.confined_startImage.log
      have beforeDisp : s.startImage.disp = s.disp := State.confined_startImage.disp
      have noResult := State.startWrite_noResult (s := s.startImage) (k := k)
      rw [State.startImage_bytes] at log
      rw [before] at log kept notes noResult
      rw [beforeDisp] at rest noResult
      intro u
      refine ⟨rest, log, due, kept, notes, noResult, fun n hn => ⟨fun none_ => ?_, fun m more refused fits => ?_⟩⟩
      · subst hn
        have none' : (s.startImage.beginResult n).disp.refused = [] := (congrArg Dispatcher.refused beforeDisp).trans none_
        change (s.startImage.startWrite _).log.results = _ ∧ (s.startImage.startWrite _).disp = _
        rw [State.startWrite_result, State.offerAgain_none none', ← before]
        exact ⟨rfl, beforeDisp⟩
      · subst hn
        have refused' : (s.startImage.beginResult n).disp.refused = m :: more :=
          (congrArg Dispatcher.refused beforeDisp).trans refused
        have left : (s.startImage.beginResult n).log.results = s.log.results.drop 1 := by
          rw [← before]
          rfl
        have place : (s.startImage.beginResult n).log.results.length < 3 := by
          rw [left, List.length_drop]
          omega
        change (s.startImage.startWrite _).log.results = _ ∧ (s.startImage.startWrite _).disp.refused = _ ∧
          (s.startImage.startWrite _).log.offers = _
        rw [State.startWrite_result, State.offerAgain_room refused' place, ← before]
        exact ⟨rfl, rfl, rfl⟩
end

section
/-! PROOFS. Records: the admitted copy with its points and clamps, the checks after the ninth, and the entry of the lowest
free slot (R1, R12, R14 to R17, R78, R178). -/

set_option Elab.async false

namespace Sys2Proof.Machine

/-! ## A WAITING step that ends (R82, R87) -/

section
variable {s : State} {k : Nat} {e : Entry} {o : Outcome}

theorem State.modEntry_modEntry {f g : Entry → Entry} (hg : ∀ e, (g e).slot = e.slot) :
    (s.modEntry k g).modEntry k f = s.modEntry k fun e => f (g e) := by
  have both : (s.disp.window.map fun e => if e.slot == k then g e else e).map (fun e => if e.slot == k then f e else e) =
      s.disp.window.map fun e => if e.slot == k then f (g e) else e := by
    rw [List.map_map]
    refine List.map_congr_left fun e _ => ?_
    by_cases here : e.slot = k <;> simp [here, hg]
  calc (s.modEntry k g).modEntry k f
      = { s with disp := { s.disp with
          window := (s.disp.window.map fun e => if e.slot == k then g e else e).map fun e =>
            if e.slot == k then f e else e } } := rfl
    _ = _ := by rw [both]; rfl

/-- The entry of a step that ends without a carriage. -/
def Entry.ended (o : Outcome) (e : Entry) : Entry :=
  { e with outcome := some o, assignment := [], yields := [], state := .held }

/-- The entry as it stands before HELD. -/
def Entry.decided (o : Outcome) (e : Entry) : Entry := { e with outcome := some o, assignment := [], yields := [] }

theorem State.entry_changed (he : s.entry k = some e) {f : Entry → Entry} (hf : ∀ e, (f e).slot = e.slot) :
    (s.modEntry k f).entry k = some (f e) := by
  rw [State.entry_modEntry hf, if_pos rfl, he]
  rfl

theorem State.endWaiting_eq (he : s.entry k = some e) : s.endWaiting k o =
    (((s.modEntry k (Entry.ended o)).updNets fun t => t.update e.copy o.verdict).offerResult k).markScan := by
  have there : (s.modEntry k (Entry.decided o)).entry k = some (e.decided o) := State.entry_changed he fun _ => rfl
  have ended := State.modEntry_modEntry (s := s) (k := k) (f := fun e => { e with state := .held }) (g := Entry.decided o)
    fun _ => rfl
  change (s.modEntry k (Entry.decided o)).enterHeld k = _
  rw [State.enterHeld_eq there rfl, ended]
  rfl

theorem State.endWaiting_window (he : s.entry k = some e) : (s.endWaiting k o).disp.window =
    s.disp.window.map fun e => if e.slot == k then e.ended o else e := by
  rw [State.endWaiting_eq he]
  exact State.offerResult_window

theorem State.endWaiting_entry (he : s.entry k = some e) : (s.endWaiting k o).entry k = some (e.ended o) := by
  rw [State.entry_congr (s := s.modEntry k (Entry.ended o)) (State.endWaiting_window he)]
  exact State.entry_changed he fun _ => rfl

/-- An ERROR leaves the net records, and so all but the window and the log. -/
theorem State.endWaiting_error (he : s.entry k = some e) (ho : o.verdict = .error) : s.endWaiting k o =
    { s with disp := (s.endWaiting k o).disp, log := (s.endWaiting k o).log } := by
  rw [State.endWaiting_eq he, State.offerResult_eq, ho]
  rfl

theorem State.endWaiting_log (he : s.entry k = some e) : (s.endWaiting k o).log = if s.log.results.length < 3 then
    { s.log with results := s.log.results ++ [⟨k, s.log.offers⟩], offers := s.log.offers + 1 } else s.log := by
  rw [State.endWaiting_eq he, State.offerResult_eq]
  rfl

theorem State.endWaiting_refused (he : s.entry k = some e) : (s.endWaiting k o).disp.refused =
    if s.log.results.length < 3 then s.disp.refused else s.disp.refused ++ [k] := by
  rw [State.endWaiting_eq he, State.offerResult_eq]
  rfl
end

/-! ## Points (R14) -/

section
variable {r : RawStep} {n : Nat}

/-- With every side and role listed, each point is its slot's machine point. -/
theorem placePoints_eq_map (o : Sides Pos) {l : List RawPoint}
    (h : ∀ p ∈ l, sideCode p.side ≠ none ∧ roleOf p.role ≠ none) : ∃ m, placePoints o l = some m ∧ m.length = l.length ∧
      ∀ (i : Nat) (p : RawPoint) (d : Side) (q : Role), l[i]? = some p → sideCode p.side = some d → roleOf p.role = some q →
        m[i]? = some ⟨d, q, p.net, ⟨p.x + (o.get d).x, p.y + (o.get d).y⟩⟩ := by
  induction l with
  | nil => exact ⟨[], rfl, rfl, by simp⟩
  | cons p rest ih =>
    obtain ⟨m, placed, length, at_⟩ := ih fun p hp => h p (by simp [hp])
    obtain ⟨side, role⟩ := h p (by simp)
    obtain ⟨d, hd⟩ := Option.ne_none_iff_exists'.1 side
    obtain ⟨q, hq⟩ := Option.ne_none_iff_exists'.1 role
    refine ⟨⟨d, q, p.net, ⟨p.x + (o.get d).x, p.y + (o.get d).y⟩⟩ :: m, by rw [placePoints, hd, hq, placed],
      by rw [List.length_cons, length, List.length_cons], fun i p' d' q' hp hd' hq' => ?_⟩
    cases i with
    | zero =>
      obtain rfl : p = p' := by simpa using hp
      obtain rfl := Option.some.inj (hd.symm.trans hd')
      obtain rfl := Option.some.inj (hq.symm.trans hq')
      rfl
    | succ i => exact at_ i p' d' q' hp hd' hq'

/-- With check 3 passed every side and role is listed. -/
theorem listed_of_badRole {k : Kind} {l : List RawPoint} (h : badRole k 0 [] l = none) :
    ∀ p ∈ l, sideCode p.side ≠ none ∧ roleOf p.role ≠ none := by
  classical
  intro p hp
  obtain ⟨i, hi⟩ := List.mem_iff_getElem?.1 hp
  by_contra unlisted
  have bad : ∃ j, BadRoleAt k [] l j := by
    refine ⟨i, p, hi, ?_⟩
    by_cases side : sideCode p.side = none
    · exact .inl side
    · refine .inr fun q hq => absurd ⟨side, ?_⟩ unlisted
      rw [hq]
      nofun
  rw [badRole_eq_some 0 (Nat.find_spec bad) fun j hj => Nat.find_min bad hj] at h
  nomatch h

/-! ## Clamps (R16) -/

/-- What checks 1 to 9 passed say of the fields that are clamped. -/
structure RawStep.Passes (r : RawStep) : Prop where
  listed : ∀ p ∈ r.used, sideCode p.side ≠ none ∧ roleOf p.role ≠ none
  gains : kindOf r.kind.toNat ≠ some .cap → r.gainMin ≤ r.gainMax
  window : r.window ≠ 0
  kind : kindOf r.kind.toNat ≠ none

theorem ite_some_eq_none {α : Type} {c : Prop} [Decidable c] {a : α} {x : Option α}
    (h : (if c then some a else x) = none) : ¬ c ∧ x = none := by
  by_cases hc : c
  · rw [if_pos hc] at h
    nomatch h
  · rw [if_neg hc] at h
    exact ⟨hc, h⟩

theorem RawStep.passes_of_failing (h : r.failing n = none) : r.Passes := by
  rw [RawStep.failing] at h
  cases hk : kindOf r.kind.toNat with
  | none =>
    rw [hk] at h
    nomatch h
  | some k =>
    rw [hk] at h
    obtain ⟨-, h⟩ := ite_some_eq_none h
    cases roles : badRole k 0 [] r.used with
    | some i =>
      rw [roles] at h
      nomatch h
    | none =>
      rw [roles] at h
      obtain ⟨-, h⟩ := ite_some_eq_none h
      obtain ⟨gains, h⟩ := ite_some_eq_none h
      obtain ⟨window, -⟩ := ite_some_eq_none h
      refine ⟨listed_of_badRole roles, fun noCap => ?_, fun zero => window (.inl zero), by rw [hk]; nofun⟩
      refine Nat.le_of_not_lt fun order => gains ⟨fun cap => noCap ?_, .inr (.inr order)⟩
      rw [hk, cap]

/-- The kind of the copy of a record that passes is the one its code names. -/
theorem RawStep.copy_kind (clamps : Bool) (q : Word32) (o : Sides Pos) (n : Nat) {k : Kind}
    (h : kindOf r.kind.toNat = some k) : (r.copy clamps q o n).kind = k := by
  change (kindOf r.kind.toNat).getD .res2 = k
  rw [h]
  rfl

/-- Without the clamps of R16 the copy has the fields as read. -/
theorem RawStep.copy_raw (q : Word32) (o : Sides Pos) (n : Nat) : (r.copy false q o n).skip = r.skip ∧
    (r.copy false q o n).gainInit = r.gainInit ∧ (r.copy false q o n).settle = r.settle ∧
    (r.copy false q o n).threshold = r.threshold ∧ (r.copy false q o n).clamped = false := by
  simp [RawStep.copy]

section
variable {q : Word32} {o : Sides Pos} {c : StepCopy} (hc : c = r.copy true q o n) (ok : r.Passes)
include hc ok

/-- The clamps outside CAP. -/
theorem RawStep.copy_clamped (noCap : c.kind ≠ .cap) :
    c.skip = (if r.window ≤ r.skip then r.window - 1 else r.skip) ∧
    c.gainInit = (if r.gainInit < r.gainMin then r.gainMin
      else if r.gainMax < r.gainInit then r.gainMax else r.gainInit) ∧
    c.settle = (if 1023 < r.settle then 1023 else r.settle) ∧ c.threshold = r.threshold ∧
    (c.clamped = true ↔ r.window ≤ r.skip ∨ r.gainInit < r.gainMin ∨ r.gainMax < r.gainInit ∨ 1023 < r.settle) := by
  obtain ⟨k, hk⟩ := Option.ne_none_iff_exists'.1 ok.kind
  have kind : k ≠ .cap := by rwa [hc, RawStep.copy_kind true q o n hk] at noCap
  have gains := ok.gains (by rw [hk]; simpa using kind)
  have window := ok.window
  have gain := clampNat_eq gains r.gainInit
  subst hc
  have skipped : (if r.window ≤ r.skip then r.window - 1 else r.skip) ≠ r.skip ↔ r.window ≤ r.skip := by
    split <;> omega
  have gained : (if r.gainInit < r.gainMin then r.gainMin else if r.gainMax < r.gainInit then r.gainMax else r.gainInit) ≠
      r.gainInit ↔ r.gainInit < r.gainMin ∨ r.gainMax < r.gainInit := by
    split <;> [skip; split] <;> omega
  have settled : min 1023 r.settle ≠ r.settle ↔ 1023 < r.settle := by omega
  simp only [RawStep.copy, hk, Option.getD_some, kind, gain, not_false_eq_true, true_and, and_false, if_true, if_false,
    bne_self_eq_false, Bool.or_false, Bool.or_eq_true, bne_iff_ne, skipped, gained, settled, or_assoc, and_true]
  split <;> omega

/-- The clamp of CAP. -/
theorem RawStep.copy_capped (cap : c.kind = .cap) : c.skip = r.skip ∧ c.gainInit = r.gainInit ∧ c.settle = r.settle ∧
    c.threshold = (if r.threshold < 100 then 100 else r.threshold) ∧ (c.clamped = true ↔ r.threshold < 100) := by
  obtain ⟨k, hk⟩ := Option.ne_none_iff_exists'.1 ok.kind
  have kind : k = .cap := by rwa [hc, RawStep.copy_kind true q o n hk] at cap
  subst hc kind
  simp only [RawStep.copy, hk, Option.getD_some, not_true_eq_false, false_and, and_false, and_self, if_true,
    if_false, bne_self_eq_false, Bool.false_or, bne_iff_ne, true_and]
  refine ⟨?_, ?_⟩
  · split <;> omega
  · omega
end
end


/-! ## Checks 10 and 11 (R15, R81) -/

section
variable {s : State} {r : RawStep} {q : Word32}

theorem Setup.inField_iff (t : Setup) (c : Carriage) (p : Pos) : t.inField c p = true ↔
    (t.fields.get (sideOf c)).start ≤ p.x ∧ p.x < (t.fields.get (sideOf c)).stop ∧
    (t.fields.get (sideOf c)).start ≤ p.x - (t.carriages.get c).tipOffset ∧
    p.x - (t.carriages.get c).tipOffset < (t.fields.get (sideOf c)).stop ∧ 0 ≤ p.y ∧ p.y ≤ 500000 := by
  have x (d : Side) (v : Int) : t.xInField d v = true ↔ (t.fields.get d).start ≤ v ∧ v < (t.fields.get d).stop := by
    simp [Setup.xInField]
  simp only [Setup.inField, x, Bool.and_eq_true, decide_eq_true_eq, and_assoc]
  rfl

/-- Check 10 refuses a point that is in field for no carriage of its side. -/
theorem Setup.outOfField_iff (t : Setup) (p : Point) :
    t.outOfField p = true ↔ ∀ c, sideOf c = p.side → ¬ t.inField c p.at_ = true := by
  simp only [Setup.outOfField, List.all_eq_true, mem_carriagesOf, Bool.not_eq_true, Bool.not_eq_true']

section
variable (h : r.failing s.frame.netCount = none)
include h

theorem State.judge_outOfField {i : Nat}
    (bad : firstBad s.setup.outOfField 0 (r.copy true q s.frame.offsets s.frame.netCount).points = some i) :
    s.judge r q = (r.copy true q s.frame.offsets s.frame.netCount, some (.outOfField, 256 * 10 + (i : Int))) := by
  rw [State.judge.eq_def]
  simp only [h, bad]
  congr 3

theorem State.judge_inField
    (good : firstBad s.setup.outOfField 0 (r.copy true q s.frame.offsets s.frame.netCount).points = none) :
    s.judge r q = (r.copy true q s.frame.offsets s.frame.netCount,
      (s.unreachable (r.copy true q s.frame.offsets s.frame.netCount)).map fun k => (k, (256 * 11 : Int))) := by
  rw [State.judge.eq_def]
  simp only [h, good]
  cases s.unreachable (r.copy true q s.frame.offsets s.frame.netCount) <;> rfl

theorem State.judge_clamped : (s.judge r q).1 = r.copy true q s.frame.offsets s.frame.netCount := by
  cases found : firstBad s.setup.outOfField 0 (r.copy true q s.frame.offsets s.frame.netCount).points with
  | some i => rw [State.judge_outOfField h found]
  | none => rw [State.judge_inField h found]
end

theorem State.judge_failing {m i : Nat} (h : r.failing s.frame.netCount = some (m, i)) : s.judge r q =
    (r.copy false q s.frame.offsets s.frame.netCount, some (.badStep, 256 * (m : Int) + i)) := by
  rw [State.judge.eq_def]
  simp only [h]
  congr 3

/-- The copy of a judged record is that of the record as read, or clamped. -/
theorem State.judge_copy (s : State) (r : RawStep) (q : Word32) :
    ∃ clamps, (s.judge r q).1 = r.copy clamps q s.frame.offsets s.frame.netCount := by
  cases h : r.failing s.frame.netCount with
  | some f => exact ⟨false, congrArg Prod.fst (State.judge_failing h)⟩
  | none => exact ⟨true, State.judge_clamped h⟩
end

/-! ## The slot of an admitted step (R12, R78) -/

section
variable {s : State} {r : RawStep} {q : Word32} {k : Nat} {e : Entry}

theorem State.freeSlot_free (h : s.freeSlot = some k) : s.entry k = none := by
  simpa using List.find?_some h

/-- The window with an entry more, and a scan owed. -/
def State.seat (e : Entry) (s : State) : State := (s.updDisp fun d => { d with window := d.window ++ [e] }).markScan

theorem State.entry_seat (h : s.entry e.slot = none) : (s.seat e).entry e.slot = some e := by
  change (s.disp.window ++ [e]).find? _ = _
  rw [List.find?_append, show s.disp.window.find? (fun f => f.slot == e.slot) = none from h]
  simp

theorem State.deliver_waiting (free : s.freeSlot = some k) (good : (s.judge r q).2 = none) :
    s.deliver r q = s.seat (newEntry k (s.judge r q).1) := by
  rw [State.deliver.eq_def]
  simp only [free, good]
  rfl

/-- The outcome of a step that a check ends. -/
def refusedOutcome (s : State) (r : RawStep) (e : Entry) (cause : Cause) (value : Int) : Outcome :=
  { e.endedOutcome .error cause s.clock with value := value, gain := r.gainInit }

theorem State.deliver_refused {cause : Cause} {value : Int} (free : s.freeSlot = some k)
    (bad : (s.judge r q).2 = some (cause, value)) : s.deliver r q =
      (s.seat (newEntry k (s.judge r q).1)).endWaiting k
        (refusedOutcome s r (newEntry k (s.judge r q).1) cause value) := by
  rw [State.deliver.eq_def]
  simp only [free, bad]
  rfl

theorem State.deliver_nets (free : s.freeSlot = some k) : (s.deliver r q).nets = s.nets := by
  have there : (s.seat (newEntry k (s.judge r q).1)).entry k = some _ := State.entry_seat (State.freeSlot_free free)
  cases judged : (s.judge r q).2 with
  | none => rw [State.deliver_waiting free judged]; rfl
  | some v =>
    obtain ⟨cause, value⟩ := v
    rw [State.deliver_refused free judged, State.endWaiting_error there rfl]
    rfl

/-- The window with the steps there before. -/
theorem State.deliver_window (free : s.freeSlot = some k) :
    (∀ f ∈ s.disp.window, f ∈ (s.deliver r q).disp.window) ∧
    (s.deliver r q).disp.window.length = s.disp.window.length + 1 := by
  have none_ := State.freeSlot_free free
  have there : (s.seat (newEntry k (s.judge r q).1)).entry k = some _ := State.entry_seat none_
  have mem (f : Entry) (hf : f ∈ s.disp.window) : f ∈ (s.seat (newEntry k (s.judge r q).1)).disp.window :=
    List.mem_append_left _ hf
  have length : (s.seat (newEntry k (s.judge r q).1)).disp.window.length = s.disp.window.length + 1 :=
    List.length_append
  cases judged : (s.judge r q).2 with
  | none =>
    rw [State.deliver_waiting free judged]
    exact ⟨mem, length⟩
  | some v =>
    obtain ⟨cause, value⟩ := v
    rw [State.deliver_refused free judged, State.endWaiting_window there, List.length_map]
    refine ⟨fun f hf => List.mem_map.2 ⟨f, mem f hf, if_neg ?_⟩, length⟩
    simpa using State.entry_none_iff.1 none_ f hf
end

/-! ## A record read (R178) -/

section
variable {s : State} {b : List Byte} {p : FetchPos} {i k : Nat}

/-- The Fetcher past a record. -/
def State.passRecord (p : FetchPos) (i : Nat) (s : State) : State :=
  s.updFetch fun f => { (f.toPhase (if i + 1 < p.count then .records (i + 1) else .link)) with reading := none }

theorem State.takeRecord_eq (pos : s.fetch.pos = some p) (phase : p.phase = .records i) :
    s.takeRecord b = ((s.passRecord p i).deliver (parseStep b) p.seq).updateRefill := by
  rw [State.takeRecord.eq_def]
  simp only [pos, phase]
  rfl

theorem State.takeRecord_fetch (pos : s.fetch.pos = some p) (phase : p.phase = .records i) (free : s.freeSlot = some k) :
    (s.takeRecord b).fetch = { s.fetch with
      pos := some { p with phase := if i + 1 < p.count then .records (i + 1) else .link }, reading := none
      refill := if s.disp.window.length + 1 < 12 then true else if 16 ≤ s.disp.window.length + 1 then false
        else s.fetch.refill } := by
  have free' : (s.passRecord p i).freeSlot = some k := free
  have passed : (s.passRecord p i).fetch = { s.fetch with
      pos := some { p with phase := if i + 1 < p.count then .records (i + 1) else .link }, reading := none } := by
    rw [State.passRecord, State.updFetch_fetch, Fetcher.toPhase_eq pos]
  have delivered := (State.confined_deliver (s := s.passRecord p i) (r := parseStep b) (q := p.seq)).fetch
  obtain ⟨-, length⟩ := State.deliver_window (r := parseStep b) (q := p.seq) free'
  rw [passed] at delivered
  rw [State.takeRecord_eq pos phase, State.updateRefill_fetch, State.occupied_eq, delivered, length,
    if_neg (show ¬ ∃ g, none = some _ from nofun)]
  rfl
end

end Sys2Proof.Machine

open Sys2Proof Sys2Proof.Machine in
/-- Settles O45: the judgment of a record, its copy's fields, points and clamps, and the entry of the lowest free slot. -/
theorem recordAdmitted : Obligations.RecordAdmitted := by
  refine ⟨fun s b => ⟨fun g void => ?_, fun idle => ?_⟩, fun s r q => ?_, fun r clamps q o n => ?_,
    fun s b p i k g reading pos phase free => ?_⟩
  · change execRecordRead b s = _
    rw [execRecordRead, Fetcher.awaiting_some void]
    rfl
  · change execRecordRead b s = _
    rw [execRecordRead, Fetcher.awaiting_none idle]
  · intro j c out
    have out_iff (i : Nat) : out i ↔ ∃ p, c.points[i]? = some p ∧ s.setup.outOfField p = true := by
      refine exists_congr fun p => and_congr_right fun _ => ?_
      rw [Setup.outOfField_iff]
      refine forall_congr' fun x => forall_congr' fun side => not_congr ?_
      rw [Setup.inField_iff, side]
      rfl
    refine ⟨fun m i failed => ?_, fun passed => ⟨?_, fun i bad first => ?_, fun good => ?_⟩⟩
    · exact State.judge_failing failed
    · exact State.judge_clamped passed
    · obtain ⟨p, hp, outside⟩ := (out_iff i).1 bad
      have found := firstBad_eq_some 0 hp outside fun h hi p' hp' =>
        Bool.eq_false_iff.2 fun outside' => first h hi ((out_iff h).2 ⟨p', hp', outside'⟩)
      rw [Nat.zero_add] at found
      exact congrArg Prod.snd (State.judge_outOfField passed found)
    · have found : firstBad s.setup.outOfField 0 c.points = none := firstBad_eq_none 0 fun p hp => by
        obtain ⟨i, hi⟩ := List.mem_iff_getElem?.1 hp
        exact Bool.eq_false_iff.2 fun outside => good i ((out_iff i).2 ⟨p, hi, outside⟩)
      have judged := congrArg Prod.snd (State.judge_inField (q := q) passed found)
      refine ⟨fun k hk => judged.trans ?_, fun reached => judged.trans ?_⟩
      · exact congrArg (Option.map _) hk
      · exact congrArg (Option.map _) reached
  · intro c
    refine ⟨⟨rfl, rfl, fun k hk => RawStep.copy_kind clamps q o n hk, rfl, rfl, rfl, rfl, rfl, rfl, rfl, rfl, rfl, rfl, rfl,
      rfl, rfl, rfl, rfl, rfl, rfl⟩, fun listed => ?_, fun raw => ?_, fun clamped passed => ?_⟩
    · obtain ⟨m, placed, length, at_⟩ := placePoints_eq_map o listed
      have points : c.points = m := congrArg (fun x : Option (List Point) => x.getD []) placed
      rw [points]
      exact ⟨length, at_⟩
    · subst raw
      exact RawStep.copy_raw q o n
    · subst clamped
      have ok := RawStep.passes_of_failing passed
      exact ⟨ok.listed, RawStep.copy_clamped rfl ok, RawStep.copy_capped rfl ok⟩
  · let t := s.passRecord p i
    have rest : Confined [.fetch, .disp, .nets, .log] s (s.takeRecord b) := State.confined_takeRecord
    have fetch := State.takeRecord_fetch (b := b) pos phase free
    have free' : t.freeSlot = some k := free
    obtain ⟨kept, length⟩ := State.deliver_window (r := parseStep b) (q := p.seq) free'
    have taken : s.takeRecord b = (t.deliver (parseStep b) p.seq).updateRefill := State.takeRecord_eq pos phase
    have there : (t.seat (newEntry k (s.judge (parseStep b) p.seq).1)).entry k = some _ :=
      State.entry_seat (State.freeSlot_free free')
    have answer : exec (.recordRead b) s = .next (s.takeRecord b).finish := by
      change execRecordRead b s = _
      rw [execRecordRead, Fetcher.awaiting_some reading]
    obtain ⟨clamps, copy⟩ := State.judge_copy s (parseStep b) p.seq
    refine ⟨s.takeRecord b, answer, rest.setup, rest.claims, rest.carriages, ?_, ?_, ?_, ?_, ?_, ?_, ?_⟩
    · rw [taken]
      exact State.deliver_nets free'
    · rw [fetch]
    · rw [fetch]
    · rw [taken]
      exact kept
    · rw [taken]
      exact length
    · rw [fetch]
    · rw [taken]
      have copies : (newEntry k (s.judge (parseStep b) p.seq).1).copy = (s.judge (parseStep b) p.seq).1 := rfl
      have fields (f : Entry) (hf : f.copy = (s.judge (parseStep b) p.seq).1) :
          f.copy.tag = BitVec.ofNat 32 (fieldAt b 0 4) ∧ f.copy.kindCode = b.getD 4 0 ∧
          f.copy.gainRead = (parseStep b).gainInit ∧ f.copy.seq = p.seq ∧ f.copy.offsets = s.frame.offsets ∧
          f.copy.netCount = s.frame.netCount := by
        rw [hf, copy]
        exact ⟨rfl, rfl, rfl, rfl, rfl, rfl⟩
      let e := newEntry k (s.judge (parseStep b) p.seq).1
      obtain ⟨tag, kindCode, gain, seq, offsets, nets⟩ := fields e rfl
      cases judged : (s.judge (parseStep b) p.seq).2 with
      | none =>
        have delivered : t.deliver (parseStep b) p.seq = t.seat e := State.deliver_waiting free' judged
        rw [delivered]
        exact ⟨e, there, rfl, rfl, rfl, rfl, rfl, tag, kindCode, gain, seq, offsets, nets, rfl, rfl, rfl⟩
      | some v =>
        obtain ⟨cause, value⟩ := v
        let o := refusedOutcome t (parseStep b) e cause value
        have delivered : t.deliver (parseStep b) p.seq = (t.seat e).endWaiting k o := State.deliver_refused free' judged
        have range : e.copy.range = (parseStep b).range := by
          rw [show e.copy = _ from copy]
          rfl
        have log : ((t.seat e).endWaiting k o).log = _ := State.endWaiting_log there
        have refused : ((t.seat e).endWaiting k o).disp.refused = _ := State.endWaiting_refused there
        rw [delivered]
        refine ⟨e.ended o, State.endWaiting_entry there, rfl, rfl, rfl, rfl, rfl, tag, kindCode, gain, seq, offsets, nets, rfl,
          o, rfl, rfl, rfl, rfl, rfl, rfl, rfl, rfl, range, fun x hx => ?_, fun room => ?_, fun full => ?_⟩
        · obtain ⟨_, -, rfl⟩ := List.mem_map.1 hx
          rfl
        · have results := congrArg LogWriter.results (log.trans (if_pos room))
          exact results
        · exact refused.trans (if_neg (Nat.not_lt.2 full))
end

section
/-! PROOFS. Claim requests and reviews: the first case that applies, and what a review leaves pending (R25, R27 to R29). -/

set_option Elab.async false

namespace Sys2Proof.Machine

/-! ## Claim requests (R25, R27, R28) -/

section
variable {s : State} {c : Carriage} {q : Purpose} {i j : Interval}

theorem State.claimOf_none_iff :
    s.claimOf c = none ↔ ∀ n : Nat, (s.table (sideOf c)).cells[n]? ≠ some (some c) := by
  rw [State.claimOf, claimFrom_none, List.mem_iff_getElem?]
  push Not
  rfl

theorem State.pendingOf_ne_none_iff : s.pendingOf c ≠ none ↔ ∃ e ∈ (s.table (sideOf c)).pend, e.carriage = c := by
  rw [State.pendingOf, ← Option.isSome_iff_ne_none, List.find?_isSome]
  simp only [beq_iff_eq]

theorem State.meetsFault_iff {d : Side} : s.meetsFault d j = true ↔ ∃ (n : Nat) (f : Carriage), j.lo ≤ n ∧ n ≤ j.hi ∧
    (s.table d).cells[n]? = some (some f) ∧ (s.carr f).state = .fault := by
  rw [State.meetsFault, List.any_eq_true]
  constructor
  · rintro ⟨o, mem, fault⟩
    obtain ⟨n, lo, hi, cell⟩ := (mem_cellsIn _ _ _).1 mem
    cases o with
    | none => nomatch fault
    | some f => exact ⟨n, f, lo, hi, cell, beq_iff_eq.1 fault⟩
  · rintro ⟨n, f, lo, hi, cell, fault⟩
    exact ⟨some f, (mem_cellsIn _ _ _).2 ⟨n, lo, hi, cell⟩, beq_iff_eq.2 fault⟩

/-- No lane of the interval is another carriage's. -/
theorem lanesFreeFor_iff_owned (l : List (Option Carriage)) : lanesFreeFor c j l = true ↔
    ∀ (n : Nat) (x : Carriage), j.lo ≤ n → n ≤ j.hi → l[n]? = some (some x) → x = c := by
  rw [lanesFreeFor_iff]
  constructor
  · intro free n x lo hi cell
    exact Option.some.inj ((free n _ lo hi cell).resolve_left nofun)
  · intro own n o lo hi cell
    cases o with
    | none => exact .inl rfl
    | some x => exact .inr (congrArg some (own n x lo hi cell))

theorem clearOf_iff {l : List ClaimEntry} :
    clearOf j l = true ↔ ∀ e ∈ l, ¬ (e.span.lo ≤ j.hi ∧ j.lo ≤ e.span.hi) := by
  simp only [clearOf, Interval.meets, List.all_eq_true, Bool.not_eq_true', ← Bool.not_eq_true, Bool.and_eq_true,
    decide_eq_true_eq]

theorem State.claimAnswer_denied (h : s.claimOf c = none ∨ (s.carr c).state = .fault ∨ s.pendingOf c ≠ none) :
    s.claimAnswer c i = .denied := by
  rw [State.claimAnswer]
  by_cases pending : s.pendingOf c = none
  · refine if_pos ?_
    rw [Bool.or_eq_true, Option.isNone_iff_eq_none, beq_iff_eq]
    exact h.imp id fun h => h.resolve_right (not_not.2 pending)
  · rw [if_pos (Option.isSome_iff_ne_none.2 pending), ite_self]

/-- A request that is not denied is answered by the lanes and the entries its interval meets. -/
theorem State.claimAnswer_eq (h : ¬ (s.claimOf c = none ∨ (s.carr c).state = .fault ∨ s.pendingOf c ≠ none)) :
    s.claimAnswer c i = if s.meetsFault (sideOf c) (s.pendingInterval c i) then .blocked
      else if lanesFreeFor c (s.pendingInterval c i) (s.table (sideOf c)).cells = true ∧
        clearOf (s.pendingInterval c i) (s.table (sideOf c)).pend = true then .granted else .pending := by
  obtain ⟨claim, sound, free⟩ : s.claimOf c ≠ none ∧ (s.carr c).state ≠ .fault ∧ s.pendingOf c = none := by
    push Not at h
    exact h
  rw [State.claimAnswer]
  simp [claim, sound, free]

theorem State.requestClaim_refused (h : s.claimAnswer c i = .denied ∨ s.claimAnswer c i = .blocked) :
    s.requestClaim c q i = s.blocked c := by
  rw [State.requestClaim]
  obtain h | h := h <;> rw [h]

theorem State.requestClaim_granted (h : s.claimAnswer c i = .granted) :
    s.requestClaim c q i = (s.takeLanes c (s.pendingInterval c i)).deliverGrant c := by
  rw [State.requestClaim, h]

theorem State.requestClaim_pending (h : s.claimAnswer c i = .pending) : s.requestClaim c q i =
    s.modTable (sideOf c) fun t => { t with pend := t.pend ++ [⟨c, q, s.pendingInterval c i⟩] } := by
  rw [State.requestClaim, h]

theorem State.carr_blocked_state : ((s.blocked c).carr c).state = .idle := by
  rw [State.blocked, State.carr_toIdle]

theorem State.deliverGrant_linkOut {p : Pos} (h : (s.carr c).target = some p) :
    (s.deliverGrant c).linkOut = s.linkOut ++ [(c, .move p)] := by
  rw [State.deliverGrant, h]
  rfl

theorem State.takeLanes_table : (s.takeLanes c j).table (sideOf c) =
    { s.table (sideOf c) with cells := paint j (some c) (s.table (sideOf c)).cells } := by
  rw [State.takeLanes, State.table_modTable, if_pos rfl]

/-- A request changes nothing of the other side. -/
theorem State.requestClaim_other {d : Side} (h : d ≠ sideOf c) : (s.requestClaim c q i).table d = s.table d := by
  cases answer : s.claimAnswer c i with
  | granted =>
    rw [State.requestClaim_granted answer, State.confined_deliverGrant.table]
    exact State.takeLanes_other _ _ _ h
  | pending => rw [State.requestClaim_pending answer, State.table_modTable, if_neg h]
  | blocked => rw [State.requestClaim_refused (.inr answer), State.confined_blocked.table]
  | denied => rw [State.requestClaim_refused (.inl answer), State.confined_blocked.table]
end

/-! ## Reviews (R29) -/

/-- What keeps an entry waiting: a lane of another carriage, or an older entry. -/
def KeptWaiting (cells : List (Option Carriage)) (older : List ClaimEntry) (e : ClaimEntry) : Prop :=
  (∃ (n : Nat) (x : Carriage), e.span.lo ≤ n ∧ n ≤ e.span.hi ∧ cells[n]? = some (some x) ∧ x ≠ e.carriage) ∨
    ∃ o ∈ older, o.span.lo ≤ e.span.hi ∧ e.span.lo ≤ o.span.hi

/-- The lanes of an entry are its carriage's. -/
def OwnsSpan (cells : List (Option Carriage)) (e : ClaimEntry) : Prop :=
  ∀ n : Nat, e.span.lo ≤ n → n ≤ e.span.hi → n < 128 → cells[n]? = some (some e.carriage)

/-- A walk of a review over the entries `rest` of side `d` from `s`, older ones `kept` having stayed, has led to `v`, with
the entries `stay` of them staying. -/
structure Reviewed (d : Side) (rest kept : List ClaimEntry) (s v : State) (stay : List ClaimEntry) : Prop where
  pend : (v.table d).pend = kept ++ stay
  stays : stay.Sublist rest
  waiting : ∀ a e b, stay = a ++ e :: b → KeptWaiting (v.table d).cells (kept ++ a) e
  granted : ∀ e ∈ rest, e ∉ stay → OwnsSpan (v.table d).cells e
  lanes : ∀ (n : Nat) (x : Carriage), (s.table d).cells[n]? = some (some x) → (v.table d).cells[n]? = some (some x)
  other : ∀ b, b ≠ d → v.table b = s.table b

section
variable {s v : State} {d : Side} {e : ClaimEntry} {rest kept stay : List ClaimEntry}

theorem not_grantable {cells : List (Option Carriage)}
    (h : ¬ (lanesFreeFor e.carriage e.span cells && clearOf e.span kept) = true) : KeptWaiting cells kept e := by
  rw [Bool.and_eq_true, lanesFreeFor_iff_owned, clearOf_iff, not_and_or] at h
  push Not at h
  exact h

theorem KeptWaiting.lanes {cells cells' : List (Option Carriage)} (h : KeptWaiting cells kept e)
    (keep : ∀ (n : Nat) (x : Carriage), cells[n]? = some (some x) → cells'[n]? = some (some x)) :
    KeptWaiting cells' kept e :=
  h.imp (fun ⟨n, x, lo, hi, cell, other⟩ => ⟨n, x, lo, hi, keep n x cell, other⟩) id

/-- The walk goes on behind an entry that stays. -/
theorem Reviewed.behind (h : Reviewed d rest (kept ++ [e]) s v stay) (waits : KeptWaiting (s.table d).cells kept e) :
    Reviewed d (e :: rest) kept s v (e :: stay) where
  pend := by rw [h.pend, List.append_assoc, List.singleton_append]
  stays := h.stays.cons_cons e
  waiting a f b split := by
    cases a with
    | nil =>
      obtain ⟨rfl, -⟩ := List.cons.inj split
      rw [List.append_nil]
      exact waits.lanes h.lanes
    | cons g a =>
      obtain ⟨rfl, behind⟩ := List.cons.inj split
      have later := h.waiting a f b behind
      rwa [List.append_assoc, List.singleton_append] at later
  granted f hf gone := by
    obtain rfl | later := List.mem_cons.1 hf
    · exact absurd List.mem_cons_self gone
    · exact h.granted f later fun there => gone (List.mem_cons_of_mem _ there)
  lanes := h.lanes
  other := h.other

/-- The walk goes on behind an entry that is granted. -/
theorem Reviewed.grant {t : State} (h : Reviewed d rest kept t v stay) (owns : OwnsSpan (t.table d).cells e)
    (keep : ∀ (n : Nat) (x : Carriage), (s.table d).cells[n]? = some (some x) → (t.table d).cells[n]? = some (some x))
    (other : ∀ b, b ≠ d → t.table b = s.table b) : Reviewed d (e :: rest) kept s v stay where
  pend := h.pend
  stays := h.stays.cons e
  waiting := h.waiting
  granted f hf gone := by
    obtain rfl | later := List.mem_cons.1 hf
    · exact fun n lo hi lane => h.lanes n _ (owns n lo hi lane)
    · exact h.granted f later gone
  lanes n x cell := h.lanes n x (keep n x cell)
  other b hb := (h.other b hb).trans (other b hb)

/-- The lanes of an entry once it is granted. -/
theorem State.ownsSpan_grant (laws : s.ClaimLaws) (he : e ∈ (s.table d).pend) :
    OwnsSpan ((s.takeLanes e.carriage e.span).table d).cells e := by
  obtain ⟨rfl, -⟩ := (laws.table d).covers e he
  intro n lo hi lane
  rw [State.takeLanes_table]
  have cells : n < (s.table (sideOf e.carriage)).cells.length := by
    rw [(laws.table _).lanes]
    exact lane
  rw [paint_getElem?, List.getElem?_eq_getElem cells, Option.map_some, if_pos ⟨lo, hi⟩]

theorem reviewWalk_reviewed (laws : s.ClaimLaws) (listed : ∀ e ∈ rest, e ∈ (s.table d).pend) :
    ∃ stay, Reviewed d rest kept s (reviewWalk d rest kept s) stay := by
  induction rest generalizing s kept with
  | nil =>
    refine ⟨[], ?_, .refl _, fun a e b h => absurd h (by simp), fun e h => absurd h List.not_mem_nil, fun n x cell => ?_,
      fun b other => ?_⟩
    · rw [reviewWalk, State.table_modTable, if_pos rfl, List.append_nil]
    · rwa [reviewWalk, State.table_modTable, if_pos rfl]
    · rw [reviewWalk, State.table_modTable, if_neg other]
  | cons e rest ih =>
    have mem := listed e List.mem_cons_self
    obtain ⟨side, -⟩ := (laws.table d).covers e mem
    rw [reviewWalk]
    split
    next free =>
      obtain ⟨free, -⟩ := Bool.and_eq_true _ _ ▸ free
      have sent : Confined [.carriages, .linkOut] (s.takeLanes e.carriage e.span)
          ((s.takeLanes e.carriage e.span).deliverGrant e.carriage) := State.confined_deliverGrant
      have laws' := (laws.grant mem free).congr sent.claims (congrArg RunCtl.saved sent.run)
      obtain ⟨stay, later⟩ := ih (kept := kept) laws' fun f hf => by
        rw [sent.table, Kept.takeLanes_pend]
        exact listed f (List.mem_cons_of_mem _ hf)
      refine ⟨stay, later.grant (e := e) ?_ (fun n x cell => ?_) fun b other => ?_⟩
      · rw [sent.table]
        exact State.ownsSpan_grant laws mem
      · rw [sent.table]
        exact State.takeLanes_keeps _ free cell
      · rw [sent.table]
        exact State.takeLanes_other _ _ _ (side ▸ other)
    next held =>
      rw [side] at held
      obtain ⟨stay, later⟩ := ih (kept := kept ++ [e]) laws fun f hf => listed f (List.mem_cons_of_mem _ hf)
      exact ⟨e :: stay, later.behind (not_grantable held)⟩
end

end Sys2Proof.Machine

open Sys2Proof Sys2Proof.Machine in
/-- Settles O54, by the first case of a request that applies. -/
theorem claimAnswers : Obligations.ClaimAnswers := by
  intro s c q i p target t j denied frozen open_ u
  have denied_iff : denied ↔ s.claimOf c = none ∨ (s.carr c).state = .fault ∨ s.pendingOf c ≠ none := by
    rw [State.claimOf_none_iff, State.pendingOf_ne_none_iff]
  have interval : j = s.pendingInterval c i := by
    simp only [j, State.pendingInterval]
    cases s.claimOf c <;> rfl
  have frozen_iff : frozen ↔ s.meetsFault (sideOf c) (s.pendingInterval c i) = true := by
    rw [State.meetsFault_iff, ← interval]
  have open_iff : open_ ↔ lanesFreeFor c (s.pendingInterval c i) (s.table (sideOf c)).cells = true ∧
      clearOf (s.pendingInterval c i) (s.table (sideOf c)).pend = true := by
    rw [lanesFreeFor_iff_owned, clearOf_iff, ← interval]
  have answer (h : ¬ denied) := State.claimAnswer_eq (i := i) (mt denied_iff.2 h)
  refine ⟨fun d other => State.requestClaim_other other, fun refused => ?_, fun clean sound free => ?_,
    fun clean sound waits => ?_⟩
  · have refuses : u = s.blocked c := by
      refine State.requestClaim_refused ?_
      by_cases den : denied
      · exact .inl (State.claimAnswer_denied (denied_iff.1 den))
      · exact .inr ((answer den).trans (if_pos (frozen_iff.1 (refused.resolve_left den))))
    rw [refuses]
    exact ⟨State.confined_blocked.claims, fun _ => State.carr_blocked_state⟩
  · have granted : u = (s.takeLanes c (s.pendingInterval c i)).deliverGrant c :=
      State.requestClaim_granted (((answer clean).trans (if_neg (mt frozen_iff.2 sound))).trans (if_pos (open_iff.1 free)))
    have target' : ((s.takeLanes c j).carr c).target = some p := target
    rw [← interval] at granted
    rw [granted, State.confined_deliverGrant.table, State.takeLanes_table, State.carr_deliverGrant target',
      State.deliverGrant_linkOut target']
    exact ⟨rfl, rfl, rfl, rfl⟩
  · rw [interval]
    exact State.requestClaim_pending
      (((answer clean).trans (if_neg (mt frozen_iff.2 sound))).trans (if_neg (mt open_iff.2 waits)))

open Sys2Proof Sys2Proof.Machine in
/-- Settles O55, by the walk of a review. -/
theorem reviewGrants : Obligations.ReviewGrants := by
  intro s d laws t v
  obtain ⟨stay, walk⟩ := reviewWalk_reviewed (kept := []) laws fun e (he : e ∈ (s.table d).pend) => he
  have pend : v.pend = stay := walk.pend
  rw [pend]
  exact ⟨fun older younger e split => walk.waiting older e younger split, walk.stays, walk.granted, walk.lanes, walk.other⟩
end

section
/-! PROOFS. The end of a travel: a release within the claim, the review it sets off, and what the carriage does at rest (R29,
R32, R51, R52). -/

set_option Elab.async false

namespace Sys2Proof.Machine

/-! ## What a review leaves to the carriages it does not grant -/

section
variable {s : State} {c x : Carriage} {d : Side} {i k : Interval} {p : Pos} {rest kept : List ClaimEntry}

/-- A grant leaves the lanes of another carriage, and gives it none. -/
theorem State.owns_takeLanes_ne (ne : x ≠ c) (free : lanesFreeFor c i (s.table (sideOf c)).cells = true) (d : Side) (n : Nat) :
    Owns ((s.takeLanes c i).table d).cells n x ↔ Owns (s.table d).cells n x := by
  by_cases side : d = sideOf c
  · subst side
    rw [State.takeLanes_cells_same, owns_paint]
    refine ⟨fun h => h.elim (fun taken => absurd taken.2.2.2 ne) And.left, fun cell => .inr ⟨cell, fun inside => ?_⟩⟩
    exact ne ((lanesFreeFor_iff_owned _).1 free n x inside.1 inside.2 cell)
  · rw [State.takeLanes_other _ _ _ side]

/-- A review leaves the record and the lanes of a carriage that has no entry in its list. -/
theorem reviewWalk_ne (none_ : ∀ e ∈ rest, e.carriage ≠ x) : (reviewWalk d rest kept s).carr x = s.carr x ∧
    ∀ b n, Owns ((reviewWalk d rest kept s).table b).cells n x ↔ Owns (s.table b).cells n x := by
  induction rest generalizing s kept with
  | nil =>
    rw [reviewWalk]
    refine ⟨rfl, fun b n => ?_⟩
    rw [State.table_modTable]
    split
    · next e => rw [e]
    · rfl
  | cons e rest ih =>
    have other : x ≠ e.carriage := (none_ e List.mem_cons_self).symm
    have later : ∀ f ∈ rest, f.carriage ≠ x := fun f hf => none_ f (List.mem_cons_of_mem _ hf)
    rw [reviewWalk]
    split
    next free =>
      obtain ⟨free, -⟩ := Bool.and_eq_true _ _ ▸ free
      obtain ⟨carr, lanes⟩ := ih (s := (s.takeLanes e.carriage e.span).deliverGrant e.carriage) (kept := kept) later
      refine ⟨carr.trans (State.carr_deliverGrant_ne other), fun b n => (lanes b n).trans ?_⟩
      rw [State.confined_deliverGrant.table]
      exact State.owns_takeLanes_ne other free b n
    next => exact ih later

theorem State.review_ne (none_ : ∀ e ∈ (s.table d).pend, e.carriage ≠ x) : (s.review d).carr x = s.carr x ∧
    ∀ b n, Owns ((s.review d).table b).cells n x ↔ Owns (s.table b).cells n x := reviewWalk_ne none_

/-! ## Releases (R32) -/

/-- The owners of the lanes once a claim has shrunk to an interval within it. -/
theorem ClaimTable.Lawful.owns_shrink {t : ClaimTable} (h : t.Lawful d) (hk : claimFrom c 0 t.cells = some k)
    (within : i.within k = true) (n : Nat) (x : Carriage) : Owns (paint i (some c) (freeCells c t.cells)) n x ↔
      (x = c ∧ i.lo ≤ n ∧ n ≤ i.hi) ∨ (x ≠ c ∧ Owns t.cells n x) := by
  obtain ⟨-, first, last, -⟩ := claimFrom_spec hk
  simp only [Interval.within, Bool.and_eq_true, decide_eq_true_eq] at within
  have own (a : Nat) (lo : i.lo ≤ a) (hi : a ≤ i.hi) : Owns t.cells a c :=
    h.contiguous c _ _ a first last (by omega) (by omega)
  rw [owns_paint, owns_freeCells]
  constructor
  · rintro (⟨-, lo, hi, rfl⟩ | ⟨other, -⟩)
    · exact .inl ⟨rfl, lo, hi⟩
    · exact .inr other
  · rintro (⟨rfl, lo, hi⟩ | ⟨ne, cell⟩)
    · exact .inl ⟨by simpa using (own n lo hi).lt, lo, hi, rfl⟩
    · refine .inr ⟨⟨ne, cell⟩, fun ⟨lo, hi⟩ => ne ?_⟩
      exact Option.some.inj (Option.some.inj (cell.symm.trans (own n lo hi)))

/-- A carriage whose lanes are those of an interval has it as its claim. -/
theorem claimFrom_eq_some {l : List (Option Carriage)} (order : i.lo ≤ i.hi)
    (h : ∀ n, Owns l n c ↔ i.lo ≤ n ∧ n ≤ i.hi) : claimFrom c 0 l = some i := by
  obtain ⟨j, hj⟩ := claimFrom_of_owns ((h i.lo).2 ⟨le_rfl, order⟩)
  obtain ⟨-, first, last, all⟩ := claimFrom_spec hj
  have lo := (h _).1 first
  have hi := (h _).1 last
  have lo' := all _ ((h i.lo).2 ⟨le_rfl, order⟩)
  have hi' := all _ ((h i.hi).2 ⟨order, le_rfl⟩)
  rw [hj]
  congr 1
  cases i
  cases j
  simp only [Interval.mk.injEq] at lo hi lo' hi' ⊢
  omega

/-- Carriage `c` has released all of its claim but `i` at position `p`, from `s` to `v`. -/
structure Released (c : Carriage) (i : Interval) (p : Pos) (s v : State) : Prop where
  rest : Confined [.claims, .carriages, .linkOut, .disp] s v
  claim : v.claimOf c = some i
  carr : v.carr c = { s.carr c with position := some p }
  side : ∀ x, sideOf x ≠ sideOf c → v.carr x = s.carr x
  table : ∀ d, d ≠ sideOf c → v.table d = s.table d
  lanes : ∀ (x : Carriage) (n : Nat), x ≠ c → Owns (s.table (sideOf c)).cells n x → Owns (v.table (sideOf c)).cells n x

section
variable (laws : s.ClaimLaws) (claim : s.claimOf c = some k) (within : i.within k = true)
include laws claim within

/-- The claim and the position of a release, before the review. -/
theorem State.shrink_released :
    Released c i p s ((s.shrinkLanes c i).modCarr c fun r => { r with position := some p }) := by
  have table : ((s.shrinkLanes c i).table (sideOf c)).cells = paint i (some c) (freeCells c (s.table (sideOf c)).cells) := by
    rw [State.shrinkLanes, State.table_modTable, if_pos rfl]
  have owners := (laws.table (sideOf c)).owns_shrink claim within
  have order : i.lo ≤ i.hi := by
    simp only [Interval.within, Bool.and_eq_true, decide_eq_true_eq] at within
    exact within.1.1
  refine ⟨(State.confined_shrinkLanes.mono).andThen State.confined_modCarr, ?_, ?_, fun x other => ?_, fun d other => ?_,
    fun x n ne cell => ?_⟩
  · rw [State.claimOf, State.confined_modCarr.table, table]
    exact claimFrom_eq_some order fun n => by simp [owners]
  · rw [State.carr_modCarr_same]
    rfl
  · exact State.carr_modCarr_ne _ _ fun same => other (congrArg sideOf same)
  · rw [State.confined_modCarr.table, State.shrinkLanes, State.table_modTable, if_neg other]
  · rw [State.confined_modCarr.table, table]
    exact (owners n x).2 (.inr ⟨ne, cell⟩)

/-- A release within the claim is accepted. -/
theorem State.release_within (position : s.setup.span c (s.setup.laneFor c p.x) = i) (alone : s.pendingOf c = none) :
    ∃ v, s.release c p = some v ∧ Released c i p s v := by
  let t := (s.shrinkLanes c i).modCarr c fun r => { r with position := some p }
  have shrunk : Released c i p s t := State.shrink_released laws claim within
  have released : s.release c p = some (if i = k then t else (t.review (sideOf c)).markScan) := by
    rw [State.release]
    simp only [claim, position]
    exact if_pos within
  by_cases whole : i = k
  · exact ⟨t, released.trans (congrArg some (if_pos whole)), shrunk⟩
  · refine ⟨(t.review (sideOf c)).markScan, released.trans (congrArg some (if_neg whole)), ?_⟩
    have pend : (t.table (sideOf c)).pend = (s.table (sideOf c)).pend := by
      rw [State.confined_modCarr.table, State.shrinkLanes, State.table_modTable, if_pos rfl]
    have noEntry : ∀ e ∈ (t.table (sideOf c)).pend, e.carriage ≠ c := by
      rw [pend]
      exact State.not_pending alone
    have laws' : t.ClaimLaws :=
      State.ClaimLaws.congr (s := s.shrinkLanes c i) (laws.modTable ((laws.table _).release claim within)) rfl rfl
    obtain ⟨carr, lanes⟩ := State.review_ne noEntry
    obtain ⟨stay, walk⟩ := reviewWalk_reviewed (kept := []) laws' fun e (he : e ∈ (t.table (sideOf c)).pend) => he
    refine ⟨((shrunk.rest.andThen State.confined_review)).andThen State.confined_markScan, ?_, carr.trans shrunk.carr,
      fun x other => ?_, fun d other => (walk.other d other).trans (shrunk.table d other),
      fun x n ne cell => walk.lanes n x (shrunk.lanes x n ne cell)⟩
    · exact (claimFrom_congr fun n => lanes (sideOf c) n).trans shrunk.claim
    · refine (State.review_ne fun e he same => other ?_).1.trans (shrunk.side x other)
      rw [← same]
      exact ((laws'.table _).covers e he).1
end
end

/-! ## The end of a travel (R51) -/

section
variable {s : State} {c x : Carriage}

theorem State.carr_travelDone_ne (h : x ≠ c) : (s.travelDone c).carr x = s.carr x := by
  unfold State.travelDone
  dsimp only
  split
  · split
    · exact State.carr_toIdle_ne h
    · exact State.carr_enterDescend_ne h
  · split
    · exact State.carr_toIdle_ne h
    · exact State.carr_enterDescend_ne h
  · exact (State.carr_toIdle_ne h).trans (State.confined_yieldArrived.carr x)
  all_goals exact State.carr_toIdle_ne h

theorem State.travelDone_lands (purpose : (s.carr c).purpose = some .step ∨ (s.carr c).purpose = some .scrub)
    (serves : (s.carr c).ended = false) : s.travelDone c = s.enterDescend c := by
  unfold State.travelDone
  obtain purpose | purpose := purpose <;> simp only [purpose, serves] <;> rfl

/-- A travel that leads to no landing ends in IDLE, a yield reporting its lane first. -/
theorem State.travelDone_rests
    (h : ¬ (((s.carr c).purpose = some .step ∨ (s.carr c).purpose = some .scrub) ∧ (s.carr c).ended = false)) :
    ∃ t, Confined [.disp] s t ∧ s.travelDone c = t.toIdle c := by
  unfold State.travelDone
  dsimp only
  split
  · next step => exact ⟨s, .refl _ s, if_pos (by simpa [step] using h)⟩
  · next scrub => exact ⟨s, .refl _ s, if_pos (by simpa [scrub] using h)⟩
  · exact ⟨s.yieldArrived c (s.laneNow c), State.confined_yieldArrived, rfl⟩
  all_goals exact ⟨s, .refl _ s, rfl⟩

theorem State.toIdle_scan : (s.toIdle c).disp.scan = true := rfl

/-- The end of a travel leaves the position. -/
theorem State.travelDone_position : ((s.travelDone c).carr c).position = (s.carr c).position := by
  by_cases lands : ((s.carr c).purpose = some .step ∨ (s.carr c).purpose = some .scrub) ∧ (s.carr c).ended = false
  · rw [State.travelDone_lands lands.1 lands.2, State.carr_enterDescend]
    rfl
  · obtain ⟨t, told, ends⟩ := State.travelDone_rests lands
    rw [ends, State.carr_toIdle, told.carr]
end

/-! ## Responses that end a travel -/

section
variable {s : State} {c : Carriage} {p : Pos} {k i : Interval}

/-- A position within the claim, reported in TRAVEL, is taken once the response has settled the request. -/
theorem State.offerPosition_within (laws : s.ClaimLaws) (alone : s.pendingOf c = none) (claim : s.claimOf c = some k)
    (within : (s.setup.span c (s.setup.laneFor c p.x)).within k = true) (f : State → State) :
    ∃ v, (s.settle c).offerPosition c p f = f v ∧
      Released c (s.setup.span c (s.setup.laneFor c p.x)) p (s.settle c) v := by
  obtain ⟨v, released, rest⟩ := State.release_within (s := s.settle c) (p := p) (laws.congr rfl rfl) claim within rfl alone
  refine ⟨v, ?_, rest⟩
  rw [State.offerPosition, released]

end

end Sys2Proof.Machine

open Sys2Proof Sys2Proof.Machine in
/-- Settles O22: the release, and then the end of the travel by its purpose. -/
theorem arrivedCompletesTravel : Obligations.ArrivedCompletesTravel := by
  intro s c p k laws travel awaits alone claim within
  obtain ⟨v, taken, released⟩ := State.offerPosition_within laws alone claim within fun s => s.travelDone c
  have settled : Confined [.carriages] s (s.settle c) := State.confined_settle
  have done : Confined [.carriages, .linkOut, .disp] v (v.travelDone c) := State.confined_travelDone
  have all : Confined [.claims, .carriages, .linkOut, .disp] s (v.travelDone c) :=
    (settled.mono.andThen released.rest).andThen done
  have carr : v.carr c = _ := released.carr.trans (congrArg (fun r : CarriageRec => { r with position := some p }) State.carr_settle)
  have purpose : (v.carr c).purpose = (s.carr c).purpose := by rw [carr]; rfl
  have ended : (v.carr c).ended = (s.carr c).ended := by rw [carr]; rfl
  have side (x : Carriage) (other : sideOf x ≠ sideOf c) : x ≠ c := fun same => other (congrArg sideOf same)
  have run : v.run = s.run := released.rest.run
  have setup : v.setup = s.setup := released.rest.setup
  refine ⟨v.travelDone c, ?_, all.eq_mix, ?_, ?_, ?_, fun x other => ?_, fun d other => ?_, fun x n ne cell => ?_⟩
  · change execArrived c p s = _
    rw [execArrived, ← taken]
    exact if_pos ⟨travel, awaits⟩
  · rw [State.claimOf, done.table]
    exact released.claim
  · rw [State.travelDone_position, carr]
  · rw [← purpose, ← ended]
    split
    next lands =>
      rw [State.travelDone_lands lands.1 lands.2, State.carr_enterDescend, run, setup]
      exact ⟨rfl, rfl, rfl, rfl⟩
    next rests =>
      obtain ⟨t, told, ends⟩ := State.travelDone_rests rests
      rw [ends, State.carr_toIdle, told.carr, carr]
      exact ⟨rfl, rfl, rfl, rfl, rfl, rfl⟩
  · exact (State.carr_travelDone_ne (side x other)).trans ((released.side x other).trans
      (State.carr_modCarr_ne _ _ (side x other)))
  · rw [done.table]
    exact released.table d other
  · rw [done.table]
    exact released.lanes x n ne cell

open Sys2Proof Sys2Proof.Machine in
/-- Settles O23: the release, and then IDLE. -/
theorem haltedComesToRest : Obligations.HaltedComesToRest := by
  intro s c p k laws travel awaits alone claim within
  obtain ⟨v, taken, released⟩ := State.offerPosition_within laws alone claim within fun s => s.toIdle c
  have settled : Confined [.carriages] s (s.settle c) := State.confined_settle
  have done : Confined [.carriages, .disp] v (v.toIdle c) := State.confined_toIdle
  have all : Confined [.claims, .carriages, .linkOut, .disp] s (v.toIdle c) :=
    (settled.mono.andThen released.rest).andThen done
  have side (x : Carriage) (other : sideOf x ≠ sideOf c) : x ≠ c := fun same => other (congrArg sideOf same)
  refine ⟨v.toIdle c, ?_, all.eq_mix, ?_, ?_, State.toIdle_scan, fun x other => ?_, fun x n ne cell => ?_⟩
  · change execHalted c p s = _
    rw [execHalted, ← taken]
    exact if_pos ⟨travel, awaits⟩
  · rw [State.claimOf, done.table]
    exact released.claim
  · rw [State.carr_toIdle, released.carr, State.carr_settle]
    cases timer : (s.carr c).timer <;> simp [CarriageRec.stopTimer, timer]
  · exact (State.carr_toIdle_ne (side x other)).trans ((released.side x other).trans
      (State.carr_modCarr_ne _ _ (side x other)))
  · rw [done.table]
    exact released.lanes x n ne cell
end

section
/-! PROOFS. Rounding, values and clip values (R110, R111, R131 to R135). -/

set_option Elab.async false

namespace Sys2Proof.Machine

/-! ## Rounding (R131) -/

section
variable {den : Nat}

/-- The magnitude of a rounded quotient. -/
def roundedMagnitude (n den : Nat) : Nat := (2 * n + den) / (2 * den)

theorem divRound_eq (num : Int) (den : Nat) : divRound num den =
    if num < 0 then -(roundedMagnitude num.natAbs den : Int) else roundedMagnitude num.natAbs den := rfl

theorem divRound_nat (n den : Nat) : divRound n den = roundedMagnitude n den := by
  rw [divRound_eq, if_neg (by omega), Int.natAbs_natCast]

theorem divRound_nat_nonneg (n den : Nat) : 0 ≤ divRound n den := by
  rw [divRound_nat]
  exact Int.natCast_nonneg _

/-- The rounded magnitude lies within half a unit of the quotient, below it by less than half. -/
theorem roundedMagnitude_near (n : Nat) (h : 0 < den) :
    2 * (roundedMagnitude n den * den) ≤ 2 * n + den ∧ 2 * n < 2 * (roundedMagnitude n den * den) + den := by
  have whole := Nat.div_add_mod (2 * n + den) (2 * den)
  have part := Nat.mod_lt (2 * n + den) (show 0 < 2 * den by omega)
  have same : 2 * den * ((2 * n + den) / (2 * den)) = 2 * (roundedMagnitude n den * den) := by
    rw [roundedMagnitude]
    ring
  omega

theorem divRound_near (num : Int) (h : 0 < den) : 2 * |divRound num den * den - num| ≤ den ∧
    (2 * |divRound num den * den - num| = den → |num| ≤ |divRound num den * den|) := by
  obtain ⟨up, down⟩ := roundedMagnitude_near num.natAbs h
  have prod : (roundedMagnitude num.natAbs den : Int) * den = (roundedMagnitude num.natAbs den * den : Nat) := by
    push_cast
    rfl
  generalize roundedMagnitude num.natAbs den * den = w at up down prod
  simp only [divRound_eq, Int.abs_eq_natAbs]
  split
  next neg =>
    rw [neg_mul, prod]
    omega
  next nonneg =>
    rw [prod]
    omega

theorem roundedMagnitude_mono {a b : Nat} (h : a ≤ b) (den : Nat) : roundedMagnitude a den ≤ roundedMagnitude b den :=
  Nat.div_le_div_right (by omega)

/-- A larger divisor of a smaller number rounds to no more. -/
theorem roundedMagnitude_le {a b d e : Nat} (hd : 0 < d) (hde : d ≤ e) (hab : a ≤ b) :
    roundedMagnitude a e ≤ roundedMagnitude b d := by
  obtain ⟨-, below⟩ := roundedMagnitude_near b hd
  have wide : d * (2 * roundedMagnitude b d + 1) ≤ e * (2 * roundedMagnitude b d + 1) := Nat.mul_le_mul_right _ hde
  have left : d * (2 * roundedMagnitude b d + 1) = 2 * (roundedMagnitude b d * d) + d := by ring
  have right : 2 * e * (roundedMagnitude b d + 1) = e * (2 * roundedMagnitude b d + 1) + e := by ring
  have small : 2 * a + e < 2 * e * (roundedMagnitude b d + 1) := by omega
  exact Nat.le_of_lt_succ (Nat.div_lt_of_lt_mul small)
end

/-! ## Clip values (R134, R135) -/

theorem rangeCurrent_le {r : Nat} (h : r ≤ 3) : rangeCurrent r ≤ rangeCurrent 3 :=
  Nat.mul_le_mul_left _ (Nat.pow_le_pow_right (by decide) h)

theorem capacitanceRaw_eq (ticks range threshold : Nat) :
    capacitanceRaw ticks range threshold = roundedMagnitude (5 * rangeCurrent range * ticks) threshold :=
  divRound_nat _ _

/-- The largest CAP value is that of range 3 and 100 mV. -/
theorem capacitanceClip_le {r threshold : Nat} (hr : r ≤ 3) (ht : 100 ≤ threshold) :
    capacitanceClip r threshold ≤ capacitanceClip 3 100 := by
  rw [capacitanceClip, capacitanceClip, capacitanceRaw_eq, capacitanceRaw_eq, Int.ofNat_le]
  exact roundedMagnitude_le (by decide) ht (Nat.mul_le_mul_right _ (Nat.mul_le_mul_left _ (rangeCurrent_le hr)))

theorem resistanceValue_bounds (a : Int) (n range gain leads : Nat) :
    0 ≤ resistanceValue a n range gain leads ∧ resistanceValue a n range gain leads ≤ resistanceClip range gain :=
  ⟨le_min (le_max_left _ _) (divRound_nat_nonneg _ _), min_le_right _ _⟩

/-- Within the timer limit a capacitance does not exceed its clip value. -/
theorem capacitanceValue_bounds {ticks : Nat} (range threshold strays : Nat) (h : ticks ≤ 16777215) :
    0 ≤ capacitanceValue ticks range threshold strays ∧
      capacitanceValue ticks range threshold strays ≤ capacitanceClip range threshold := by
  refine ⟨le_max_left _ _, max_le ?_ ?_⟩
  · exact divRound_nat_nonneg _ _
  · have raw : capacitanceRaw ticks range threshold ≤ capacitanceClip range threshold := by
      rw [capacitanceClip, capacitanceRaw_eq, capacitanceRaw_eq, Int.ofNat_le]
      exact roundedMagnitude_mono (Nat.mul_le_mul_left _ h) _
    omega

end Sys2Proof.Machine

open Sys2Proof Sys2Proof.Machine in
/-- Settles O59: rounding, the clipped conversions, the printed tables, and the bounds of resistances and capacitances. -/
theorem valuesAndClips : Obligations.ValuesAndClips := by
  refine ⟨fun num den h => divRound_near num h, fun k a n range gain leads => ?_,
    fun stop ticks range gain threshold strays h => ?_, fun k range gain threshold e => ?_, ⟨by decide, by decide, by decide⟩,
    by decide, ⟨by decide, fun r threshold => capacitanceClip_le⟩, resistanceValue_bounds,
    fun ticks range threshold strays => capacitanceValue_bounds range threshold strays⟩
  · exact sampledConversion_clipped ..
  · exact chargeConversion_clipped h ..
  · cases k <;> cases e <;> rfl
end

section
/-! PROOFS. The phases of the Measurement Unit: the comparator watch over a change of the unit, the stimulus, the pre-check,
and the ends of the phases that lead to another (R112 to R115, R120, R146, R147). -/

set_option Elab.async false

namespace Sys2Proof.Machine

/-! ## The comparator watch (R147) -/

/-- A dwell runs. -/
def MeasUnit.dwells (u : MeasUnit) : Bool := u.phase == some .dwell || u.phase == some .guardDwell

theorem MeasUnit.watchesSense_iff (u : MeasUnit) : u.watchesSense = true ↔ u.source = .board ∨ u.dwells = true := by
  unfold MeasUnit.watchesSense MeasUnit.dwells
  cases u.phase with
  | none => simp
  | some p => cases p <;> simp [Phase.isDwell]

theorem MeasUnit.watchesSource_iff (u : MeasUnit) : u.watchesSource = true ↔ u.source = .board := beq_iff_eq

/-- The cut mark of a comparator once its timer has stopped. -/
def State.markAfter (timer mark : Option Nat) (s : State) : Option Nat :=
  if timer ≠ none then some s.clock
  else if s.mu.phase = some .precheck ∨ s.mu.phase = some .dummy then none else mark

/-- The Guard once the unit has changed to `m`. -/
def State.watchAfter (m : MeasUnit) (s : State) : Guard :=
  if s.mu.source = .board ∧ m.source = .board then s.guard else { s.guard with
    senseTimer := if (m.source = .board ∨ m.dwells = true) ∧ s.pins.sense = true then some s.clock else none
    sourceTimer := if m.source = .board ∧ s.pins.source = true then some s.clock else none
    senseRaised := false, sourceRaised := false
    senseCut := s.markAfter s.guard.senseTimer s.guard.senseCut
    sourceCut := s.markAfter s.guard.sourceTimer s.guard.sourceCut }

section
variable {s : State} {f : MeasUnit → MeasUnit} {m m' : MeasUnit}

theorem unwatched_iff (q : Option Phase) : q.any Phase.unwatched = true ↔ q = some .precheck ∨ q = some .dummy := by
  cases q with
  | none => simp
  | some p => cases p <;> simp [Phase.unwatched]

/-- What a fresh watch makes of a Guard whose marks are those of `g`. -/
theorem State.beginWatch_guard {t : State} : t.beginWatch.guard = { t.guard with
    senseTimer := if (t.mu.source = .board ∨ t.mu.dwells = true) ∧ t.pins.sense = true then some t.clock else none
    sourceTimer := if t.mu.source = .board ∧ t.pins.source = true then some t.clock else none
    senseRaised := false, sourceRaised := false
    senseCut := if t.guard.senseTimer ≠ none then some t.clock else t.guard.senseCut
    sourceCut := if t.guard.sourceTimer ≠ none then some t.clock else t.guard.sourceCut } := by
  have sense : (if t.mu.watchesSense && t.pins.sense then some t.clock else none) =
      if (t.mu.source = .board ∨ t.mu.dwells = true) ∧ t.pins.sense = true then some t.clock else none :=
    if_congr (by rw [Bool.and_eq_true, MeasUnit.watchesSense_iff]) rfl rfl
  have source : (if t.mu.watchesSource && t.pins.source then some t.clock else none) =
      if t.mu.source = .board ∧ t.pins.source = true then some t.clock else none :=
    if_congr (by rw [Bool.and_eq_true, MeasUnit.watchesSource_iff]) rfl rfl
  have cut (timer mark : Option Nat) : (if timer.isSome then some t.clock else mark) =
      if timer ≠ none then some t.clock else mark := if_congr Option.isSome_iff_ne_none rfl rfl
  rw [← sense, ← source, ← cut, ← cut]
  rfl

theorem State.muStep_guard : (s.muStep f).guard = s.watchAfter (f s.mu) := by
  have stepped : s.muStep f = if s.mu.source = .board ∧ (f s.mu).source = .board then s.updMu f
      else if s.mu.phase.any Phase.unwatched then ((s.updMu f).updGuard Guard.uncut).beginWatch
      else (s.updMu f).beginWatch := rfl
  rw [stepped, State.watchAfter]
  by_cases board : s.mu.source = .board ∧ (f s.mu).source = .board
  · rw [if_pos board, if_pos board]
    rfl
  · rw [if_neg board, if_neg board]
    by_cases unwatched : s.mu.phase = some .precheck ∨ s.mu.phase = some .dummy
    · rw [if_pos ((unwatched_iff _).2 unwatched), State.beginWatch_guard, State.markAfter, State.markAfter,
        if_pos unwatched, if_pos unwatched]
      rfl
    · rw [if_neg (mt (unwatched_iff _).1 unwatched), State.beginWatch_guard, State.markAfter, State.markAfter,
        if_neg unwatched, if_neg unwatched]
      rfl

/-- The whole of what a change of the unit does. -/
theorem State.muStep_whole : s.muStep f = { s with mu := f s.mu, guard := s.watchAfter (f s.mu) } := by
  rw [State.muStep_eq, State.muStep_guard]

/-- The watch after a change depends on the new source and on whether a dwell runs. -/
theorem State.watchAfter_congr (source : m'.source = m.source) (dwells : m'.source = .board ∨ m'.dwells = m.dwells) :
    s.watchAfter m' = s.watchAfter m := by
  have sense : (m'.source = .board ∨ m'.dwells = true) ↔ (m.source = .board ∨ m.dwells = true) := by
    obtain board | same := dwells
    · simp [← source, board]
    · rw [source, same]
  rw [State.watchAfter, State.watchAfter, source]
  rw [source] at sense
  simp only [sense]

/-- The Guard of `t` is that of a direct change from `s` to the unit of `t`. -/
structure Watched (s t : State) : Prop where
  guard : t.guard = s.watchAfter t.mu
  pins : t.pins = s.pins
  clock : t.clock = s.clock

theorem State.muStep_watched : Watched s (s.muStep f) where
  guard := by rw [State.muStep_guard, State.muStep_mu]
  pins := State.confined_muStep.pins
  clock := State.confined_muStep.clock

section
variable {t : State}

/-- From BOARD on, a phase that stays in BOARD keeps the watch of the one before. -/
theorem Watched.board (h : Watched s t) (was : t.mu.source = .board) (is : (f t.mu).source = .board) :
    Watched s (t.muStep f) where
  guard := by
    rw [State.muStep_guard, State.watchAfter, if_pos ⟨was, is⟩, h.guard, State.muStep_mu]
    exact State.watchAfter_congr (was.trans is.symm) (.inl was)
  pins := State.confined_muStep.pins.trans h.pins
  clock := State.confined_muStep.clock.trans h.clock

/-- Through a phase in which nothing is watched, and which keeps marks, the watch is that of a direct change. -/
theorem Watched.quiet (h : Watched s t) (off : t.mu.source ≠ .board) (noDwell : t.mu.dwells = false)
    (keeps : t.mu.phase ≠ some .precheck ∧ t.mu.phase ≠ some .dummy)
    (fresh : s.mu.source ≠ .board ∨ (f t.mu).source ≠ .board) : Watched s (t.muStep f) where
  guard := by
    have was : ¬ (s.mu.source = .board ∧ t.mu.source = .board) := fun h => off h.2
    have direct : ¬ (s.mu.source = .board ∧ (f t.mu).source = .board) := fun h => fresh.elim (· h.1) (· h.2)
    have now : ¬ (t.mu.source = .board ∧ (f t.mu).source = .board) := fun h => off h.1
    have noSense : ¬ ((t.mu.source = .board ∨ t.mu.dwells = true) ∧ s.pins.sense = true) := by
      rw [noDwell]
      exact fun h => h.1.elim off nofun
    have noSource : ¬ (t.mu.source = .board ∧ s.pins.source = true) := fun h => off h.1
    have marks (timer mark : Option Nat) (none_ : timer = none) : t.markAfter timer mark = mark := by
      rw [State.markAfter, none_, if_neg (by simp), if_neg (not_or.2 keeps)]
    have guard := h.guard
    rw [State.watchAfter, if_neg was, if_neg noSense, if_neg noSource] at guard
    rw [State.muStep_guard, State.muStep_mu, State.watchAfter, State.watchAfter, if_neg now, if_neg direct, guard, h.pins,
      h.clock, marks _ _ rfl, marks _ _ rfl]
  pins := State.confined_muStep.pins.trans h.pins
  clock := State.confined_muStep.clock.trans h.clock

/-- What changes neither the Guard nor what the watch reads of the unit keeps the watch. -/
theorem Watched.congr {u : State} (h : Watched s t) (guard : u.guard = t.guard) (source : u.mu.source = t.mu.source)
    (dwells : u.mu.dwells = t.mu.dwells) (pins : u.pins = t.pins) (clock : u.clock = t.clock) : Watched s u where
  guard := by rw [guard, h.guard, State.watchAfter_congr source (.inr dwells)]
  pins := pins.trans h.pins
  clock := clock.trans h.clock
end

/-- A change of the unit that touches nothing of the watch may come before. -/
theorem Watched.of_updMu {g : MeasUnit → MeasUnit} {t : State} (h : Watched (s.updMu g) t)
    (source : (g s.mu).source = s.mu.source)
    (phase : ((g s.mu).phase = some .precheck ∨ (g s.mu).phase = some .dummy) ↔
      (s.mu.phase = some .precheck ∨ s.mu.phase = some .dummy)) : Watched s t where
  guard := by
    have source' : (s.updMu g).mu.source = s.mu.source := source
    have marks (timer mark : Option Nat) : (s.updMu g).markAfter timer mark = s.markAfter timer mark :=
      if_congr Iff.rfl rfl (if_congr phase rfl rfl)
    rw [h.guard, State.watchAfter, State.watchAfter, source', marks, marks]
    rfl
  pins := h.pins
  clock := h.clock
end

/-! ## The stimulus (R112 to R114, AL 13) -/

/-- The phase that a stimulus begins with. -/
def StepCopy.firstPhase (c : StepCopy) : Phase :=
  if c.kind = .cap then .charge else if c.settle ≠ 0 then .settle else if c.skip ≠ 0 then .skip else .count

section
variable {s : State} {c : StepCopy}

theorem State.beginSettle_mu {m n : Nat} {q : Source} : (s.beginSettle m n q).mu = { s.mu with
    source := q, phase := some (if m ≠ 0 then .settle else if n ≠ 0 then .skip else .count) } := by
  rw [State.beginSettle]
  by_cases settle : m = 0
  · rw [if_pos settle, if_neg (not_not.2 settle), State.afterSettle, State.muStep_mu, State.muStep_mu]
    by_cases skip : n = 0
    · rw [if_pos skip, if_neg (not_not.2 skip)]
    · rw [if_neg skip, if_pos skip]
  · rw [if_neg settle, if_pos settle, State.muStep_mu]

theorem MeasUnit.not_dwells {u : MeasUnit} {q : Phase} (h : u.phase = some q) (hq : q.isDwell = false) :
    u.dwells = false := by
  rw [MeasUnit.dwells, h]
  cases q <;> first | rfl | cases hq

/-- The watch once the settle delay, or what follows it, has begun. -/
theorem State.beginSettle_watched {m n : Nat} {q : Source} : Watched s (s.beginSettle m n q) := by
  let t := s.muStep fun u => { u with phase := some .settle, source := q }
  have first : Watched s t := State.muStep_watched
  have source : t.mu.source = q := by rw [State.muStep_mu]
  have phase : t.mu.phase = some .settle := by rw [State.muStep_mu]
  rw [State.beginSettle]
  by_cases settle : m = 0
  · rw [if_pos settle, State.afterSettle]
    by_cases board : q = .board
    · exact first.board (source.trans board) (source.trans board)
    · rw [← source] at board
      exact first.quiet board (MeasUnit.not_dwells phase rfl) (by rw [phase]; exact ⟨nofun, nofun⟩) (.inr board)
  · rwa [if_neg settle]

theorem State.applyStimulus_cap (h : c.kind = .cap) : s.applyStimulus c =
    s.muStep fun u => { u with phase := some .charge, source := .board, charge := 0 } := by
  rw [State.applyStimulus, h]

theorem State.applyStimulus_sampled (h : c.kind ≠ .cap) :
    s.applyStimulus c = s.beginSettle c.settle c.skip (if c.kind = .volt then .off else .board) := by
  rw [State.applyStimulus.eq_def]
  cases kind : c.kind with
  | cap => exact absurd kind h
  | _ => rfl

/-- The unit once the stimulus of a step is applied. -/
theorem State.applyStimulus_mu : (s.applyStimulus c).mu = { s.mu with
    source := if c.kind = .volt then .off else .board, phase := some c.firstPhase
    charge := if c.kind = .cap then 0 else s.mu.charge } := by
  by_cases cap : c.kind = .cap
  · rw [State.applyStimulus_cap cap, State.muStep_mu, StepCopy.firstPhase, cap]
    rfl
  · rw [State.applyStimulus_sampled cap, State.beginSettle_mu, StepCopy.firstPhase, if_neg cap, if_neg cap]

theorem State.applyStimulus_watched : Watched s (s.applyStimulus c) := by
  by_cases cap : c.kind = .cap
  · rw [State.applyStimulus_cap cap]
    exact State.muStep_watched
  · rw [State.applyStimulus_sampled cap]
    exact State.beginSettle_watched

/-- A front-end transition is owed. -/
theorem MeasUnit.transitionOwed_iff (u : MeasUnit) :
    u.transitionOwed = true ↔ u.lastClass ≠ some u.cls ∨ u.lastRange ≠ u.range := by
  simp [MeasUnit.transitionOwed]

theorem State.beginDummy_mu : s.beginDummy.mu = { s.mu with
    phase := some .dummy, source := if s.mu.range = none then .off else .load } := by
  rw [State.beginDummy, State.muStep_mu]
  simp only [Option.isNone_iff_eq_none]

theorem State.beginConversion_owed (h : s.mu.lastClass ≠ some s.mu.cls ∨ s.mu.lastRange ≠ s.mu.range) :
    (s.beginConversion c).mu = { s.mu with
      gain := s.mu.convGain, phase := some .dummy, source := if s.mu.range = none then .off else .load } := by
  have owed := ({ s.mu with gain := s.mu.convGain } : MeasUnit).transitionOwed_iff.2 h
  rw [State.beginConversion]
  refine (congrArg State.mu (if_pos owed)).trans ?_
  rw [State.beginDummy_mu]
  rfl

theorem State.beginConversion_direct (h : ¬ (s.mu.lastClass ≠ some s.mu.cls ∨ s.mu.lastRange ≠ s.mu.range)) :
    (s.beginConversion c).mu = { s.mu with
      gain := s.mu.convGain, phase := some c.firstPhase, source := if c.kind = .volt then .off else .board
      charge := if c.kind = .cap then 0 else s.mu.charge } := by
  have direct := mt ({ s.mu with gain := s.mu.convGain } : MeasUnit).transitionOwed_iff.1 h
  rw [State.beginConversion]
  refine (congrArg State.mu (if_neg direct)).trans ?_
  rw [State.applyStimulus_mu]
  rfl

theorem State.beginMeasurement_driven (h : c.kind ≠ .volt) : s.beginMeasurement c =
    s.muStep fun u => { u with phase := some .precheck, source := .off, gain := 0 } := if_neg h
end

/-! ## The pre-check (R115, R132, R146) -/

section
variable {codes : List Code}

theorem takeCodes_length {n : Nat} (h : codes.length = n) : takeCodes n codes = codes := by
  rw [takeCodes, h, Nat.sub_self]
  simp [← h]

theorem correctedSum_eq (z : Int) (l : List Code) : correctedSum z l = (l.map fun k => k.toInt - z).sum := by
  induction l with
  | nil => rfl
  | cons c rest ih => rw [correctedSum, ih, List.map_cons, List.sum_cons]

theorem endCode_iff (k : Code) : endCode k = true ↔ k = 0x8000 ∨ k = 0x7FFF := by
  rw [endCode, Bool.or_eq_true, beq_iff_eq, beq_iff_eq]
  rfl

theorem divRound_mul (a : Int) {d : Nat} (h : 0 < d) : divRound (a * d) d = a := by
  have magnitude (n : Nat) : roundedMagnitude (n * d) d = n := by
    rw [roundedMagnitude, show 2 * (n * d) + d = d + 2 * d * n by ring, Nat.add_mul_div_left _ _ (by omega),
      Nat.div_eq_of_lt (by omega), Nat.zero_add]
  rw [divRound_eq, Int.natAbs_mul, Int.natAbs_natCast, magnitude]
  have sign : a * d < 0 ↔ a < 0 := by
    constructor
    · intro neg
      by_contra pos
      exact absurd neg (not_lt.2 (mul_nonneg (not_lt.1 pos) (Int.natCast_nonneg d)))
    · exact fun neg => mul_neg_of_neg_of_pos neg (by omega)
  simp only [sign]
  omega

/-- The mean of a pre-check is 125 µV for each unit of the corrected sum. -/
theorem precheckMean_eq (z : ZTable) (h : codes.length = 16) :
    precheckMean z codes = 125 * (codes.map fun k => k.toInt - z.z0).sum := by
  rw [precheckMean, Config.precheckSamples, takeCodes_length h, correctedSum_eq, voltageValue, ZTable.at_]
  generalize (codes.map fun k => k.toInt - z.z0).sum = a
  have scaled : a * (gainLsb 0 : Nat) = 125 * a * ((16 * 1000000000 : Nat) : Int) := by
    rw [gainLsb]
    push_cast
    ring
  rw [scaled]
  exact divRound_mul (125 * a) (d := 16 * 1000000000) (by decide)

theorem precheckPasses_iff (z : ZTable) (limit : Nat) (h : codes.length = 16) :
    precheckPasses limit codes (precheckMean z codes) = true ↔ (¬ ∃ k ∈ codes, k = 0x8000 ∨ k = 0x7FFF) ∧
      125 * ((codes.map fun k => k.toInt - z.z0).sum).natAbs ≤ 1000 * limit := by
  rw [precheckPasses, precheckMean_eq z h, Config.precheckSamples, takeCodes_length h, Bool.and_eq_true,
    Bool.not_eq_true', ← Bool.not_eq_true, List.any_eq_true, decide_eq_true_eq, Int.natAbs_mul]
  simp only [endCode_iff]
  rfl
end

end Sys2Proof.Machine

open Sys2Proof Sys2Proof.Machine in
/-- Settles O33: the two tests of the pre-check, and the conversion that begins. -/
theorem precheckEnds : Obligations.PrecheckEnds := by
  intro s codes e op phase hand length fresh atEnd mean
  have notStale : ¬ s.mu.stale .precheck s.clock = true := mt MeasUnit.stale_iff.1 fresh
  have passes := precheckPasses_iff s.mu.z s.setup.residualLimit length
  have exec_eq : exec (.precheckEnd codes) s =
      if precheckPasses s.setup.residualLimit codes (precheckMean s.mu.z codes) then
        .next (s.dropCut.beginConversion e.copy).finish
      else .next (if s.setup.residualMode = .ignore then (s.raiseCondition .residual).dropCut.beginConversion e.copy
        else (s.raiseCondition .residual).dropCut).finish := by
    change execPrecheckEnd codes s = _
    rw [execPrecheckEnd, if_neg notStale, op, phase, hand]
  rw [exec_eq]
  refine ⟨fun clean small => ?_, fun raised => if_neg fun h => ?_⟩
  · have rest : Confined [.mu, .guard] s (s.dropCut.beginConversion e.copy) :=
      (State.confined_dropCut.mono).andThen State.confined_beginConversion
    refine ⟨s.dropCut.beginConversion e.copy, if_pos (passes.2 ⟨clean, small⟩), rest.eq_mix, ?_⟩
    by_cases owed : s.mu.lastClass ≠ some s.mu.cls ∨ s.mu.lastRange ≠ s.mu.range
    · rw [State.beginConversion_owed (s := s.dropCut) owed]
      exact ⟨rfl, rfl, op, fun _ => ⟨rfl, rfl⟩, fun direct => absurd owed direct⟩
    · rw [State.beginConversion_direct (s := s.dropCut) owed]
      exact ⟨rfl, rfl, op, fun h => absurd h owed, fun _ => ⟨rfl, rfl⟩⟩
  · obtain ⟨clean, small⟩ := passes.1 h
    exact raised.elim clean fun above => absurd small (Nat.not_le.2 above)
end

section
/-! PROOFS. The ends of phases, and the arbiter's choice (R108, R112, R113, R119 to R122). -/

set_option Elab.async false

namespace Sys2Proof.Machine

/-! ## Tips and carriages of a list -/

section
variable {s : State} {c : Carriage}

/-- The tips of the carriages of a list that stand in a state. -/
theorem State.carr_setTips (l : List Carriage) (q : CarriageState) (t : Tip) : (s.setTips l q t).carr c =
    if c ∈ l ∧ (s.carr c).state = q then
      { s.carr c with tip := if s.run.state = .halted then .isolated else t } else s.carr c := by
  unfold State.setTips
  induction l generalizing s with
  | nil => simp
  | cons x rest ih =>
    rw [List.foldl_cons, ih]
    by_cases here : c = x
    · subst here
      by_cases stands : (s.carr c).state = q
      · rw [if_pos stands, State.carr_setTip, State.confined_setTip.run]
        simp [stands]
      · rw [if_neg stands]
        simp [stands]
    · have same : (if (s.carr x).state = q then s.setTip x t else s).carr c = s.carr c := by
        split
        · exact State.carr_setTip_ne here
        · rfl
      have run : (if (s.carr x).state = q then s.setTip x t else s).run = s.run := by
        split
        · exact State.confined_setTip.run
        · rfl
      rw [same, run]
      simp [here]

/-- READY carriages of a list engage. -/
theorem State.engage_state (l : List Carriage) : ((l.foldl (fun s c =>
    if (s.carr c).state = .ready then s.setCarr c .engaged else s) s).carr c).state =
    if c ∈ l ∧ (s.carr c).state = .ready then .engaged else (s.carr c).state := by
  induction l generalizing s with
  | nil => simp
  | cons x rest ih =>
    rw [List.foldl_cons, ih]
    by_cases here : c = x
    · subst here
      by_cases stands : (s.carr c).state = .ready
      · rw [if_pos stands, State.carr_setCarr]
        simp [stands]
      · rw [if_neg stands]
        simp [stands]
    · have same : (if (s.carr x).state = .ready then s.setCarr x .engaged else s).carr c = s.carr c := by
        split
        · exact State.carr_setCarr_ne here
        · rfl
      rw [same]
      simp [here]
end

/-! ## Pair checks offered to the queue (R68, R106) -/

section
variable {s : State} {p : Pair} {x : Carriage} {q : ElecProgress}

theorem State.landing_modLanding_at {c : Carriage} {f : Landing → Landing} (x : Carriage) :
    (s.modLanding c f).landing x = if x = c then (s.landing x).map f else s.landing x := by
  rw [State.landing_modLanding]
  split
  · next e => rw [e]
  · rfl

/-- The electrical progress of both records of a pair. -/
theorem State.landing_setElec : (s.setElec p q).landing x =
    if p.force = x ∨ p.sense = x then (s.landing x).map fun l => { l with elec := q } else s.landing x := by
  rw [State.setElec, State.landing_modLanding_at, State.landing_modLanding_at]
  by_cases force : x = p.force
  · by_cases sense : x = p.sense
    · rw [if_pos sense, if_pos force, if_pos (.inl force.symm), Option.map_map]
      rfl
    · rw [if_neg sense, if_pos force, if_pos (.inl force.symm)]
  · by_cases sense : x = p.sense
    · rw [if_pos sense, if_neg force, if_pos (.inr sense.symm)]
    · rw [if_neg sense, if_neg force, if_neg (not_or.2 ⟨Ne.symm force, Ne.symm sense⟩)]

/-- A list of pairs names a carriage. -/
def pairsName (l : List Pair) (x : Carriage) : Bool := l.any fun p => p.force == x || p.sense == x

/-- The check queue takes from the head of the owed list what it has room for, `n` pairs at most. -/
structure Offered (n : Nat) (s t : State) : Prop where
  owed : t.qual.owed = s.qual.owed.drop (min n (2 - s.mu.checkQueue.length))
  mu : t.mu = { s.mu with
    checkQueue := s.mu.checkQueue ++ s.qual.owed.take (min n (2 - s.mu.checkQueue.length)) }
  landing : ∀ x, t.landing x = (s.landing x).map fun l =>
    if pairsName (s.qual.owed.take (min n (2 - s.mu.checkQueue.length))) x then { l with elec := .queued } else l

theorem State.offerOwed_full {n : Nat} (h : s.qual.owed = [] ∨ ¬ s.mu.checkQueue.length < 2) : s.offerOwed n = s := by
  cases n with
  | zero => rfl
  | succ n =>
    rw [State.offerOwed.eq_def]
    dsimp only
    cases owed : s.qual.owed with
    | nil => rfl
    | cons p rest => exact if_neg (h.resolve_left (by rw [owed]; nofun))

theorem State.offerOwed_cons {n : Nat} {rest : List Pair} (owed : s.qual.owed = p :: rest)
    (room : s.mu.checkQueue.length < 2) : s.offerOwed (n + 1) =
      (((s.updQual fun q => { q with owed := rest }).updMu fun u => { u with checkQueue := u.checkQueue ++ [p] }).setElec p
        .queued).offerOwed n := by
  rw [State.offerOwed.eq_def]
  simp only [owed]
  exact if_pos room

theorem State.offerOwed_offered (n : Nat) (s : State) : Offered n s (s.offerOwed n) := by
  induction n generalizing s with
  | zero =>
    rw [show s.offerOwed 0 = s from rfl]
    exact ⟨by simp, by simp, by simp [pairsName]⟩
  | succ n ih =>
    cases owed : s.qual.owed with
    | nil =>
      rw [State.offerOwed_full (.inl owed)]
      exact ⟨by simp [owed], by simp [owed], by simp [owed, pairsName]⟩
    | cons p rest =>
      by_cases room : s.mu.checkQueue.length < 2
      · rw [State.offerOwed_cons owed room]
        let t := (s.updQual fun q => { q with owed := rest }).updMu fun u => { u with checkQueue := u.checkQueue ++ [p] }
        have next := ih (t.setElec p .queued)
        have length : min (n + 1) (2 - s.mu.checkQueue.length) = min n (2 - (s.mu.checkQueue ++ [p]).length) + 1 := by
          rw [List.length_append, List.length_singleton]
          omega
        have owed' : (t.setElec p .queued).qual.owed = rest := rfl
        have mu' : (t.setElec p .queued).mu = { s.mu with checkQueue := s.mu.checkQueue ++ [p] } := rfl
        refine ⟨?_, ?_, fun x => ?_⟩
        · rw [next.owed, owed', mu', owed, length, List.drop_succ_cons]
        · rw [next.mu, owed', mu', owed, length, List.take_succ_cons, List.append_assoc, List.singleton_append]
        · rw [next.landing, owed', mu', owed, length, List.take_succ_cons, State.landing_setElec]
          have landing' : t.landing x = s.landing x := rfl
          rw [landing']
          by_cases named : p.force = x ∨ p.sense = x
          · rw [if_pos named, Option.map_map]
            refine congrArg (fun f => (s.landing x).map f) (funext fun l => ?_)
            have here : (p.force == x || p.sense == x) = true := by simpa using named
            simp [pairsName, here]
          · rw [if_neg named]
            refine congrArg (fun f => (s.landing x).map f) (funext fun l => ?_)
            have notHere : (p.force == x || p.sense == x) = false := by simpa using named
            simp [pairsName, notHere]
      · have noRoom : 2 - s.mu.checkQueue.length = 0 := by omega
        rw [State.offerOwed_full (.inr room)]
        exact ⟨by simp [noRoom], by simp [noRoom], by simp [noRoom, pairsName]⟩
end

/-! ## What the arbiter takes (R69, R94, R108, R115, R122) -/

section
variable {s : State}

theorem State.arbiter_busy (h : s.mu.op ≠ .idle ∨ s.run.state = .aborting) : s.arbiter = s := if_pos h

section
variable (op : s.mu.op = .idle) (run : s.run.state ≠ .aborting)
include op run

theorem State.arbiter_free : s.arbiter = match s.mu.checkQueue, s.mu.measQueue.head?.bind s.entry with
    | p :: _, _ => s.takePair p
    | [], some e => s.takeStep e
    | [], none => if s.mu.calOrder ∧ s.mu.measQueue = [] then s.updMu MeasUnit.startCal else s :=
  if_neg fun h => h.elim (fun busy => busy op) run

theorem State.arbiter_pair {p : Pair} {rest : List Pair} (queue : s.mu.checkQueue = p :: rest) :
    s.arbiter = s.takePair p := by
  rw [State.arbiter_free op run, queue]

theorem State.arbiter_step {k : Nat} {rest : List Nat} {e : Entry} (noPair : s.mu.checkQueue = [])
    (queue : s.mu.measQueue = k :: rest) (he : s.entry k = some e) : s.arbiter = s.takeStep e := by
  have head : s.mu.measQueue.head?.bind s.entry = some e := by rw [queue]; exact he
  rw [State.arbiter_free op run, noPair, head]

theorem State.arbiter_none (noPair : s.mu.checkQueue = []) (noStep : s.mu.measQueue = []) :
    s.arbiter = if s.mu.calOrder = true then s.updMu MeasUnit.startCal else s := by
  have head : s.mu.measQueue.head?.bind s.entry = none := by rw [noStep]; rfl
  rw [State.arbiter_free op run, noPair, head]
  exact if_congr (and_iff_left noStep) rfl rfl
end

/-- The unit with a pair in hand. -/
def State.assignPair (p : Pair) (s : State) : State :=
  (s.setElec p .running).updMu fun u =>
    { u with op := .pairCheck, pair := some p, checkQueue := u.checkQueue.drop 1, cls := .twoWire
             buses := ⟨some p.force, some p.sense, some p.force, some p.sense⟩
             range := some Config.pairRange, gain := Config.pairGain }

/-- The unit with a pair in hand and its tips on the matrix, before the check begins. -/
def State.holdPair (p : Pair) (s : State) : State :=
  ((s.assignPair p).setTips [p.force, p.sense] .check .matrix).offerOwed 1

theorem State.takePair_eq (p : Pair) : s.takePair p =
    if (s.holdPair p).mu.transitionOwed then (s.holdPair p).beginDummy else (s.holdPair p).applyCheck := rfl

theorem State.holdPair_mu (p : Pair) : ∃ more, (s.holdPair p).mu = { s.mu with
    op := .pairCheck, pair := some p, checkQueue := s.mu.checkQueue.drop 1 ++ more, cls := .twoWire
    buses := ⟨some p.force, some p.sense, some p.force, some p.sense⟩, range := some 3, gain := 1 } := by
  have offered := (State.offerOwed_offered 1 ((s.assignPair p).setTips [p.force, p.sense] .check .matrix)).mu
  have tips : ((s.assignPair p).setTips [p.force, p.sense] .check .matrix).mu = (s.assignPair p).mu :=
    State.confined_setTips.mu
  rw [tips] at offered
  exact ⟨_, offered⟩

theorem State.takePair_mu {p : Pair} {rest : List Pair} (queue : s.mu.checkQueue = p :: rest) :
    ∃ more q o, (s.takePair p).mu = { s.mu with
      op := .pairCheck, pair := some p, checkQueue := rest ++ more, cls := .twoWire
      buses := ⟨some p.force, some p.sense, some p.force, some p.sense⟩, range := some 3, gain := 1
      phase := some q, source := o } ∧
      ((s.mu.lastClass ≠ some .twoWire ∨ s.mu.lastRange ≠ some 3) → q = .dummy ∧ o = .load) ∧
      (¬ (s.mu.lastClass ≠ some .twoWire ∨ s.mu.lastRange ≠ some 3) → q = .settle ∧ o = .board) := by
  obtain ⟨more, held⟩ := State.holdPair_mu (s := s) p
  rw [queue] at held
  have owed := (s.holdPair p).mu.transitionOwed_iff
  rw [held] at owed
  rw [State.takePair_eq]
  by_cases h : s.mu.lastClass ≠ some .twoWire ∨ s.mu.lastRange ≠ some 3
  · refine ⟨more, .dummy, .load, ?_, fun _ => ⟨rfl, rfl⟩, fun h' => absurd h h'⟩
    rw [if_pos (by rw [held]; exact owed.2 h), State.beginDummy_mu, held]
    rfl
  · refine ⟨more, .settle, .board, ?_, fun h' => absurd h' h, fun _ => ⟨rfl, rfl⟩⟩
    rw [if_neg (by rw [held]; exact mt owed.1 h), State.applyCheck, State.beginSettle_mu, held]
    rfl

theorem State.takePair_disp {p : Pair} : (s.takePair p).disp = s.disp := by
  have held : (s.holdPair p).disp = s.disp := ((State.confined_offerOwed 1 _).disp).trans State.confined_setTips.disp
  rw [State.takePair_eq, ← held]
  split
  · exact State.confined_beginDummy.disp
  · exact State.confined_applyCheck.disp

theorem State.takePair_tip {p : Pair} {c : Carriage} (named : c = p.force ∨ c = p.sense)
    (check : (s.carr c).state = .check) (run : s.run.state ≠ .halted) : ((s.takePair p).carr c).tip = .matrix := by
  have begun : (s.takePair p).carr c = (s.holdPair p).carr c := by
    rw [State.takePair_eq]
    split
    · exact State.confined_beginDummy.carr c
    · exact State.confined_applyCheck.carr c
  have offered : (s.holdPair p).carr c = ((s.assignPair p).setTips [p.force, p.sense] .check .matrix).carr c :=
    (State.confined_offerOwed 1 _).carr c
  have carr : (s.assignPair p).carr c = s.carr c := rfl
  rw [begun, offered, State.carr_setTips, carr, if_pos ⟨by simpa using named, check⟩]
  exact if_neg run

/-- The unit with a step in hand, before its measurement begins. -/
def State.holdStep (e : Entry) (s : State) : State :=
  ((e.serving.foldl (fun s c => if (s.carr c).state = .ready then s.setCarr c .engaged else s)
    (s.modEntry e.slot fun e => { e with state := .measuring, eval := some e.openEval })).updGuard fun g =>
      { g with retries := 0 }).updMu fun u =>
    { u with op := .measurement, step := some e.slot, measQueue := u.measQueue.drop 1, cls := classOf e.copy.kind
             buses := e.buses, range := e.copy.firstRange, gain := e.copy.firstGain, convGain := e.copy.firstGain }

theorem State.confined_engage {l : List Carriage} {t : State} : Confined [.carriages] t
    (l.foldl (fun s c => if (s.carr c).state = .ready then s.setCarr c .engaged else s) t) :=
  Confined.foldl (fun s _ => .ite (fun _ => State.confined_setCarr) fun _ => .refl _ s) l t

theorem State.holdStep_mu (e : Entry) : (s.holdStep e).mu = { s.mu with
    op := .measurement, step := some e.slot, measQueue := s.mu.measQueue.drop 1, cls := classOf e.copy.kind
    buses := e.buses, range := e.copy.firstRange, gain := e.copy.firstGain, convGain := e.copy.firstGain } := by
  rw [State.holdStep, State.updMu_mu, State.updGuard_mu, State.confined_engage.mu]
  rfl

theorem State.holdStep_entry {e : Entry} (k : Nat) : (s.holdStep e).entry k =
    (s.modEntry e.slot fun e => { e with state := .measuring, eval := some e.openEval }).entry k :=
  State.confined_engage.entry k

theorem State.beginConversion_watched {c : StepCopy} : Watched s (s.beginConversion c) := by
  have stepped : Watched (s.updMu fun u => { u with gain := u.convGain }) (s.beginConversion c) := by
    rw [State.beginConversion]
    split
    · exact State.muStep_watched
    · exact State.applyStimulus_watched
  exact stepped.of_updMu rfl Iff.rfl

theorem State.beginMeasurement_watched {c : StepCopy} : Watched s (s.beginMeasurement c) := by
  by_cases volt : c.kind = .volt
  · rw [State.beginMeasurement, if_pos volt]
    exact State.beginConversion_watched
  · rw [State.beginMeasurement_driven volt]
    exact State.muStep_watched

/-- The watch leaves the retry count. -/
theorem Watched.retries {t : State} (h : Watched s t) : t.guard.retries = s.guard.retries := by
  rw [h.guard, State.watchAfter]
  split <;> rfl

/-- What the start of a measurement leaves of the unit. -/
theorem State.beginMeasurement_mu (c : StepCopy) : ∃ q o g h, (s.beginMeasurement c).mu =
    { s.mu with phase := q, source := o, gain := g, charge := h } := by
  by_cases volt : c.kind = .volt
  · rw [State.beginMeasurement, if_pos volt]
    by_cases owed : s.mu.lastClass ≠ some s.mu.cls ∨ s.mu.lastRange ≠ s.mu.range
    · exact ⟨_, _, _, _, State.beginConversion_owed owed⟩
    · exact ⟨_, _, _, _, State.beginConversion_direct owed⟩
  · rw [State.beginMeasurement_driven volt, State.muStep_mu]
    exact ⟨_, _, _, _, rfl⟩

theorem Entry.openEval_fresh (e : Entry) : e.openEval.attempt = e.attempts + 1 ∧ e.openEval.conversions = 0 ∧
    e.openEval.clippedGains = [] ∧ e.openEval.clippedRanges = [] := by
  unfold Entry.openEval
  split <;> exact ⟨rfl, rfl, rfl, rfl⟩
end

/-! ## Abandonments (R119, R121) -/

theorem State.abandonMeasure_mu {s : State} (op : s.mu.op = .measurement) : s.abandonMeasure.mu =
    ({ s.mu with cut := s.mu.cutMark s.clock } : MeasUnit).released.forget := by
  unfold State.abandonMeasure
  rw [op]
  dsimp only
  split
  · rw [State.muStep_mu]
    rfl
  · rw [State.confined_liftEngaged.mu, State.modEntry_mu, State.muStep_mu]
    rfl

end Sys2Proof.Machine

open Sys2Proof Sys2Proof.Machine in
/-- Settles O34: the ends of phases with their cut marks, and the arbiter's choice by its queues. -/
theorem phasesAdvance : Obligations.PhasesAdvance := by
  refine ⟨fun s e op phase hand fresh => ?_, fun s op phase fresh => ?_, fun s op phase fresh => ?_,
    fun s e op phase hand fresh => ?_, fun s op phase fresh => ?_, fun s op phase => ?_, fun s => ?_,
    fun s p phase fresh => ⟨fun op => ?_, fun op pair => ?_⟩, fun s => ?_⟩
  · let t := s.dropCut.updMu MeasUnit.remember
    have rest : Confined [.mu, .guard] s (t.applyStimulus e.copy) :=
      ((State.confined_dropCut.mono).andThen State.confined_updMu).andThen State.confined_applyStimulus
    refine ⟨t.applyStimulus e.copy, ?_, rest.eq_mix, ?_⟩
    · change execDummyEnd s = _
      rw [execDummyEnd, if_neg (mt MeasUnit.stale_iff.1 fresh), op, phase, hand]
    · rw [State.applyStimulus_mu]
      exact ⟨rfl, rfl, rfl, rfl⟩
  · let t := s.dropCut.updMu MeasUnit.remember
    have rest : Confined [.mu, .guard] s t.applyCheck :=
      ((State.confined_dropCut.mono).andThen State.confined_updMu).andThen State.confined_applyCheck
    refine ⟨t.applyCheck, ?_, rest.eq_mix, ?_⟩
    · change execDummyEnd s = _
      rw [execDummyEnd, if_neg (mt MeasUnit.stale_iff.1 fresh), op, phase]
    · rw [State.applyCheck, State.beginSettle_mu]
      rfl
  · change execDummyEnd s = _
    rw [execDummyEnd, if_neg (mt MeasUnit.stale_iff.1 fresh), op, phase]
    rfl
  · have rest : Confined [.mu, .guard] s (s.dropCut.afterSettle e.copy.skip) :=
      (State.confined_dropCut.mono).andThen State.confined_afterSettle
    refine ⟨s.dropCut.afterSettle e.copy.skip, ?_, rest.eq_mix, ?_, fun board => ?_⟩
    · change execSettleEnd s = _
      rw [execSettleEnd, if_neg (mt MeasUnit.stale_iff.1 fresh), op, phase, hand]
    · rw [State.afterSettle, State.muStep_mu]
      rfl
    · rw [State.afterSettle, State.muStep_board (s := s.dropCut) board board]
      rfl
  · have rest : Confined [.mu, .guard] s (s.dropCut.afterSettle 0) :=
      (State.confined_dropCut.mono).andThen State.confined_afterSettle
    refine ⟨s.dropCut.afterSettle 0, ?_, rest.eq_mix, ?_, fun board => ?_⟩
    · change execSettleEnd s = _
      rw [execSettleEnd, if_neg (mt MeasUnit.stale_iff.1 fresh), op, phase]
    · rw [State.afterSettle, State.muStep_mu]
      rfl
    · rw [State.afterSettle, State.muStep_board (s := s.dropCut) board board]
      rfl
  · refine ⟨s.afterSettle 0, ?_, State.confined_afterSettle.eq_mix, ?_, fun board => ?_⟩
    · change execSkipEnd s = _
      rw [execSkipEnd, op, phase]
    · rw [State.afterSettle, State.muStep_mu]
      rfl
    · rw [State.afterSettle, State.muStep_board board board]
      rfl
  · intro gone
    exact ⟨fun stale _ => if_pos (MeasUnit.stale_iff.2 stale), fun stale => if_pos (MeasUnit.stale_iff.2 stale),
      fun stale => if_pos (MeasUnit.stale_iff.2 stale), fun stale => if_pos (MeasUnit.stale_iff.2 stale),
      fun stale => if_pos (MeasUnit.stale_iff.2 stale)⟩
  · rw [State.abandonMeasure_mu op]
    exact MeasUnit.cutMark_fresh phase fresh
  · obtain ⟨q, hq⟩ := Option.ne_none_iff_exists'.1 pair
    rw [State.abandonCheck_mu op hq]
    exact MeasUnit.cutMark_fresh phase fresh
  · intro t
    refine ⟨State.arbiter_busy, fun op run => ⟨fun p rest queue => ?_, fun k rest e noPair queue he => ?_,
      fun noPair noStep => ⟨fun calm => ?_, fun ordered => ?_⟩⟩⟩
    · have taken : t = s.takePair p := State.arbiter_pair op run queue
      obtain ⟨more, q, o, mu, owed, direct⟩ := State.takePair_mu queue
      rw [taken]
      refine ⟨by rw [mu], by rw [mu], by rw [mu], by rw [mu], by rw [mu], by rw [mu], by rw [mu], ⟨more, by rw [mu]⟩, ?_,
        State.confined_takePair.claims, ⟨fun h => ?_, fun h => ?_⟩, fun c named check live => State.takePair_tip named check live⟩
      · exact State.takePair_disp
      · obtain ⟨rfl, rfl⟩ := owed h
        rw [mu]
        exact ⟨rfl, rfl⟩
      · obtain ⟨rfl, rfl⟩ := direct h
        rw [mu]
        exact ⟨rfl, rfl⟩
    · have taken : t = (s.holdStep e).beginMeasurement e.copy := State.arbiter_step op run noPair queue he
      obtain rfl := State.entry_slot he
      obtain ⟨q, o, g, h, begun⟩ := State.beginMeasurement_mu (s := s.holdStep e) e.copy
      have held := State.holdStep_mu (s := s) e
      rw [held, queue] at begun
      have entry : t.entry e.slot = some { e with state := .measuring, eval := some e.openEval } := by
        rw [taken, State.confined_beginMeasurement.entry, State.holdStep_entry]
        exact State.entry_changed he fun _ => rfl
      refine ⟨?_, ?_, ?_, ?_, ?_, ?_, ?_, ?_, ?_, fun driven => ?_, ⟨_, entry, rfl, rfl, rfl, _, rfl, e.openEval_fresh⟩,
        fun c => ?_, ?_⟩
      · rw [taken, begun]
      · rw [taken, begun]
      · rw [taken, begun]
        rfl
      · rw [taken, begun]
        exact noPair
      · rw [taken, begun]
      · rw [taken, begun]
      · rw [taken, State.beginMeasurement_watched.retries]
        rfl
      · rw [taken, begun]
        rfl
      · rw [taken, begun]
        rfl
      · rw [taken, State.beginMeasurement_driven driven, State.muStep_mu]
        exact ⟨rfl, rfl, rfl⟩
      · rw [taken, State.confined_beginMeasurement.carr]
        exact State.engage_state (s := s.modEntry _ _) e.serving
      · rw [taken, State.confined_beginMeasurement.claims]
        exact State.confined_engage.claims
    · exact (State.arbiter_none op run noPair noStep).trans (if_neg (by rw [calm]; nofun))
    · have started : t = s.updMu MeasUnit.startCal := (State.arbiter_none op run noPair noStep).trans (if_pos ordered)
      rw [started]
      exact ⟨rfl, rfl, rfl, rfl, rfl, rfl, rfl, rfl, rfl, rfl, rfl⟩
end

section
/-! PROOFS. What the ends of steps and of landings leave of the Measurement Unit and of the window: with no pair check in hand
the unit changes in its queues alone, and of an entry a carriage that gives up its service changes the assignment alone
(R70 to R77, R96). -/

set_option Elab.async false

namespace Sys2Proof.Machine

/-! ## The unit but for its queues -/

/-- With no pair check in hand in `s`, the Guard is unchanged and the unit but for its two queues. -/
def UnitKept (s t : State) : Prop := s.mu.op ≠ .pairCheck →
  t.guard = s.guard ∧ ∃ q m, t.mu = { s.mu with checkQueue := q, measQueue := m }

section
variable {s t u : State} {c : Carriage} {e : Entry}

theorem UnitKept.refl (s : State) : UnitKept s s := fun _ => ⟨rfl, _, _, rfl⟩

theorem UnitKept.andThen (h : UnitKept s t) (h' : UnitKept t u) : UnitKept s u := fun hop => by
  obtain ⟨g, q, m, mu⟩ := h hop
  obtain ⟨g', q', m', mu'⟩ := h' (by rw [mu]; exact hop)
  exact ⟨g'.trans g, q', m', by rw [mu', mu]⟩

theorem UnitKept.of_confined {bs : List Block} (h : Confined bs s t) (mu : .mu ∉ bs := by decide)
    (guard : .guard ∉ bs := by decide) : UnitKept s t :=
  fun _ => ⟨h.guard guard, _, _, h.mu mu⟩

theorem UnitKept.of_mu (guard : t.guard = s.guard) (mu : ∃ q m, t.mu = { s.mu with checkQueue := q, measQueue := m }) :
    UnitKept s t := fun _ => ⟨guard, mu⟩

theorem UnitKept.ite {p : Prop} [Decidable p] (ht : p → UnitKept s t) (hu : ¬ p → UnitKept s u) :
    UnitKept s (if p then t else u) := by
  split
  · exact ht ‹_›
  · exact hu ‹_›

theorem UnitKept.foldl {α : Type} {f : State → α → State} (hf : ∀ s a, UnitKept s (f s a)) (l : List α) (s : State) :
    UnitKept s (l.foldl f s) := by
  induction l generalizing s with
  | nil => exact .refl s
  | cons a rest ih => exact (hf s a).andThen (ih _)

theorem UnitKept.updMu {f : MeasUnit → MeasUnit} (h : ∃ q m, f s.mu = { s.mu with checkQueue := q, measQueue := m }) :
    UnitKept s (s.updMu f) := .of_mu rfl h

theorem State.unitKept_offerOwed {n : Nat} : UnitKept s (s.offerOwed n) :=
  .of_mu (State.confined_offerOwed n s).guard ⟨_, _, (State.offerOwed_offered n s).mu⟩

theorem State.unitKept_withdrawPair : UnitKept s (s.withdrawPair c) :=
  ((UnitKept.of_confined State.confined_updQual).andThen (.updMu ⟨_, _, rfl⟩)).andThen State.unitKept_offerOwed

theorem State.unitKept_dropCheckIf {which : Pair → Bool} : UnitKept s (s.dropCheckIf which) := fun hop => by
  rw [State.dropCheckIf_other fun _ h => absurd h hop]
  exact UnitKept.refl s hop

theorem State.unitKept_removeLanding : UnitKept s (s.removeLanding c) := by
  have dropped : UnitKept s (s.dropCheck c) := State.unitKept_dropCheckIf
  unfold State.removeLanding
  dsimp only
  split
  · exact dropped
  · exact ((dropped.andThen (.of_confined State.confined_setLanding)).andThen State.unitKept_withdrawPair).andThen
      (.of_confined State.confined_partnerWaits)

theorem State.unitKept_enterLift {f : FollowOn} : UnitKept s (s.enterLift c f) := .of_confined State.confined_enterLift

theorem State.unitKept_sendEnd : UnitKept s (s.sendEnd c) := by
  rw [State.sendEnd.eq_def]
  dsimp only
  split
  · exact .refl s
  · exact .refl s
  · exact .refl s
  · exact .refl s
  · exact .ite (fun _ => .ite (fun _ => .of_confined State.confined_cancel) fun _ => .of_confined State.confined_toIdle)
      fun _ => .of_confined State.confined_modCarr
  · exact .of_confined State.confined_modCarr
  · exact State.unitKept_removeLanding.andThen State.unitKept_enterLift
  · exact State.unitKept_enterLift
  · exact .ite (fun _ => .refl s) fun _ => State.unitKept_enterLift
  · exact .of_confined State.confined_modCarr

theorem State.unitKept_sendEnds {l : List Carriage} : UnitKept s (s.sendEnds l) :=
  .foldl (fun _ _ => State.unitKept_sendEnd) l s

theorem State.unitKept_decideStep {k : Nat} {o : Entry → Outcome} : UnitKept s (s.decideStep k o) := by
  unfold State.decideStep
  split
  · exact .refl s
  · refine .ite (fun _ => .refl s) fun _ => ?_
    have decided (f : Entry → Entry) : UnitKept s
        ((s.modEntry k f).updMu fun u => { u with measQueue := u.measQueue.filter fun j => j != k }) :=
      (UnitKept.of_confined State.confined_modEntry).andThen (.updMu ⟨_, _, rfl⟩)
    exact ((decided _).andThen State.unitKept_sendEnds).andThen (.of_confined State.confined_markScan)

theorem State.unitKept_endStep {k : Nat} {v : Verdict} {q : Cause} : UnitKept s (s.endStep k v q) :=
  State.unitKept_decideStep

/-! ## Landings -/

theorem State.unitKept_considerPair : UnitKept s (s.considerPair c) := by
  unfold State.considerPair
  split
  · exact .refl s
  · split
    · exact .refl s
    · split
      · exact .refl s
      · refine .ite (fun _ => .refl s) fun _ => .ite (fun _ => ?_) fun _ => ?_
        · exact ((UnitKept.of_confined State.confined_setElec).andThen (.of_confined State.confined_updQual)).andThen
            State.unitKept_offerOwed
        · exact (UnitKept.of_confined State.confined_modLanding).andThen (.of_confined State.confined_modLanding)

theorem State.unitKept_actOnPartner : UnitKept s (s.actOnPartner c) := by
  unfold State.actOnPartner
  split
  · exact .refl s
  · exact State.unitKept_withdrawPair.andThen (.of_confined State.confined_partnerWaits)

theorem State.unitKept_noContact {k : FailureKind} : UnitKept s (s.noContact c k) := by
  unfold State.noContact
  split
  · exact .refl s
  · exact .ite (fun _ => .refl s) fun _ => State.unitKept_dropCheckIf.andThen State.unitKept_endStep

theorem State.unitKept_failInLift {k : FailureKind} : UnitKept s (s.failInLift c k) := by
  unfold State.failInLift
  split
  · exact .refl s
  · have counted (n : ScrubNext) : UnitKept s (s.countFail c n) := .of_confined State.confined_countFail
    dsimp only
    split
    · exact (counted _).andThen State.unitKept_noContact
    · exact (counted _).andThen (.of_confined State.confined_modCarr)

theorem MeasUnit.join_eq (k : Nat) (u : MeasUnit) : ∃ m, u.join k = { u with measQueue := m } := by
  unfold MeasUnit.join
  split
  · exact ⟨_, rfl⟩
  · exact ⟨_, rfl⟩

theorem State.unitKept_qualified : UnitKept s (s.qualified c) := by
  have ready : UnitKept s ((s.setLanding c none).setCarr c .ready) :=
    (UnitKept.of_confined State.confined_setLanding).andThen (.of_confined State.confined_setCarr)
  unfold State.qualified
  dsimp only
  split
  · exact ready
  · split
    · exact ready
    · refine .ite (fun _ => ?_) fun _ => ready.andThen (.of_confined State.confined_modEntry)
      obtain ⟨m, joined⟩ := MeasUnit.join_eq _ _
      exact (ready.andThen (.of_confined State.confined_modEntry)).andThen (.updMu ⟨_, m, joined⟩)

theorem State.unitKept_sparePartner {p : Option Carriage} : UnitKept s (s.sparePartner p) := by
  unfold State.sparePartner
  split
  · exact .refl s
  · split
    · exact .refl s
    · exact .ite (fun _ => State.unitKept_qualified) fun _ => .refl s

theorem State.unitKept_decideLanding (n : Nat) (c : Carriage) (s : State) : UnitKept s (s.decideLanding n c) := by
  induction n generalizing c s with
  | zero => exact .refl s
  | succ n ih =>
    unfold State.decideLanding
    split
    · exact .refl s
    · dsimp only
      split
      · exact .refl s
      · split
        · exact State.unitKept_qualified
        · exact (State.unitKept_qualified.andThen (.of_confined State.confined_modLanding)).andThen (ih _ _)
      · have lifted : UnitKept s ((s.setLanding c none).enterLift c .free) :=
          (UnitKept.of_confined State.confined_setLanding).andThen State.unitKept_enterLift
        refine (UnitKept.andThen ?_ State.unitKept_failInLift).andThen State.unitKept_sparePartner
        exact .ite (fun _ => lifted) fun _ => lifted.andThen State.unitKept_actOnPartner

theorem State.unitKept_failPair {l : List Carriage} : UnitKept s (s.failPair l) := by
  have lifted : UnitKept s (l.foldl (fun s c => (s.setLanding c none).enterLift c .free) s) :=
    .foldl (fun s c => (UnitKept.of_confined State.confined_setLanding).andThen State.unitKept_enterLift) l s
  unfold State.failPair
  dsimp only
  split
  · exact ((lifted.andThen (.foldl (fun _ _ => State.unitKept_actOnPartner) _ _)).andThen
      (.foldl (fun _ _ => .of_confined State.confined_countFail) _ _)).andThen State.unitKept_noContact
  · exact ((lifted.andThen (.foldl (fun _ _ => State.unitKept_actOnPartner) _ _)).andThen
      (.foldl (fun _ _ => .of_confined State.confined_countFail) _ _)).andThen
      (.foldl (fun _ _ => .of_confined State.confined_modCarr) _ _)

theorem State.unitKept_bindCheck {p : Pair} {b : Bool} : UnitKept s (s.bindCheck p b) :=
  (((((UnitKept.of_confined State.confined_modLanding).andThen (.of_confined State.confined_modLanding)).andThen
    State.unitKept_failPair).andThen (State.unitKept_decideLanding 2 _ _)).andThen
    (State.unitKept_decideLanding 2 _ _)).andThen State.unitKept_considerPair
end

/-! ## The window but for assignments -/

/-- Of every entry the assignment alone may have changed. -/
def EntriesLeft (s t : State) : Prop := ∀ k e, s.entry k = some e → ∃ a, t.entry k = some { e with assignment := a }

section
variable {s t u : State} {c : Carriage} {e : Entry}

theorem EntriesLeft.of_window (h : t.disp.window = s.disp.window) : EntriesLeft s t := fun k e he =>
  ⟨e.assignment, by rw [State.entry_congr h, he]⟩

theorem EntriesLeft.refl (s : State) : EntriesLeft s s := .of_window rfl

theorem EntriesLeft.andThen (h : EntriesLeft s t) (h' : EntriesLeft t u) : EntriesLeft s u := fun k e he => by
  obtain ⟨a, mid⟩ := h k e he
  obtain ⟨b, last⟩ := h' k _ mid
  exact ⟨b, last⟩

theorem EntriesLeft.of_confined {bs : List Block} (h : Confined bs s t) (disp : .disp ∉ bs := by decide) :
    EntriesLeft s t := .of_window (by rw [h.disp disp])

theorem EntriesLeft.ite {p : Prop} [Decidable p] (ht : p → EntriesLeft s t) (hu : ¬ p → EntriesLeft s u) :
    EntriesLeft s (if p then t else u) := by
  split
  · exact ht ‹_›
  · exact hu ‹_›

theorem EntriesLeft.foldl {α : Type} {f : State → α → State} (hf : ∀ s a, EntriesLeft s (f s a)) (l : List α) (s : State) :
    EntriesLeft s (l.foldl f s) := by
  induction l generalizing s with
  | nil => exact .refl s
  | cons a rest ih => exact (hf s a).andThen (ih _)

/-- An entry after a change of every entry of the window that leaves the slots. -/
theorem State.entry_mapWindow {f : Entry → Entry} (hf : ∀ e, (f e).slot = e.slot) (k : Nat) :
    (s.updDisp fun d => { d with window := d.window.map f }).entry k = (s.entry k).map f := by
  change (s.disp.window.map f).find? _ = (s.disp.window.find? _).map f
  rw [List.find?_map]
  exact congrArg (fun p => (s.disp.window.find? p).map f) (funext fun e => by simp [hf e])

theorem State.entriesLeft_leaveAssignments : EntriesLeft s (s.leaveAssignments c) := fun k e he => by
  have left := State.entry_mapWindow (s := s) (f := fun e =>
    { e with assignment := e.assignment.map fun a => if a = some c then none else a }) (fun _ => rfl) k
  rw [he] at left
  exact ⟨_, left⟩

theorem State.entriesLeft_toIdle : EntriesLeft s (s.toIdle c) :=
  (((EntriesLeft.of_confined State.confined_setCarr).andThen (.of_confined State.confined_modCarr)).andThen
    State.entriesLeft_leaveAssignments).andThen (.of_window rfl)

theorem State.entriesLeft_yieldsFailed {bad : Yield → Bool} : EntriesLeft s (s.yieldsFailed bad) :=
  EntriesLeft.foldl (fun s (e : Entry) => .ite (t := s.markWithdraw e.slot) (fun _ => .of_window rfl) fun _ => .refl s) _ s

theorem State.entriesLeft_cancel : EntriesLeft s (s.cancel c) := by
  unfold State.cancel
  split
  · exact .refl s
  · have dropped : EntriesLeft s (s.dropEntry c) := .of_confined State.confined_dropEntry
    refine (EntriesLeft.andThen (EntriesLeft.ite (fun _ => ?_) fun _ => dropped) State.entriesLeft_toIdle).andThen
      (.of_confined State.confined_review)
    exact dropped.andThen State.entriesLeft_yieldsFailed

theorem State.entriesLeft_removeLanding : EntriesLeft s (s.removeLanding c) :=
  .of_confined State.confined_removeLanding

theorem State.entriesLeft_enterLift {f : FollowOn} : EntriesLeft s (s.enterLift c f) :=
  .of_confined State.confined_enterLift

theorem State.entriesLeft_sendEnd : EntriesLeft s (s.sendEnd c) := by
  rw [State.sendEnd.eq_def]
  dsimp only
  split
  · exact .refl s
  · exact .refl s
  · exact .refl s
  · exact .refl s
  · exact .ite (fun _ => .ite (fun _ => State.entriesLeft_cancel) fun _ => State.entriesLeft_toIdle)
      fun _ => .of_confined State.confined_modCarr
  · exact .of_confined State.confined_modCarr
  · exact State.entriesLeft_removeLanding.andThen State.entriesLeft_enterLift
  · exact State.entriesLeft_enterLift
  · exact .ite (fun _ => .refl s) fun _ => State.entriesLeft_enterLift
  · exact .of_confined State.confined_modCarr

theorem State.entriesLeft_sendEnds {l : List Carriage} : EntriesLeft s (s.sendEnds l) :=
  .foldl (fun _ _ => State.entriesLeft_sendEnd) l s

/-! ## The decision of a step (R96) -/

theorem State.decideStep_decided {k : Nat} {o : Entry → Outcome} (he : s.entry k = some e) (h : e.outcome ≠ none) :
    s.decideStep k o = s := by
  unfold State.decideStep
  rw [he]
  exact if_pos (Option.isSome_iff_ne_none.2 h)

/-- The entry of a step that is decided now, its carriages aside. -/
def Entry.concluded (e : Entry) (o : Outcome) (held : Prop) [Decidable held] : Entry :=
  { e with outcome := some o, retestHeld := false, state := if held then e.state else .lifting }

theorem State.decideStep_eq {k : Nat} {o : Entry → Outcome} (he : s.entry k = some e) (h : e.outcome = none) :
    s.decideStep k o = (((s.modEntry k fun e => e.concluded (o e) (s.mu.op = .measurement ∧ s.mu.step = some k)).updMu
      fun u => { u with measQueue := u.measQueue.filter fun j => j != k }).sendEnds e.serving).markScan := by
  unfold State.decideStep
  rw [he]
  exact if_neg (by rw [h]; nofun)

theorem State.entry_decideStep {k : Nat} {o : Entry → Outcome} (he : s.entry k = some e) (h : e.outcome = none) :
    ∃ a, (s.decideStep k o).entry k =
      some { e.concluded (o e) (s.mu.op = .measurement ∧ s.mu.step = some k) with assignment := a } := by
  rw [State.decideStep_eq he h]
  exact State.entriesLeft_sendEnds k _ (State.entry_changed he fun _ => rfl)

theorem State.entry_modEntry_ne {j k : Nat} {f : Entry → Entry} (hf : ∀ e, (f e).slot = e.slot) (h : j ≠ k) :
    (s.modEntry k f).entry j = s.entry j := (State.entry_modEntry hf j).trans (if_neg h)

/-- Any other entry keeps all but its assignment. -/
theorem State.entry_decideStep_ne {j k : Nat} {o : Entry → Outcome} (hj : s.entry j = some e) (h : j ≠ k) :
    ∃ a, (s.decideStep k o).entry j = some { e with assignment := a } := by
  cases hk : s.entry k with
  | none =>
    unfold State.decideStep
    rw [hk]
    exact EntriesLeft.refl s j e hj
  | some f =>
    by_cases out : f.outcome = none
    · rw [State.decideStep_eq hk out]
      have kept : (s.modEntry k fun e => e.concluded (o e) (s.mu.op = .measurement ∧ s.mu.step = some k)).entry j =
          some e := by
        rw [← hj]
        exact State.entry_modEntry_ne (fun _ => rfl) h
      exact State.entriesLeft_sendEnds j e kept
    · rw [State.decideStep_decided hk out]
      exact EntriesLeft.refl s j e hj
end

end Sys2Proof.Machine
end

section
/-! PROOFS. The ends of conversions and of dwells, with the watch that follows them, the comparators, and the count of a
calibration (R114, R116 to R118, R120, R122, R147, R148). -/

set_option Elab.async false

namespace Sys2Proof.Machine

/-! ## Carriages that lift together (R54, R117) -/

/-- The record of a carriage that enters LIFT. -/
def CarriageRec.lifted (clock ms : Nat) (f : FollowOn) (r : CarriageRec) : CarriageRec :=
  { r.stopTimer clock with
    state := .lift, phase := none, purpose := none, followOn := some f, probeUp := false
    request := some ⟨.lift, false⟩, timer := some ms, tip := .isolated }

section
variable {s t u : State} {c : Carriage} {e : Entry} {f : MeasUnit → MeasUnit}

theorem State.carr_liftEngaged (l : List Carriage) (g : Carriage → FollowOn) (s : State) (c : Carriage) :
    (s.liftEngaged l g).carr c = if c ∈ l ∧ (s.carr c).state = .engaged
      then (s.carr c).lifted s.clock s.setup.liftMs (g c) else s.carr c := by
  unfold State.liftEngaged
  induction l generalizing s with
  | nil => simp
  | cons x rest ih =>
    rw [List.foldl_cons, ih]
    by_cases stands : (s.carr x).state = .engaged
    · rw [if_pos stands, State.confined_enterLift.clock, State.confined_enterLift.setup]
      by_cases here : c = x
      · subst here
        rw [State.carr_enterLift]
        simp [stands, CarriageRec.lifted]
      · rw [State.carr_enterLift_ne here]
        simp [here]
    · rw [if_neg stands]
      by_cases here : c = x
      · subst here
        simp [stands]
      · simp [here]

/-! ## The watch after a conversion -/

/-- What comes before, and leaves the Guard and what the watch reads, may be left out. -/
theorem Watched.after (h : Watched t u) (guard : t.guard = s.guard) (source : t.mu.source = s.mu.source)
    (phase : (t.mu.phase = some .precheck ∨ t.mu.phase = some .dummy) ↔
      (s.mu.phase = some .precheck ∨ s.mu.phase = some .dummy)) (pins : t.pins = s.pins) (clock : t.clock = s.clock) :
    Watched s u where
  guard := by
    have marks (timer mark : Option Nat) : t.markAfter timer mark = s.markAfter timer mark := by
      rw [State.markAfter, State.markAfter, clock, if_congr phase rfl rfl]
    rw [h.guard, State.watchAfter, State.watchAfter, source, guard, pins, clock, marks, marks]
  pins := h.pins.trans pins
  clock := h.clock.trans clock

/-- What comes before and leaves unit and Guard alone may be left out. -/
theorem Watched.after_confined {bs : List Block} (h : Watched t u) (rest : Confined bs s t) (guard : .guard ∉ bs := by decide)
    (mu : .mu ∉ bs := by decide) (pins : .pins ∉ bs := by decide) (clock : .clock ∉ bs := by decide) : Watched s u :=
  h.after (rest.guard guard) (by rw [rest.mu mu]) (by rw [rest.mu mu]) (rest.pins pins) (rest.clock clock)

/-- So may what follows and leaves unit and Guard alone. -/
theorem Watched.confined {bs : List Block} (h : Watched s t) (rest : Confined bs t u) (guard : .guard ∉ bs := by decide)
    (mu : .mu ∉ bs := by decide) (pins : .pins ∉ bs := by decide) (clock : .clock ∉ bs := by decide) : Watched s u :=
  h.congr (rest.guard guard) (by rw [rest.mu mu]) (by rw [rest.mu mu]) (rest.pins pins) (rest.clock clock)

/-- Through a phase in which nothing is watched, and which keeps marks, the watch is that of a direct change. -/
theorem Watched.through (h : Watched s t) (h' : Watched t u) (off : t.mu.source ≠ .board) (noDwell : t.mu.dwells = false)
    (keeps : t.mu.phase ≠ some .precheck ∧ t.mu.phase ≠ some .dummy)
    (fresh : s.mu.source ≠ .board ∨ u.mu.source ≠ .board) : Watched s u := by
  have direct : Watched s (t.muStep fun _ => u.mu) := h.quiet (f := fun _ => u.mu) off noDwell keeps fresh
  have mu : (t.muStep fun _ => u.mu).mu = u.mu := State.muStep_mu
  refine direct.congr ?_ (by rw [mu]) (by rw [mu]) (h'.pins.trans State.confined_muStep.pins.symm)
    (h'.clock.trans State.confined_muStep.clock.symm)
  rw [h'.guard, State.muStep_guard]

/-! ## Dwells and releases (R116 to R118) -/

theorem State.beginDwell_mu {p : Phase} {n : DwellNext} : (s.beginDwell p n e).mu =
    { s.mu with phase := some p, source := .off, dwellNext := n } := by
  rw [State.beginDwell, State.muStep_mu, State.modEntry_mu, State.confined_setTips.mu]

theorem State.beginDwell_watched {p : Phase} {n : DwellNext} : Watched s (s.beginDwell p n e) := by
  rw [State.beginDwell]
  exact State.muStep_watched.after_confined
    ((State.confined_setTips.mono (bs := [.carriages, .disp])).andThen State.confined_modEntry)

theorem State.beginDwell_entry {p : Phase} {n : DwellNext} {g : Entry} (he : s.entry e.slot = some g) :
    (s.beginDwell p n e).entry e.slot = some { g with state := .discharging } := by
  rw [State.beginDwell, State.confined_muStep.entry]
  have tips : (s.setTips e.serving .engaged .discharge).entry e.slot = some g := by
    rw [State.confined_setTips.entry, he]
  exact State.entry_changed tips fun _ => rfl

theorem State.endDwell_entry {g : Entry} (he : s.entry e.slot = some g) :
    (s.endDwell e).entry e.slot = some { g with state := .measuring } := by
  have tips : (s.setTips e.serving .engaged .matrix).entry e.slot = some g := by
    rw [State.confined_setTips.entry, he]
  exact State.entry_changed tips fun _ => rfl

theorem State.endDwell_tip (serves : c ∈ e.serving) (engaged : (s.carr c).state = .engaged) (run : s.run.state ≠ .halted) :
    ((s.endDwell e).carr c).tip = .matrix := by
  have marked : (s.endDwell e).carr c = (s.setTips e.serving .engaged .matrix).carr c := State.confined_modEntry.carr c
  rw [marked, State.carr_setTips, if_pos ⟨serves, engaged⟩]
  exact if_neg run

/-- The entry of a step that the unit releases. -/
def Entry.released (e : Entry) : Entry :=
  if e.outcome = none ∧ e.retestHeld = true then
    { e with
      attempts := e.attempts + 1, arrived := List.replicate e.copy.points.length false
      ready := List.replicate e.copy.points.length false, state := .moving, retestHeld := false }
  else { e with state := .lifting }

/-- Where a carriage goes that lifts at the release of its step. -/
def Entry.releaseTo (e : Entry) : Carriage → FollowOn :=
  if e.outcome = none ∧ e.retestHeld = true then e.retestFollowOn else fun _ => .free

/-- A release: the unit is free, the entry goes on, and the engaged carriages lift. -/
theorem State.releaseStep_eq (s : State) (e : Entry) : ∃ f : Entry → Entry, (∀ e, (f e).slot = e.slot) ∧
    f e = e.released ∧
    s.releaseStep e = ((s.muStep MeasUnit.released).modEntry e.slot f).liftEngaged e.serving e.releaseTo := by
  unfold State.releaseStep Entry.releaseTo
  by_cases held : e.outcome = none ∧ e.retestHeld = true
  · refine ⟨fun e => { e with
      attempts := e.attempts + 1, arrived := e.copy.noMarks, ready := e.copy.noMarks, state := .moving
      retestHeld := false }, fun _ => rfl, (if_pos held).symm, ?_⟩
    rw [if_pos held]
    exact if_pos ⟨by rw [held.1]; rfl, held.2⟩
  · refine ⟨fun e => { e with state := .lifting }, fun _ => rfl, (if_neg held).symm, ?_⟩
    rw [if_neg held]
    exact if_neg fun h => held ⟨Option.isNone_iff_eq_none.1 h.1, h.2⟩

theorem State.releaseStep_mu : (s.releaseStep e).mu = s.mu.released := by
  unfold State.releaseStep
  dsimp only
  split
  · rw [State.confined_liftEngaged.mu, State.modEntry_mu, State.muStep_mu]
  · rw [State.confined_liftEngaged.mu, State.modEntry_mu, State.muStep_mu]

theorem State.releaseStep_watched : Watched s (s.releaseStep e) := by
  unfold State.releaseStep
  dsimp only
  split
  · exact (State.muStep_watched.confined State.confined_modEntry).confined State.confined_liftEngaged
  · exact (State.muStep_watched.confined State.confined_modEntry).confined State.confined_liftEngaged

theorem State.releaseStep_entry (he : s.entry e.slot = some e) : (s.releaseStep e).entry e.slot = some e.released := by
  obtain ⟨f, slot, value, release⟩ := State.releaseStep_eq s e
  have stepped : (s.muStep MeasUnit.released).entry e.slot = some e := by rw [State.confined_muStep.entry, he]
  rw [release, State.confined_liftEngaged.entry, State.entry_changed stepped slot, value]

theorem State.releaseStep_carr (s : State) (e : Entry) (c : Carriage) : (s.releaseStep e).carr c =
    if c ∈ e.serving ∧ (s.carr c).state = .engaged then (s.carr c).lifted s.clock s.setup.liftMs (e.releaseTo c)
    else s.carr c := by
  obtain ⟨f, -, -, release⟩ := State.releaseStep_eq s e
  have before : Confined [.mu, .guard, .disp] s ((s.muStep MeasUnit.released).modEntry e.slot f) :=
    (State.confined_muStep.mono).andThen State.confined_modEntry
  rw [release, State.carr_liftEngaged, before.carr, before.clock, before.setup]

/-- The end of an attempt in the unit: the discharge dwell, or the release. -/
theorem State.endAttempt_dwells {b : Bool} (owed : b = true) (dwell : s.setup.dwell ≠ 0) :
    s.endAttempt b e = s.beginDwell .dwell .release e := if_pos ⟨owed, dwell⟩

theorem State.endAttempt_releases {b : Bool} (h : b = false ∨ s.setup.dwell = 0) : s.endAttempt b e = s.releaseStep e :=
  if_neg fun both => h.elim (fun e => by rw [e] at both; exact absurd both.1 nofun) both.2

theorem State.endAttempt_watched {b : Bool} : Watched s (s.endAttempt b e) := by
  unfold State.endAttempt
  split
  · exact State.beginDwell_watched
  · exact State.releaseStep_watched

theorem State.endAttempt_source {b : Bool} : (s.endAttempt b e).mu.source = .off := by
  unfold State.endAttempt
  split
  · rw [State.beginDwell_mu]
  · rw [State.releaseStep_mu]
    rfl

/-! ## A conversion that stands (R117, R141) -/

/-- A conversion is decided: the record is kept, and the outcome, or the retest, is on the entry. -/
def State.judged (e : Entry) (r : EvalRec) (v : Conversion) (s : State) : State :=
  let s := s.modEntry e.slot fun e => { e with eval := some r }
  if isFinal (e.copy.verdict v) r.attempt e.copy.retest then
    s.decideStep e.slot fun e => e.finalOutcome r v s.clock
  else s.modEntry e.slot fun e => { e with retestHeld := true }

theorem State.stands_eq {r : EvalRec} {v : Conversion} {g : Entry} (h : (s.judged e r v).entry e.slot = some g) :
    s.stands e r v = (s.judged e r v).endAttempt g.copy.kind.discharges g := by
  unfold State.stands
  unfold State.judged at h ⊢
  dsimp only at h ⊢
  rw [h]

/-- The entry of a step whose conversion was judged, its carriages aside. -/
def Entry.judged (e : Entry) (r : EvalRec) (v : Conversion) (clock : Nat) : Entry :=
  if isFinal (e.copy.verdict v) r.attempt e.copy.retest then
    { e with eval := some r, outcome := some (({ e with eval := some r } : Entry).finalOutcome r v clock), retestHeld := false }
  else { e with eval := some r, retestHeld := true }

theorem State.inHand_entry (hand : s.inHand = some e) : s.mu.step = some e.slot ∧ s.entry e.slot = some e := by
  obtain ⟨k, step, entry⟩ := Option.bind_eq_some_iff.1 hand
  obtain rfl := State.entry_slot entry
  exact ⟨step, entry⟩

/-- A step in measurement is judged: its entry keeps its state, and the unit does but for its queues. -/
theorem State.entry_judged (op : s.mu.op = .measurement) (step : s.mu.step = some e.slot) (he : s.entry e.slot = some e)
    (out : e.outcome = none) (r : EvalRec) (v : Conversion) :
    ∃ a, (s.judged e r v).entry e.slot = some { e.judged r v s.clock with assignment := a } := by
  have kept : (s.modEntry e.slot fun e => { e with eval := some r }).entry e.slot = some { e with eval := some r } :=
    State.entry_changed he fun _ => rfl
  unfold State.judged Entry.judged
  dsimp only
  split
  · obtain ⟨a, decided⟩ := State.entry_decideStep (o := fun e => e.finalOutcome r v s.clock) kept out
    rw [Entry.concluded, if_pos ⟨op, step⟩] at decided
    exact ⟨a, decided⟩
  · exact ⟨e.assignment, State.entry_changed kept fun _ => rfl⟩

theorem State.unitKept_judged {r : EvalRec} {v : Conversion} : UnitKept s (s.judged e r v) := by
  have kept : UnitKept s (s.modEntry e.slot fun e => { e with eval := some r }) := .of_confined State.confined_modEntry
  exact .ite (fun _ => kept.andThen State.unitKept_decideStep) fun _ => kept.andThen (.of_confined State.confined_modEntry)

theorem State.confined_judged {r : EvalRec} {v : Conversion} : Confined serviceBlocks s (s.judged e r v) := by
  have kept : Confined serviceBlocks s (s.modEntry e.slot fun e => { e with eval := some r }) := State.confined_modEntry.mono
  exact .ite (fun _ => kept.andThen State.confined_decideStep) fun _ => kept.andThen State.confined_modEntry

/-- A unit without a pair check that changes in its queues alone keeps what the watch reads. -/
theorem Watched.after_kept (h : Watched t u) (kept : UnitKept s t) (op : s.mu.op ≠ .pairCheck) (pins : t.pins = s.pins)
    (clock : t.clock = s.clock) : Watched s u := by
  obtain ⟨guard, q, m, mu⟩ := kept op
  exact h.after guard (by rw [mu]) (by rw [mu]) pins clock

theorem Watched.kept (h : Watched s t) (kept : UnitKept t u) (op : t.mu.op ≠ .pairCheck) (pins : u.pins = t.pins)
    (clock : u.clock = t.clock) : Watched s u := by
  obtain ⟨guard, q, m, mu⟩ := kept op
  exact h.congr guard (by rw [mu]) (by rw [mu]; rfl) pins clock

theorem State.stands_watched (op : s.mu.op = .measurement) (found : s.entry e.slot = some e) {r : EvalRec} {v : Conversion} :
    Watched s (s.stands e r v) ∧ (s.stands e r v).mu.source = .off := by
  have there : ∃ g, (s.judged e r v).entry e.slot = some g := by
    have kept : (s.modEntry e.slot fun e => { e with eval := some r }).entry e.slot = some { e with eval := some r } :=
      State.entry_changed found fun _ => rfl
    unfold State.judged
    dsimp only
    split
    · by_cases out : e.outcome = none
      · obtain ⟨a, decided⟩ := State.entry_decideStep (o := fun e => e.finalOutcome r v s.clock) kept out
        exact ⟨_, decided⟩
      · exact ⟨_, (congrArg (State.entry · e.slot) (State.decideStep_decided kept out)).trans kept⟩
    · exact ⟨_, State.entry_changed kept fun _ => rfl⟩
  obtain ⟨g, entry⟩ := there
  rw [State.stands_eq entry]
  exact ⟨State.endAttempt_watched.after_kept State.unitKept_judged (by rw [op]; nofun) State.confined_judged.pins
    State.confined_judged.clock, State.endAttempt_source⟩
end

/-! ## The count of a calibration (R122, R123) -/

section
variable {s t : State}

/-- Notes offered one after another join the held notes while there is room for all. -/
theorem State.offerNotes_room (l : List Note) (s : State) (h : s.log.notes.length + l.length ≤ 8) :
    (l.foldl (fun s n => s.offerNote n) s).log = { s.log with
      notes := s.log.notes ++ l.mapIdx fun i n => ⟨n, s.log.offers + i⟩, offers := s.log.offers + l.length } := by
  induction l generalizing s with
  | nil => simp
  | cons n rest ih =>
    rw [List.length_cons] at h
    have offered : (s.offerNote n).log = { s.log with
        notes := s.log.notes ++ [⟨n, s.log.offers⟩], offers := s.log.offers + 1 } := by
      rw [State.offerNote_room (by omega)]
      rfl
    rw [List.foldl_cons, ih _ (by rw [offered, List.length_append, List.length_singleton]; omega), offered]
    simp only [List.append_assoc, List.mapIdx_cons, List.length_cons, List.singleton_append, Nat.add_zero,
      Nat.add_assoc, Nat.add_comm 1]

theorem clampedGains_five : ∀ c0 c1 c2 c3 c4 : Bool, clampedGains 0 [c0, c1, c2, c3, c4] =
    (List.range 5).filter fun g => [c0, c1, c2, c3, c4].getD g false := by decide

theorem rawOffset_eq {codes : List Code} (h : codes.length = 1024) :
    rawOffset codes = divRound (codes.map fun k => k.toInt).sum 1024 := by
  rw [rawOffset, Config.calSamples, takeCodes_length h, correctedSum_eq]
  simp only [Int.sub_zero]

/-- A calibration that completes, before the Run Controller is told. -/
def State.calStored (z : List Int) (clamped : List Bool) (s : State) : State :=
  let s := s.updMu fun u =>
    { u with op := .idle, phase := none, newZ := [], newClamped := [], z := zOf z, zAge := 0, calRange := clamped.any id }
  let s := (((clampedGains 0 clamped).map fun g => (⟨.calRange, none, g, 0, 0, 0⟩ : Note)).foldl
    (fun s n => s.offerNote n) s).raise .cal
  if s.frame.state = .none then s else s.offerNote ⟨.calDone, none, 0, 0, 0, 0⟩

variable {z : List Int} {clamped : List Bool}

theorem State.calComplete_eq : s.calComplete z clamped = (s.calStored z clamped).calibrated := by
  unfold State.calComplete State.calStored
  dsimp only
  rw [List.foldl_map]

theorem State.confined_calStored : Confined [.mu, .log, .regs] s (s.calStored z clamped) := by
  have raised (t : State) (l : List Note) : Confined [.log, .regs] t ((l.foldl (fun s n => s.offerNote n) t).raise .cal) :=
    ((Confined.foldl (fun _ _ => State.confined_offerNote) l t).mono).andThen State.confined_raise
  unfold State.calStored
  dsimp only
  split
  · exact (State.confined_updMu.mono).andThen (raised _ _)
  · exact ((State.confined_updMu.mono).andThen (raised _ _)).andThen State.confined_offerNote

theorem State.calStored_mu : (s.calStored z clamped).mu = { s.mu with
    op := .idle, phase := none, newZ := [], newClamped := [], z := zOf z, zAge := 0, calRange := clamped.any id } := by
  have offered (t : State) (l : List Note) : (l.foldl (fun s n => s.offerNote n) t).mu = t.mu :=
    (Confined.foldl (fun _ _ => State.confined_offerNote) l t).mu
  unfold State.calStored
  dsimp only
  split
  · exact offered _ _
  · exact offered _ _

theorem State.calStored_regs : (s.calStored z clamped).regs = { s.regs with intStatus := s.regs.intStatus ||| 32 } := by
  have offered (t : State) (l : List Note) : (l.foldl (fun s n => s.offerNote n) t).regs = t.regs :=
    (Confined.foldl (fun _ _ => State.confined_offerNote) l t).regs
  have raised (t : State) (l : List Note) : ((l.foldl (fun s n => s.offerNote n) t).raise .cal).regs =
      { t.regs with intStatus := t.regs.intStatus ||| 32 } := by
    rw [State.raise, State.updRegs, offered]
    rfl
  unfold State.calStored
  dsimp only
  split
  · exact raised _ _
  · exact raised _ _

/-- The notes of a calibration: one for each clamped gain, and one more beside a frame. -/
theorem State.calStored_log {notes : List Note} (listed : notes =
      ((clampedGains 0 clamped).map fun g => (⟨.calRange, none, g, 0, 0, 0⟩ : Note)) ++
        if s.frame.state = .none then [] else [⟨.calDone, none, 0, 0, 0, 0⟩]) :
    (s.calStored z clamped).log = (notes.foldl (fun s n => s.offerNote n) s).log := by
  have log (l : List Note) (a b : State) (h : a.log = b.log) :
      (l.foldl (fun s n => s.offerNote n) a).log = (l.foldl (fun s n => s.offerNote n) b).log := by
    induction l generalizing a b with
    | nil => exact h
    | cons n rest ih => exact ih _ _ (congrArg (fun g => (s.updLog fun _ => g).offerNote n |>.log) h)
  have frame (l : List Note) (a : State) : (l.foldl (fun s n => s.offerNote n) a).frame = a.frame :=
    (Confined.foldl (fun _ _ => State.confined_offerNote) l a).frame
  rw [listed, List.foldl_append]
  unfold State.calStored
  dsimp only
  rw [State.confined_raise.frame, frame]
  by_cases open_ : s.frame.state = .none
  · rw [if_pos open_, if_pos (by exact open_)]
    exact log _ _ _ rfl
  · rw [if_neg open_, if_neg (by exact open_)]
    exact log [_] _ _ (log _ _ _ rfl)

theorem State.confined_calibrated : Confined [.run, .fetch, .hostMem] s s.calibrated := by
  unfold State.calibrated
  split
  · exact State.confined_setRun
  · exact .ite (fun _ => .refl _ s) fun _ => State.confined_goBack
  all_goals exact .refl _ s

theorem State.goBack_state : s.goBack.run.state = match s.run.ret with
    | some q => q.run
    | none => .idle := by
  unfold State.goBack
  dsimp only
  exact (congrArg RunCtl.state (State.setRun_run _)).trans rfl
end

end Sys2Proof.Machine

open Sys2Proof Sys2Proof.Machine in
/-- Settles O39: the offset of one gain, and what the fifth of them completes. -/
theorem calibrationCounts : Obligations.CalibrationCounts := by
  intro s codes op phase length v z
  have offset : rawOffset codes = v := rawOffset_eq length
  have moved : (clampOffset (rawOffset codes) != rawOffset codes) = decide (z ≠ v) := by
    rw [offset, bne, Bool.beq_eq_decide_eq, ← decide_not]
    rfl
  have exec_eq : exec (.calCountEnd codes) s = if s.mu.gain < 4 then .next (s.updMu fun u => { u with
        gain := u.gain + 1, phase := some .dummy, newZ := s.mu.newZ ++ [z]
        newClamped := s.mu.newClamped ++ [decide (z ≠ v)] })
      else .next (s.calComplete (s.mu.newZ ++ [z]) (s.mu.newClamped ++ [decide (z ≠ v)])).finish := by
    change execCalCountEnd codes s = _
    rw [execCalCountEnd, op, phase]
    dsimp only
    rw [moved, offset]
    rfl
  refine ⟨fun small => exec_eq.trans (if_pos small), fun z0 z1 z2 z3 last offsets => ?_⟩
  let t := s.calStored (s.mu.newZ ++ [z]) (s.mu.newClamped ++ [decide (z ≠ v)])
  have stored : Confined [.mu, .log, .regs] s t := State.confined_calStored
  have told : Confined [.run, .fetch, .hostMem] t t.calibrated := State.confined_calibrated
  have rest : Confined [.mu, .log, .regs, .run, .fetch, .hostMem] s t.calibrated := (stored.mono).andThen told
  have mu := told.mu.trans State.calStored_mu
  have calOrder : t.mu.calOrder = s.mu.calOrder := by rw [State.calStored_mu]
  have run : t.run = s.run := stored.run
  have back (q : ReturnState) (state : s.run.state = .calibrating) (calm : s.mu.calOrder = false) (ret : s.run.ret = some q) :
      t.calibrated.run.state = q.run := by
    rw [State.calibrated, run, state]
    dsimp only
    rw [calOrder, calm, if_neg nofun, State.goBack_state, run, ret]
  refine ⟨t.calibrated, ?_, by rw [mu], by rw [mu], ?_, by rw [mu], ?_, told.regs.trans State.calStored_regs, rest.setup,
    rest.claims, rest.carriages, rest.frame, rest.nets, fun powerup => ?_, back .stopped, back .idle, ?_, fun other => ?_⟩
  · rw [exec_eq, if_neg (by omega), State.calComplete_eq]
  · rw [mu, offsets]
    rfl
  · rw [mu, List.any_append]
    simp
  · rw [State.calibrated, run, powerup]
    dsimp only
    rw [State.setRun_run]
  · intro c0 c1 c2 c3 marks clamped notes room
    have listed : notes = ((clampedGains 0 (s.mu.newClamped ++ [decide (z ≠ v)])).map fun g =>
        (⟨.calRange, none, g, 0, 0, 0⟩ : Note)) ++ if s.frame.state = .none then [] else [⟨.calDone, none, 0, 0, 0, 0⟩] := by
      rw [marks, List.cons_append, List.cons_append, List.cons_append, List.cons_append, List.nil_append,
        clampedGains_five]
    rw [told.log, State.calStored_log listed, State.offerNotes_room _ _ room]
  · rw [← run, State.calibrated.eq_def]
    rw [← run] at other
    split
    · next h => exact absurd (by rw [h]; decide) other
    · next h => exact absurd (by rw [h]; decide) other
    all_goals rfl
end

section
/-! PROOFS. The end of a discharge dwell and of a Source Guard dwell, and the comparators: what each end of a phase makes of
their watch (R116 to R118, R147, R148). -/

set_option Elab.async false

namespace Sys2Proof.Machine

section
variable {s t : State} {e : Entry} {c : Carriage}

/-- A measurement that goes on at its range after a dwell of a kind with a pre-check. -/
theorem State.resume_mu (driven : e.copy.kind ≠ .volt) : (s.beginMeasurement e.copy).mu =
    { s.mu with phase := some .precheck, source := .off, gain := 0 } := by
  rw [State.beginMeasurement_driven driven, State.muStep_mu]

theorem State.repeatCharge_eq (r : Nat) : s.repeatCharge e r =
    ((s.endDwell e).updMu fun u => { u with range := some r, dwellNext := .release }).beginMeasurement e.copy := rfl

theorem Kind.cap_ne_volt {k : Kind} (h : k = .cap) : k ≠ .volt := by
  rw [h]
  nofun

theorem State.repeatCharge_mu {r : Nat} (cap : e.copy.kind = .cap) : (s.repeatCharge e r).mu = { s.mu with
    range := some r, dwellNext := .release, phase := some .precheck, source := .off, gain := 0 } := by
  rw [State.repeatCharge_eq, State.resume_mu (Kind.cap_ne_volt cap)]
  change ({ (s.endDwell e).mu with
    range := some r, dwellNext := .release, phase := some .precheck, source := .off, gain := 0 } : MeasUnit) = _
  rw [State.confined_endDwell.mu]

theorem State.repeatCharge_entry {r : Nat} {g : Entry} (he : s.entry e.slot = some g) :
    (s.repeatCharge e r).entry e.slot = some { g with state := .measuring } := by
  rw [State.repeatCharge_eq, State.confined_beginMeasurement.entry, State.confined_updMu.entry, State.endDwell_entry he]

theorem State.repeatCharge_carr {r : Nat} : (s.repeatCharge e r).carr c = (s.endDwell e).carr c := by
  rw [State.repeatCharge_eq, State.confined_beginMeasurement.carr, State.confined_updMu.carr]

theorem Entry.retestFollowOn_at {n : Nat} {p : Point} (point : e.pointOf c = some n) (at_ : e.copy.points[n]? = some p) :
    e.retestFollowOn c = .landAt p.at_ .step := by
  rw [Entry.retestFollowOn, point, Option.bind_some, at_]

/-! ## The watch after the ends of phases -/

theorem State.repeatCharge_watched {r : Nat} (cap : e.copy.kind = .cap) : Watched s (s.repeatCharge e r) := by
  rw [State.repeatCharge_eq, State.beginMeasurement_driven (Kind.cap_ne_volt cap)]
  have begun : Watched (s.endDwell e) (((s.endDwell e).updMu fun u => { u with
      range := some r, dwellNext := .release }).muStep fun u => { u with
      phase := some .precheck, source := .off, gain := 0 }) :=
    State.muStep_watched.of_updMu rfl Iff.rfl
  exact begun.after_confined State.confined_endDwell

/-- A conversion that stands or is made again keeps or ends the watch as a direct change of the unit does. -/
theorem State.reportSampled_watched {l : List Sample} (op : s.mu.op = .measurement) (phase : s.mu.phase = some .count)
    (found : s.entry e.slot = some e) : Watched s (s.reportSampled e l) := by
  have quiet (q : Option Phase) (h : q = some .evaluate ∨ q = some .count) : ¬ (q = some .precheck ∨ q = some .dummy) := by
    obtain rfl | rfl := h
    · exact not_or.2 ⟨nofun, nofun⟩
    · exact not_or.2 ⟨nofun, nofun⟩
  have evaluating : (s.mu.evaluating.phase = some .precheck ∨ s.mu.evaluating.phase = some .dummy) ↔
      (s.mu.phase = some .precheck ∨ s.mu.phase = some .dummy) :=
    iff_of_false (quiet _ (.inl rfl)) (quiet _ (.inr phase))
  unfold State.reportSampled
  dsimp only
  split
  · refine Watched.of_updMu (g := MeasUnit.evaluating) (Watched.after_confined (Watched.of_updMu State.beginSettle_watched
      rfl Iff.rfl) State.confined_markRanged) rfl evaluating
  · exact (State.stands_watched (s := s.updMu MeasUnit.evaluating) op found).1.of_updMu rfl evaluating

theorem State.reportCharge_watched {k : StopKind} {n : Nat} (op : s.mu.op = .measurement) (found : s.entry e.slot = some e)
    (cap : e.copy.kind = .cap) : Watched s (s.reportCharge e k n) := by
  let t := s.muStep fun u => { u.evaluating with source := .off, charge := n }
  have mu : t.mu = { s.mu.evaluating with source := .off, charge := n } := State.muStep_mu
  have first : Watched s t := State.muStep_watched
  have through {u : State} (h : Watched t u) (off : u.mu.source = .off) : Watched s u := by
    refine first.through h ?_ ?_ ?_ (.inr ?_)
    · rw [mu]
      nofun
    · rw [mu]
      rfl
    · rw [mu]
      exact ⟨nofun, nofun⟩
    · rw [off]
      nofun
  have op' : t.mu.op = .measurement := by rw [mu]; exact op
  have found' : t.entry e.slot = some e := by rw [State.confined_muStep.entry, found]
  unfold State.reportCharge
  dsimp only
  split
  · split
    · exact through ((State.repeatCharge_watched cap).after_confined State.confined_markRanged)
        (by rw [State.repeatCharge_mu cap])
    · exact through (State.beginDwell_watched.after_confined State.confined_markRanged) (by rw [State.beginDwell_mu])
  · exact through (State.stands_watched op' found').1 (State.stands_watched op' found').2

/-- The end of a pair check ends the watch, whatever its outcome sets off. -/
theorem State.checkEnd_watched {p : Pair} {b : Bool} : Watched s ((s.releaseCheck p).bindCheck p b) := by
  have released : Watched s (s.releaseCheck p) := State.muStep_watched.confined State.confined_setTips
  have mu : (s.releaseCheck p).mu = s.mu.remember.released := by
    rw [State.releaseCheck, State.confined_setTips.mu, State.muStep_mu]
  exact released.kept State.unitKept_bindCheck (by rw [mu]; nofun) State.confined_bindCheck.pins
    State.confined_bindCheck.clock

theorem State.dropCut_watched (h : Watched s.dropCut t) : Watched s t := h.of_updMu rfl Iff.rfl

theorem State.remembered_watched (h : Watched (s.dropCut.updMu MeasUnit.remember) t) : Watched s t :=
  State.dropCut_watched (h.of_updMu rfl Iff.rfl)
end

end Sys2Proof.Machine

open Sys2Proof Sys2Proof.Machine in
/-- Settles O37: the release after a discharge dwell, and the pre-check that follows a CAP repeat and a Guard dwell. -/
theorem dwellsEnd : Obligations.DwellsEnd := by
  refine ⟨fun s e op phase hand next fresh => ?_, fun s e r op phase hand next cap fresh => ?_,
    fun s e op phase hand driven fresh => ?_⟩
  · obtain ⟨-, found⟩ := State.inHand_entry hand
    have rest : Confined [.mu, .guard, .disp, .carriages, .linkOut] s (s.dropCut.releaseStep e) :=
      (State.confined_dropCut.mono).andThen State.confined_releaseStep
    have mu : (s.dropCut.releaseStep e).mu = { s.mu.released with cut := none } := State.releaseStep_mu
    refine ⟨s.dropCut.releaseStep e, ?_, rest.claims, rest.log, rest.setup, mu, by rw [mu]; rfl, by rw [mu]; rfl,
      by rw [mu]; rfl, ⟨_, State.releaseStep_entry (s := s.dropCut) found, rfl⟩, fun c engaged serves => ?_⟩
    · change execDwellEnd s = _
      rw [execDwellEnd, if_neg (mt MeasUnit.stale_iff.1 fresh), op, phase, hand, next]
    · have lifted : (s.dropCut.releaseStep e).carr c = (s.carr c).lifted s.clock s.setup.liftMs (e.releaseTo c) :=
        (State.releaseStep_carr s.dropCut e c).trans (if_pos ⟨serves, engaged⟩)
      rw [lifted]
      refine ⟨rfl, rfl, rfl, fun settled => ?_, fun n p out held point at_ => ?_⟩
      · change some (e.releaseTo c) = _
        rw [Entry.releaseTo, if_neg fun h => settled.elim (· h.1) fun h' => by rw [h'] at h; exact absurd h.2 nofun]
      · change some (e.releaseTo c) = _
        rw [Entry.releaseTo, if_pos ⟨out, held⟩, Entry.retestFollowOn_at point at_]
  · obtain ⟨-, found⟩ := State.inHand_entry hand
    have mu := State.repeatCharge_mu (s := s.dropCut) (r := r) cap
    refine ⟨s.dropCut.repeatCharge e r, ?_, by rw [mu], by rw [mu], by rw [mu], by rw [mu], by rw [mu],
      State.repeatCharge_entry (s := s.dropCut) found, fun c serves engaged run => ?_⟩
    · change execDwellEnd s = _
      rw [execDwellEnd, if_neg (mt MeasUnit.stale_iff.1 fresh), op, phase, hand, next]
    · rw [State.repeatCharge_carr]
      exact State.endDwell_tip (s := s.dropCut) serves engaged run
  · obtain ⟨-, found⟩ := State.inHand_entry hand
    have mu := State.resume_mu (s := s.dropCut.endDwell e) driven
    have dwelt : (s.dropCut.endDwell e).mu = s.dropCut.mu := State.confined_endDwell.mu
    refine ⟨(s.dropCut.endDwell e).beginMeasurement e.copy, ?_, by rw [mu], ?_, by rw [mu], by rw [mu], ?_,
      fun c serves engaged run => ?_⟩
    · change execGuardDwellEnd s = _
      rw [execGuardDwellEnd, if_neg (mt MeasUnit.stale_iff.1 fresh), op, phase, hand]
    · rw [mu, dwelt]
      rfl
    · rw [State.confined_beginMeasurement.entry]
      exact State.endDwell_entry (s := s.dropCut) found
    · rw [State.confined_beginMeasurement.carr]
      exact State.endDwell_tip (s := s.dropCut) serves engaged run

open Sys2Proof Sys2Proof.Machine in
/-- Settles O40: the watch over a change of the unit, at the ends of phases, and the comparators' own events. -/
theorem comparators : Obligations.Comparators := by
  unfold Obligations.Comparators
  intro dwells after
  refine ⟨fun u => ⟨u.watchesSense_iff, u.watchesSource_iff⟩, fun s f => State.muStep_whole, fun s i fresh hand ends => ?_,
    fun s i fresh ends => ?_, fun s => ?_, fun s => ?_, fun s => rfl, fun s => rfl, fun s n timer cut => ?_,
    fun s n timer cut => ?_, fun s timer cut => ?_, fun s timer cut => ?_, fun s cut => ?_, fun s cut => ?_⟩
  · have settled (t : State) (n : Nat) (mu : t.mu.source = s.mu.source) (h : Watched s (t.afterSettle n))
        (phase : s.mu.phase ≠ some (if n = 0 then .count else .skip)) (run : exec i s = .next (t.afterSettle n)) :
        ∃ u : State, exec i s = .next u ∧ u.guard = after s u.mu ∧ u.mu.source = s.mu.source ∧ u.mu.phase ≠ s.mu.phase := by
      refine ⟨_, run, h.guard, ?_, ?_⟩
      · rw [State.afterSettle, State.muStep_mu]
        exact mu
      · rw [State.afterSettle, State.muStep_mu]
        exact Ne.symm phase
    obtain ⟨rfl, phase⟩ | ⟨rfl, phase, op⟩ := ends
    · have notStale := mt MeasUnit.stale_iff.1 (fresh .settle)
      have away (n : Nat) : s.mu.phase ≠ some (if n = 0 then .count else .skip) := by
        rw [phase]
        split <;> nofun
      have run (n : Nat) (h : execSettleEnd s = .next (s.dropCut.afterSettle n)) :=
        settled s.dropCut n rfl (State.dropCut_watched State.muStep_watched) (away n) h
      obtain op | ⟨op, held⟩ := hand
      · refine run 0 ?_
        rw [execSettleEnd, if_neg notStale, op, phase]
      · obtain ⟨e, hand⟩ := Option.ne_none_iff_exists'.1 held
        refine run e.copy.skip ?_
        rw [execSettleEnd, if_neg notStale, op, phase, hand]
    · refine settled s 0 rfl State.muStep_watched (by rw [phase]; nofun) ?_
      change execSkipEnd s = _
      rw [execSkipEnd, op, phase]
  · have by_watch (t : State) (h : Watched s t) (run : exec i s = .next t.finish) :
        ∃ u : State, exec i s = .next u.finish ∧ u.guard = after s u.mu := ⟨t, run, h.guard⟩
    have notStale := mt MeasUnit.stale_iff.1 (fresh .dummy)
    obtain ⟨op, ⟨rfl, phase⟩ | ⟨⟨q, rfl⟩, phase, pair⟩⟩ | ⟨op, e, hand, h⟩ := ends
    · refine by_watch _ (State.remembered_watched (State.beginSettle_watched (m := 50) (n := 0) (q := .board))) ?_
      change execDummyEnd s = _
      rw [execDummyEnd, if_neg notStale, op, phase]
      rfl
    · obtain ⟨p, pair⟩ := Option.ne_none_iff_exists'.1 pair
      refine by_watch _ (State.checkEnd_watched (p := p) (b := checkPasses s.mu.z s.setup.contactLimit q)) ?_
      change execPairCheckCountEnd q s = _
      rw [execPairCheckCountEnd, op, phase, pair]
    · obtain ⟨-, found⟩ := State.inHand_entry hand
      obtain ⟨rfl, phase⟩ | ⟨⟨q, rfl⟩, phase⟩ | ⟨⟨k, rfl⟩, phase, cap⟩ := h
      · refine by_watch _ (State.remembered_watched (State.applyStimulus_watched (c := e.copy))) ?_
        change execDummyEnd s = _
        rw [execDummyEnd, if_neg notStale, op, phase, hand]
      · refine by_watch _ (State.reportSampled_watched (l := q) op phase found) ?_
        change execCountEnd q s = _
        rw [execCountEnd, op, phase, hand]
      · refine by_watch _ (State.reportCharge_watched (k := .threshold) (n := k.toNat) op found cap) ?_
        change execChargeThreshold k s = _
        rw [execChargeThreshold, op, phase, hand]
  · change execComparatorAsserted .sense s = _
    unfold execComparatorAsserted
    by_cases starts : s.mu.watchesSense = true ∧ s.pins.sense = false
    · rw [if_pos starts]
      exact if_pos ⟨starts.1, by rw [starts.2]; nofun⟩
    · rw [if_neg starts]
      exact if_neg fun h => starts ⟨h.1, by simpa using h.2⟩
  · change execComparatorAsserted .source s = _
    unfold execComparatorAsserted
    by_cases starts : s.mu.watchesSource = true ∧ s.pins.source = false
    · rw [if_pos starts]
      exact if_pos ⟨starts.1, by rw [starts.2]; nofun⟩
    · rw [if_neg starts]
      exact if_neg fun h => starts ⟨h.1, by simpa using h.2⟩
  · change execDeglitchComplete .sense s = _
    rw [execDeglitchComplete, State.deglitched, if_neg cut, timer]
    rfl
  · change execDeglitchComplete .source s = _
    rw [execDeglitchComplete, State.deglitched, if_neg cut, timer]
    rfl
  · change execDeglitchComplete .sense s = _
    rw [execDeglitchComplete, State.deglitched, if_neg cut, timer]
    rfl
  · change execDeglitchComplete .source s = _
    rw [execDeglitchComplete, State.deglitched, if_neg cut, timer]
    rfl
  · change execDeglitchComplete .sense s = _
    rw [execDeglitchComplete, State.deglitched, if_pos cut]
    rfl
  · change execDeglitchComplete .source s = _
    rw [execDeglitchComplete, State.deglitched, if_pos cut]
    rfl
end

section
/-! PROOFS. The end of COUNT and of a CAP charge: the conversion that is formed, the repeat at a neighbouring setting, and the
attempt that is decided (R113, R114, R116, R117, R128 to R141). -/

set_option Elab.async false

namespace Sys2Proof.Machine

/-! ## Conversions -/

theorem takeSamples_length {n : Nat} {l : List Sample} (h : l.length = n) : takeSamples n l = l := by
  rw [takeSamples, h, Nat.sub_self]
  simp [← h]

theorem endCode_eq (k : Code) : endCode k = (k == 0x8000 || k == 0x7FFF) := by
  have listed : (k == 0x8000 || k == 0x7FFF) = true ↔ (k = 0x8000 ∨ k = 0x7FFF) := by
    rw [Bool.or_eq_true, beq_iff_eq, beq_iff_eq]
  exact Bool.eq_iff_iff.2 ((endCode_iff k).trans listed.symm)

theorem sampledConversion_eq (k : Kind) (a : Int) (clipped : Bool) (n range gain leads : Nat) :
    sampledConversion k a clipped n range gain leads =
      ⟨match if clipped then some (clipEndOf k a) else none with
        | some end_ => clipValue k range gain 1 end_
        | none => sampledValue k a n range gain leads, if clipped then some (clipEndOf k a) else none, gain, range⟩ := by
  cases clipped <;> rfl

theorem isSome_if (b : Bool) (k : ClipEnd) : (if b then some k else none : Option ClipEnd).isSome = b := by
  cases b <;> rfl

theorem chargeConversion_eq (stop : StopKind) (ticks range gain threshold strays : Nat) :
    chargeConversion stop ticks range gain threshold strays =
      ⟨if stop = .threshold then capacitanceValue ticks range threshold strays else capacitanceClip range threshold,
        if stop = .threshold then none else some .positive, gain, range⟩ := by
  cases stop with
  | threshold => rw [if_pos rfl, if_pos rfl, chargeConversion]
  | timerLimit => rw [if_neg nofun, if_neg nofun, chargeConversion]
  | compliance => rw [if_neg nofun, if_neg nofun, chargeConversion]

theorem mayRepeat_iff (c : StepCopy) (r : EvalRec) : mayRepeat c r = true ↔ c.autorange = true ∧ r.conversions < 4 := by
  rw [mayRepeat, Bool.and_eq_true, decide_eq_true_eq]
  rfl

theorem isFinal_iff (v : Verdict) (attempt retest : Nat) : isFinal v attempt retest = true ↔ v = .pass ∨ retest < attempt := by
  rw [isFinal, Bool.or_eq_true, beq_iff_eq, decide_eq_true_eq]

/-! ## An attempt that is decided (R117, R141) -/

section
variable {s t : State} {e g : Entry} {c : Carriage} {r : EvalRec} {v : Conversion}

/-- A judged entry of an undecided step has its outcome, or a retest held. -/
theorem Entry.judged_final {n : Nat} (final : isFinal (e.copy.verdict v) r.attempt e.copy.retest = true) : e.judged r v n =
    { e with eval := some r, outcome := some (({ e with eval := some r } : Entry).finalOutcome r v n), retestHeld := false } :=
  if_pos final

theorem Entry.judged_retest {n : Nat} (final : ¬ isFinal (e.copy.verdict v) r.attempt e.copy.retest = true) :
    e.judged r v n = { e with eval := some r, retestHeld := true } := if_neg final

theorem Entry.released_decided (h : g.outcome ≠ none) : g.released = { g with state := .lifting } :=
  if_neg fun both => h both.1

theorem Entry.released_retest (out : g.outcome = none) (held : g.retestHeld = true) : g.released = { g with
    attempts := g.attempts + 1, arrived := List.replicate g.copy.points.length false
    ready := List.replicate g.copy.points.length false, state := .moving, retestHeld := false } := if_pos ⟨out, held⟩

/-- What a conversion that stands makes of the step's entry and of the unit. -/
structure Stands (s : State) (e : Entry) (r : EvalRec) (v : Conversion) (t : State) (f : Entry) : Prop where
  entry : t.entry e.slot = some f
  final : isFinal (e.copy.verdict v) r.attempt e.copy.retest = true →
    f.outcome = some (({ e with eval := some r } : Entry).finalOutcome r v s.clock)
  retest : isFinal (e.copy.verdict v) r.attempt e.copy.retest ≠ true → f.outcome = none
  source : t.mu.source = .off
  lastClass : t.mu.lastClass = s.mu.lastClass
  lastRange : t.mu.lastRange = s.mu.lastRange
  charge : t.mu.charge = s.mu.charge
  releases : e.copy.kind.discharges = false ∨ s.setup.dwell = 0 → t.mu.op = .idle ∧ t.mu.cls = .opened ∧
    if isFinal (e.copy.verdict v) r.attempt e.copy.retest = true then f.state = .lifting
    else f.state = .moving ∧ f.attempts = e.attempts + 1
  dwells : e.copy.kind.discharges = true → s.setup.dwell ≠ 0 → t.mu.op = .measurement ∧ t.mu.phase = some .dwell ∧
    t.mu.dwellNext = .release ∧ f.state = .discharging

theorem State.stands_spec (op : s.mu.op = .measurement) (step : s.mu.step = some e.slot) (found : s.entry e.slot = some e)
    (out : e.outcome = none) (r : EvalRec) (v : Conversion) : ∃ f, Stands s e r v (s.stands e r v) f := by
  obtain ⟨a, entry⟩ := State.entry_judged op step found out r v
  obtain ⟨-, q, m, mu⟩ := State.unitKept_judged (s := s) (e := e) (r := r) (v := v) (by rw [op]; nofun)
  have setup : (s.judged e r v).setup = s.setup := State.confined_judged.setup
  generalize judged : ({ e.judged r v s.clock with assignment := a } : Entry) = g at entry
  have slot : g.slot = e.slot := State.entry_slot entry
  have kept : g.copy = e.copy ∧ g.attempts = e.attempts ∧
      (isFinal (e.copy.verdict v) r.attempt e.copy.retest = true →
        g.outcome = some (({ e with eval := some r } : Entry).finalOutcome r v s.clock)) ∧
      (isFinal (e.copy.verdict v) r.attempt e.copy.retest ≠ true → g.outcome = none ∧ g.retestHeld = true) := by
    by_cases final : isFinal (e.copy.verdict v) r.attempt e.copy.retest = true
    · rw [← judged, Entry.judged_final final]
      exact ⟨rfl, rfl, fun _ => rfl, fun h => absurd final h⟩
    · rw [← judged, Entry.judged_retest final]
      exact ⟨rfl, rfl, fun h => absurd h final, fun _ => ⟨out, rfl⟩⟩
  obtain ⟨copy, attempts, decided, held⟩ := kept
  rw [State.stands_eq entry, copy]
  rw [← slot] at entry
  by_cases dwell : e.copy.kind.discharges = true ∧ s.setup.dwell ≠ 0
  · rw [State.endAttempt_dwells dwell.1 (by rw [setup]; exact dwell.2)]
    refine ⟨{ g with state := .discharging }, ?_, decided, fun h => (held h).1, ?_, ?_, ?_, ?_, fun h => ?_, fun _ _ => ?_⟩
    · rw [← slot]
      exact State.beginDwell_entry entry
    · rw [State.beginDwell_mu]
    · rw [State.beginDwell_mu, mu]
    · rw [State.beginDwell_mu, mu]
    · rw [State.beginDwell_mu, mu]
    · exact absurd dwell fun both => h.elim (fun h => by rw [h] at both; exact absurd both.1 nofun) both.2
    · rw [State.beginDwell_mu, mu]
      exact ⟨op, rfl, rfl, rfl⟩
  · have release : e.copy.kind.discharges = false ∨ (s.judged e r v).setup.dwell = 0 := by
      rw [setup]
      by_cases h : e.copy.kind.discharges = true
      · exact .inr (not_not.1 fun h' => dwell ⟨h, h'⟩)
      · exact .inl (Bool.eq_false_iff.2 h)
    have outcome : g.released.outcome = g.outcome := by
      rw [Entry.released]
      split <;> rfl
    rw [State.endAttempt_releases release]
    refine ⟨g.released, ?_, fun h => outcome.trans (decided h), fun h => outcome.trans (held h).1, ?_, ?_, ?_, ?_,
      fun _ => ⟨?_, ?_, ?_⟩, fun h h' => absurd ⟨h, h'⟩ dwell⟩
    · rw [← slot]
      exact State.releaseStep_entry entry
    · rw [State.releaseStep_mu]
      rfl
    · rw [State.releaseStep_mu, mu]
      rfl
    · rw [State.releaseStep_mu, mu]
      rfl
    · rw [State.releaseStep_mu, mu]
      rfl
    · rw [State.releaseStep_mu]
      rfl
    · rw [State.releaseStep_mu]
      rfl
    · split
      · next h =>
        rw [Entry.released_decided (by rw [decided h]; nofun)]
      · next h =>
        rw [Entry.released_retest (held h).1 (held h).2, attempts]
        exact ⟨rfl, rfl⟩
end

/-! ## The repeat of a conversion (R116, R136) -/

section
variable {s : State} {e : Entry} {samples : List Sample}

/-- The sum of the corrected codes of counted samples. -/
def State.sampleSum (s : State) (samples : List Sample) : Int :=
  (samples.map fun q => q.code.toInt - s.mu.z.at_ s.mu.gain).sum

/-- Counted samples meet an end, or compliance where the kind reads it. -/
def Kind.clips (k : Kind) (samples : List Sample) : Bool :=
  samples.any fun q => q.code == 0x8000 || q.code == 0x7FFF || (q.compliance && k != .volt)

/-- The conversion of counted samples. -/
def State.sampled (s : State) (e : Entry) (samples : List Sample) : Conversion :=
  sampledConversion e.copy.kind (s.sampleSum samples) (e.copy.kind.clips samples) e.copy.counted
    (s.mu.range.getD e.copy.range) s.mu.gain (s.pairSum e (·.lead))

/-- The Evaluator's record with a conversion reported. -/
def Entry.reported (e : Entry) (cap : Bool) (v : Conversion) : EvalRec := (e.eval.getD e.openEval).report cap v

/-- The gain at which the conversion is made again. -/
def State.gainAgain (s : State) (e : Entry) (samples : List Sample) : Option Nat :=
  if e.copy.autorange = true ∧ (e.reported false (s.sampled e samples)).conversions < 4 then
    nextGain (e.copy.kind.clips samples) (s.sampleSum samples) e.copy.counted s.mu.gain e.copy.gainMin e.copy.gainMax
      (e.reported false (s.sampled e samples)).clippedGains
  else none

/-- What the end of COUNT does with a gain asked for. -/
def State.takeGain (e : Entry) (samples : List Sample) (s : State) : Option Nat → State
  | some g => (((s.updMu MeasUnit.evaluating).markRanged e (e.reported false (s.sampled e samples))).updMu
      fun u => { u with gain := g, convGain := g }).beginSettle e.copy.settle e.copy.skip s.mu.source
  | none => (s.updMu MeasUnit.evaluating).stands e (e.reported false (s.sampled e samples)) (s.sampled e samples)

theorem State.reportSampled_eq (length : samples.length = e.copy.counted) :
    s.reportSampled e samples = s.takeGain e samples (s.gainAgain e samples) := by
  have codes : correctedSum (s.mu.z.at_ s.mu.gain) (((takeSamples e.copy.counted samples).map e.copy.kind.reads).map (·.code)) =
      s.sampleSum samples := by
    rw [takeSamples_length length, correctedSum_eq, List.map_map, List.map_map]
    rfl
  have clip : clippedSamples ((takeSamples e.copy.counted samples).map e.copy.kind.reads) = e.copy.kind.clips samples := by
    rw [takeSamples_length length, clippedSamples, List.any_map]
    refine congrArg (samples.any ·) (funext fun q => ?_)
    rw [Function.comp_apply, endCode_eq]
    rfl
  have asked : s.gainAgain e samples = if mayRepeat e.copy (e.reported false (s.sampled e samples)) then
      nextGain (e.copy.kind.clips samples) (s.sampleSum samples) e.copy.counted s.mu.gain e.copy.gainMin e.copy.gainMax
        (e.reported false (s.sampled e samples)).clippedGains else none :=
    if_congr (mayRepeat_iff _ _).symm rfl rfl
  rw [asked]
  unfold State.reportSampled
  dsimp only
  rw [codes, clip]
  rfl

/-- The conversion of a charge. -/
def State.charged (s : State) (e : Entry) (stop : StopKind) (ticks : Nat) : Conversion :=
  chargeConversion stop ticks (s.mu.range.getD e.copy.range) s.mu.gain e.copy.threshold (s.pairSum e (·.stray))

/-- The range at which the charge is made again. -/
def State.rangeAgain (s : State) (e : Entry) (stop : StopKind) (ticks : Nat) : Option Nat :=
  if e.copy.autorange = true ∧ (e.reported true (s.charged e stop ticks)).conversions < 4 then
    nextRange stop ticks (s.mu.range.getD e.copy.range) (e.reported true (s.charged e stop ticks)).clippedRanges
  else none

/-- The unit has reported a charge. -/
def State.chargeOff (ticks : Nat) (s : State) : State :=
  s.muStep fun u => { u.evaluating with source := .off, charge := ticks }

/-- What the end of a charge does with a range asked for. -/
def State.takeRange (e : Entry) (stop : StopKind) (ticks : Nat) (s : State) : Option Nat → State
  | some k =>
    let t := (s.chargeOff ticks).markRanged e (e.reported true (s.charged e stop ticks))
    if s.setup.dwell = 0 then t.repeatCharge e k else t.beginDwell .dwell (.repeatAt k) e
  | none => (s.chargeOff ticks).stands e (e.reported true (s.charged e stop ticks)) (s.charged e stop ticks)

theorem State.reportCharge_eq (stop : StopKind) (ticks : Nat) :
    s.reportCharge e stop ticks = s.takeRange e stop ticks (s.rangeAgain e stop ticks) := by
  have asked : s.rangeAgain e stop ticks = if mayRepeat e.copy (e.reported true (s.charged e stop ticks)) then
      nextRange stop ticks (s.mu.range.getD e.copy.range) (e.reported true (s.charged e stop ticks)).clippedRanges else none :=
    if_congr (mayRepeat_iff _ _).symm rfl rfl
  rw [asked]
  unfold State.reportCharge Entry.reported State.charged
  dsimp only
  split
  · next k h =>
    rw [h, State.takeRange]
    exact if_congr (by rw [State.confined_markRanged.setup, State.confined_muStep.setup]) rfl rfl
  · next h =>
    rw [h, State.takeRange]
    rfl
end

end Sys2Proof.Machine

open Sys2Proof Sys2Proof.Machine in
/-- Settles O35: the conversion of the counted samples, its repeat at another gain, and the attempt it decides. -/
theorem countEnds : Obligations.CountEnds := by
  intro s e samples op phase hand out kind length range a clipped clipEnd v r again
  obtain ⟨step, found⟩ := State.inHand_entry hand
  have conversion : s.sampled e samples = ⟨v, clipEnd, s.mu.gain, range⟩ := sampledConversion_eq ..
  have record : e.reported false (s.sampled e samples) = r := congrArg (e.reported false) conversion
  have asked : s.gainAgain e samples = again := by
    rw [State.gainAgain, record]
    rfl
  have confined : Confined serviceBlocks s (s.takeGain e samples again) := by
    rw [← asked, ← State.reportSampled_eq length]
    exact State.confined_reportSampled
  have run : exec (.countEnd samples) s = .next (s.takeGain e samples again).finish := by
    change execCountEnd samples s = _
    rw [execCountEnd, op, phase, hand]
    dsimp only
    rw [State.reportSampled_eq length, asked]
  refine ⟨s.takeGain e samples again, run, confined.setup, confined.hostMem, confined.log, ?_⟩
  generalize again = next
  cases next with
  | some g =>
    have mu : (s.takeGain e samples (some g)).mu = { s.mu.evaluating with
        gain := g, convGain := g, source := s.mu.source
        phase := some (if e.copy.settle ≠ 0 then .settle else if e.copy.skip ≠ 0 then .skip else .count) } :=
      State.beginSettle_mu
    have entry : (s.takeGain e samples (some g)).entry e.slot = some { e with eval := some { r with ranged := true } } := by
      rw [State.takeGain, State.confined_beginSettle.entry, State.confined_updMu.entry, record]
      exact State.entry_changed (s := s.updMu MeasUnit.evaluating) found fun _ => rfl
    rw [mu]
    exact ⟨rfl, rfl, rfl, rfl, op, rfl, rfl, _, entry, rfl⟩
  | none =>
    obtain ⟨f, h⟩ := State.stands_spec (s := s.updMu MeasUnit.evaluating) op step found out r ⟨v, clipEnd, s.mu.gain, range⟩
    have eq : s.takeGain e samples none = (s.updMu MeasUnit.evaluating).stands e r ⟨v, clipEnd, s.mu.gain, range⟩ := by
      rw [State.takeGain, record, conversion]
    rw [eq]
    refine ⟨h.lastClass, h.lastRange, f, h.entry, ?_, fun released => ?_, fun dwelling dwell => ?_⟩
    · split
      · next pass =>
        exact ⟨_, h.final ((isFinal_iff ..).2 pass), rfl, rfl, rfl, isSome_if clipped _, rfl, rfl, if_neg kind, rfl⟩
      · next retest => exact h.retest (mt (isFinal_iff ..).1 retest)
    · have free : e.copy.kind.discharges = false ∨ s.setup.dwell = 0 := released.imp_left fun listed => by
        cases k : e.copy.kind with
        | iso | cap | diode => rw [k] at listed; simp at listed
        | res2 | cont | res4 | volt => rfl
      obtain ⟨idle, opened, state⟩ := h.releases free
      exact ⟨idle, opened, h.source, (if_congr (isFinal_iff ..) rfl rfl).mp state⟩
    · have owed : e.copy.kind.discharges = true := by
        cases k : e.copy.kind with
        | iso | cap | diode => rfl
        | res2 | cont | res4 | volt => rw [k] at dwelling; simp at dwelling
      obtain ⟨held, phase, -, state⟩ := h.dwells owed dwell
      exact ⟨held, phase, h.source, state⟩

open Sys2Proof Sys2Proof.Machine in
/-- Settles O36: the conversion of the charge, its repeat at another range, and the attempt it decides. -/
theorem chargeEnds : Obligations.ChargeEnds := by
  intro s e i stop ticks op phase hand out cap ends range clipEnd v r again
  obtain ⟨step, found⟩ := State.inHand_entry hand
  have conversion : s.charged e stop ticks = ⟨v, clipEnd, s.mu.gain, range⟩ := chargeConversion_eq ..
  have record : e.reported true (s.charged e stop ticks) = r := congrArg (e.reported true) conversion
  have asked : s.rangeAgain e stop ticks = again := by
    rw [State.rangeAgain, record]
  have confined : Confined serviceBlocks s (s.takeRange e stop ticks again) := by
    rw [← asked, ← State.reportCharge_eq]
    exact State.confined_reportCharge
  have run : exec i s = .next (s.takeRange e stop ticks again).finish := by
    rw [← asked, ← State.reportCharge_eq]
    obtain ⟨k, rfl, rfl, rfl⟩ | ⟨rfl, rfl, rfl⟩ | ⟨k, rfl, rfl, rfl⟩ := ends
    · change execChargeThreshold k s = _
      rw [execChargeThreshold, op, phase, hand]
    · change execTimerLimit s = _
      rw [execTimerLimit, op, phase, hand]
      rfl
    · change execChargeCompliance k s = _
      rw [execChargeCompliance, op, phase, hand]
  refine ⟨s.takeRange e stop ticks again, run, confined.setup, confined.hostMem, confined.log, ?_⟩
  have mu : (s.chargeOff ticks).mu = { s.mu.evaluating with source := .off, charge := ticks } := State.muStep_mu
  have kept : (s.chargeOff ticks).entry e.slot = some e := by rw [State.chargeOff, State.confined_muStep.entry, found]
  have setup : (s.chargeOff ticks).setup = s.setup := State.confined_muStep.setup
  have clock : (s.chargeOff ticks).clock = s.clock := State.confined_muStep.clock
  generalize again = next
  cases next with
  | some k =>
    let f : Entry := { e with eval := some { r with ranged := true } }
    let t := (s.chargeOff ticks).markRanged e r
    have there : t.entry e.slot = some f := State.entry_changed kept fun _ => rfl
    have tmu : t.mu = { s.mu.evaluating with source := .off, charge := ticks } := mu
    have eq : s.takeRange e stop ticks (some k) =
        if s.setup.dwell = 0 then t.repeatCharge e k else t.beginDwell .dwell (.repeatAt k) e := by
      rw [State.takeRange, record]
    by_cases dwell : s.setup.dwell = 0
    · rw [eq, if_pos dwell, State.repeatCharge_mu cap, tmu]
      exact ⟨rfl, rfl, op, ⟨_, State.repeatCharge_entry there, rfl, out⟩, (if_pos dwell).mpr ⟨rfl, rfl⟩⟩
    · rw [eq, if_neg dwell, State.beginDwell_mu, tmu]
      exact ⟨rfl, rfl, op, ⟨_, State.beginDwell_entry there, rfl, out⟩, (if_neg dwell).mpr ⟨rfl, rfl⟩⟩
  | none =>
    obtain ⟨f, h⟩ := State.stands_spec (s := s.chargeOff ticks) (by rw [mu]; exact op) (by rw [mu]; exact step) kept out r
      ⟨v, clipEnd, s.mu.gain, range⟩
    have eq : s.takeRange e stop ticks none = (s.chargeOff ticks).stands e r ⟨v, clipEnd, s.mu.gain, range⟩ := by
      rw [State.takeRange, record, conversion]
    rw [eq]
    refine ⟨h.source, by rw [h.charge, mu], f, h.entry, ?_, ?_⟩
    · split
      · next pass =>
        exact ⟨_, h.final ((isFinal_iff ..).2 pass), rfl, rfl, rfl, rfl, rfl, if_neg (Kind.cap_ne_volt cap), rfl⟩
      · next retest => exact h.retest (mt (isFinal_iff ..).1 retest)
    · by_cases dwell : s.setup.dwell = 0
      · obtain ⟨idle, opened, state⟩ := h.releases (.inr (by rw [setup]; exact dwell))
        refine (if_neg (not_not.2 dwell)).mpr ⟨idle, opened, ?_⟩
        by_cases final : isFinal (e.copy.verdict ⟨v, clipEnd, s.mu.gain, range⟩) r.attempt e.copy.retest = true
        · rw [if_pos final] at state
          exact state.trans (if_pos ((isFinal_iff ..).1 final)).symm
        · rw [if_neg final] at state
          exact state.1.trans (if_neg (mt (isFinal_iff ..).2 final)).symm
      · exact (if_pos dwell).mpr (h.dwells (by rw [cap]; rfl) (by rw [setup]; exact dwell))
end

section
/-! PROOFS. END to a carriage, one case each, and what it and the ends of steps leave: lanes, closed records, carriages that
lift, and the tips of HALTED (R42, R56, R72, R96). -/

set_option Elab.async false

namespace Sys2Proof.Machine

/-! ## END (R56) -/

/-- The cases of END to a carriage. -/
inductive EndOf (s : State) (c : Carriage) : State → Prop
  | rests (h : (s.carr c).state ∈ [.idle, .off, .homing, .fault] ∨ ((s.carr c).state = .engaged ∧ s.mu.op = .measurement)) :
      EndOf s c s
  | cancels (h : (s.carr c).state = .travel) (phase : (s.carr c).phase = some .claimWait) (pend : s.pendingOf c ≠ none) :
      EndOf s c (s.cancel c)
  | idles (h : (s.carr c).state = .travel) (phase : (s.carr c).phase = some .claimWait) (pend : s.pendingOf c = none) :
      EndOf s c (s.toIdle c)
  | marks (h : ((s.carr c).state = .travel ∧ (s.carr c).phase ≠ some .claimWait) ∨ (s.carr c).state = .descend) :
      EndOf s c (s.modCarr c fun r => { r with ended := true })
  | removes (h : (s.carr c).state = .check) : EndOf s c ((s.removeLanding c).enterLift c .free)
  | lifts (h : (s.carr c).state = .ready ∨ ((s.carr c).state = .engaged ∧ s.mu.op ≠ .measurement)) :
      EndOf s c (s.enterLift c .free)
  | frees (h : (s.carr c).state = .lift) : EndOf s c (s.modCarr c fun r => { r with followOn := some .free })

section
variable {s t u : State} {c x : Carriage}

theorem State.sendEnd_cases (s : State) (c : Carriage) : EndOf s c (s.sendEnd c) := by
  rw [State.sendEnd.eq_def]
  dsimp only
  cases state : (s.carr c).state with
  | idle => exact .rests (.inl (by rw [state]; decide))
  | off => exact .rests (.inl (by rw [state]; decide))
  | homing => exact .rests (.inl (by rw [state]; decide))
  | fault => exact .rests (.inl (by rw [state]; decide))
  | travel =>
    by_cases phase : (s.carr c).phase = some .claimWait
    · by_cases pend : s.pendingOf c = none
      · simp only [phase, pend, if_true]
        exact .idles state phase pend
      · simp only [phase, Option.isSome_iff_ne_none.2 pend, if_true]
        exact .cancels state phase pend
    · simp only [phase, if_false]
      exact .marks (.inl ⟨state, phase⟩)
  | descend => exact .marks (.inr state)
  | check => exact .removes state
  | ready => exact .lifts (.inl state)
  | engaged =>
    by_cases op : s.mu.op = .measurement
    · simp only [op, if_true]
      exact .rests (.inr ⟨state, op⟩)
    · simp only [op, if_false]
      exact .lifts (.inr ⟨state, op⟩)
  | lift => exact .frees state

/-! ## What is left alone on the way -/

/-- The lanes that have an owner keep it, closed records stay closed, carriages that lift lift on, no step joins the
measurement queue, and in HALTED isolated tips stay isolated. -/
structure Gentle (s t : State) : Prop where
  run : t.run = s.run
  lanes : ∀ (d : Side) (n : Nat) (x : Carriage), (s.table d).cells[n]? = some (some x) →
    (t.table d).cells[n]? = some (some x)
  gone : ∀ x, s.landing x = none → t.landing x = none
  lift : ∀ x, (s.carr x).state = .lift → (t.carr x).state = .lift
  queue : ∀ k ∈ t.mu.measQueue, k ∈ s.mu.measQueue
  tips : s.run.state = .halted → (∀ x, (s.carr x).tip = .isolated) → ∀ x, (t.carr x).tip = .isolated

theorem Gentle.refl (s : State) : Gentle s s :=
  ⟨rfl, fun _ _ _ => id, fun _ => id, fun _ => id, fun _ => id, fun _ => id⟩

theorem Gentle.andThen (h : Gentle s t) (h' : Gentle t u) : Gentle s u where
  run := h'.run.trans h.run
  lanes d n x own := h'.lanes d n x (h.lanes d n x own)
  gone x none_ := h'.gone x (h.gone x none_)
  lift x up := h'.lift x (h.lift x up)
  queue k there := h.queue k (h'.queue k there)
  tips halted tips := h'.tips (by rw [h.run]; exact halted) (h.tips halted tips)

/-- What leaves claims and carriages alone, with the records and the queue told of. -/
theorem Gentle.of_records (h : Confined [.qual, .mu, .disp, .guard] s t) (gone : ∀ x, s.landing x = none → t.landing x = none)
    (queue : ∀ k ∈ t.mu.measQueue, k ∈ s.mu.measQueue) : Gentle s t where
  run := h.run
  lanes d n x own := by rwa [h.table]
  gone := gone
  lift x up := by rwa [h.carr]
  queue := queue
  tips _ tips x := by rw [h.carr, tips]

/-- What leaves claims and records alone, with the carriages told of. -/
theorem Gentle.of_carriages (h : Confined [.carriages, .linkOut, .disp, .guard] s t)
    (lift : ∀ x, (s.carr x).state = .lift → (t.carr x).state = .lift)
    (tips : s.run.state = .halted → (∀ x, (s.carr x).tip = .isolated) → ∀ x, (t.carr x).tip = .isolated) : Gentle s t where
  run := h.run
  lanes d n x own := by rwa [h.table]
  gone x none_ := by rwa [h.landing]
  lift := lift
  queue k there := by rwa [h.mu] at there
  tips := tips

theorem Gentle.ite {p : Prop} [Decidable p] (ht : p → Gentle s t) (hu : ¬ p → Gentle s u) : Gentle s (if p then t else u) := by
  split
  · exact ht ‹_›
  · exact hu ‹_›

theorem Gentle.foldl {α : Type} {f : State → α → State} (hf : ∀ s a, Gentle s (f s a)) (l : List α) (s : State) :
    Gentle s (l.foldl f s) := by
  induction l generalizing s with
  | nil => exact .refl s
  | cons a rest ih => exact (hf s a).andThen (ih _)

theorem Gentle.of_disp (h : Confined [.disp] s t) : Gentle s t :=
  .of_records h.mono (fun x none_ => by rwa [h.landing]) fun k there => by rwa [h.mu] at there

/-- A change of one carriage's record. -/
theorem Gentle.of_carr (h : Confined [.carriages, .linkOut, .disp, .guard] s t) (ne : ∀ x, x ≠ c → t.carr x = s.carr x)
    (lift : (s.carr c).state = .lift → (t.carr c).state = .lift)
    (tip : s.run.state = .halted → (s.carr c).tip = .isolated → (t.carr c).tip = .isolated) : Gentle s t := by
  refine .of_carriages h (fun x up => ?_) fun halted tips x => ?_
  · by_cases e : x = c
    · subst e
      exact lift up
    · rwa [ne x e]
  · by_cases e : x = c
    · subst e
      exact tip halted (tips x)
    · rw [ne x e]
      exact tips x

/-! ## Carriages -/

theorem State.gentle_modCarr {f : CarriageRec → CarriageRec} (lift : (f (s.carr c)).state = (s.carr c).state)
    (tip : (f (s.carr c)).tip = (s.carr c).tip) : Gentle s (s.modCarr c f) :=
  .of_carr (c := c) State.confined_modCarr.mono (fun _ ne => State.carr_modCarr_ne _ _ ne)
    (fun up => by rw [State.carr_modCarr_same, lift, up]) fun _ tip' => by rw [State.carr_modCarr_same, tip, tip']

theorem State.gentle_enterLift {f : FollowOn} : Gentle s (s.enterLift c f) :=
  .of_carr (c := c) State.confined_enterLift.mono (fun _ ne => State.carr_enterLift_ne ne)
    (fun _ => by rw [State.carr_enterLift]) fun _ _ => by rw [State.carr_enterLift]

theorem State.gentle_toIdle (h : (s.carr c).state ≠ .lift) : Gentle s (s.toIdle c) :=
  .of_carr (c := c) State.confined_toIdle.mono (fun _ ne => State.carr_toIdle_ne ne) (fun up => absurd up h)
    fun halted _ => by
      rw [State.carr_toIdle]
      exact if_pos halted

theorem State.carr_deliverGrant_rest : ((s.deliverGrant c).carr x).state = (s.carr x).state ∧
    ((s.deliverGrant c).carr x).tip = (s.carr x).tip := by
  by_cases e : x = c
  · subst e
    cases target : (s.carr x).target with
    | none => simp only [State.deliverGrant, target, and_self]
    | some p =>
      rw [State.carr_deliverGrant target]
      exact ⟨rfl, rfl⟩
  · rw [State.carr_deliverGrant_ne e]
    exact ⟨rfl, rfl⟩

theorem Gentle.of_claims (h : Confined [.claims] s t) (lanes : ∀ (d : Side) (n : Nat) (x : Carriage),
    (s.table d).cells[n]? = some (some x) → (t.table d).cells[n]? = some (some x)) : Gentle s t where
  run := h.run
  lanes := lanes
  gone x none_ := by rwa [h.landing]
  lift x up := by rwa [h.carr]
  queue k there := by rwa [h.mu] at there
  tips _ tips x := by rw [h.carr, tips]

theorem State.gentle_modTable {d : Side} {f : ClaimTable → ClaimTable} (hf : ∀ t, (f t).cells = t.cells) :
    Gentle s (s.modTable d f) :=
  .of_claims State.confined_modTable fun b n x own => by
    rw [State.table_modTable]
    split
    · next same =>
      rw [hf, ← same]
      exact own
    · exact own

theorem State.gentle_deliverGrant : Gentle s (s.deliverGrant c) :=
  .of_carriages State.confined_deliverGrant.mono (fun x up => by rw [State.carr_deliverGrant_rest.1, up])
    fun _ tips x => by rw [State.carr_deliverGrant_rest.2, tips]

theorem gentle_reviewWalk {d : Side} (l kept : List ClaimEntry) (s : State) : Gentle s (reviewWalk d l kept s) := by
  induction l generalizing kept s with
  | nil => exact State.gentle_modTable fun _ => rfl
  | cons e rest ih =>
    rw [reviewWalk]
    refine .ite (fun free => ?_) fun _ => ih _ _
    have taken : Gentle s (s.takeLanes e.carriage e.span) :=
      .of_claims State.confined_takeLanes fun b n x own => State.takeLanes_keeps _ (Bool.and_eq_true _ _ ▸ free).1 own
    exact (taken.andThen State.gentle_deliverGrant).andThen (ih _ _)

theorem State.gentle_yieldFailed : Gentle s (s.yieldFailed c) := .of_disp State.confined_yieldFailed

theorem State.gentle_cancel (h : (s.carr c).state ≠ .lift) : Gentle s (s.cancel c) := by
  unfold State.cancel
  split
  · exact .refl s
  · dsimp only
    have dropped : Gentle s (s.dropEntry c) := State.gentle_modTable fun _ => rfl
    have state (t : State) (same : Confined [.claims, .disp] s t) : (t.carr c).state ≠ .lift := by rwa [same.carr]
    have drop : Confined [.claims, .disp] s (s.dropEntry c) := State.confined_dropEntry.mono
    split
    · exact ((dropped.andThen State.gentle_yieldFailed).andThen
        (State.gentle_toIdle (state _ (drop.andThen State.confined_yieldFailed)))).andThen (gentle_reviewWalk _ _ _)
    · exact (dropped.andThen (State.gentle_toIdle (state _ drop))).andThen (gentle_reviewWalk _ _ _)

/-! ## Landing records -/

theorem State.gentle_setLanding_none : Gentle s (s.setLanding c none) := by
  refine .of_records State.confined_setLanding.mono (fun x gone => ?_) fun _ => id
  rw [State.landing_setLanding]
  split
  · rfl
  · exact gone

theorem State.gentle_modLanding {f : Landing → Landing} : Gentle s (s.modLanding c f) := by
  refine .of_records State.confined_modLanding.mono (fun x gone => ?_) fun _ => id
  rw [State.landing_modLanding_at, gone]
  split <;> rfl

theorem State.gentle_offerOwed (n : Nat) : Gentle s (s.offerOwed n) := by
  have offered := State.offerOwed_offered n s
  refine .of_records (State.confined_offerOwed n s).mono (fun x gone => ?_) fun k there => ?_
  · rw [offered.landing, gone]
    rfl
  · rwa [offered.mu] at there

theorem State.gentle_withdrawPair : Gentle s (s.withdrawPair c) := by
  have cleared : Gentle s ((s.updQual fun q => { q with owed := q.owed.filter fun p => !p.names c }).updMu
      fun u => { u with checkQueue := u.checkQueue.filter fun p => !p.names c }) :=
    .of_records ((State.confined_updQual.mono).andThen State.confined_updMu) (fun _ => id) fun _ => id
  exact cleared.andThen (State.gentle_offerOwed _)

theorem State.gentle_partnerWaits {p : Option Carriage} : Gentle s (s.partnerWaits p) := by
  unfold State.partnerWaits
  split
  · exact .refl s
  · exact State.gentle_modLanding

theorem State.gentle_setTip {q : Tip} : Gentle s (s.setTip c q) :=
  .of_carr (c := c) State.confined_setTip.mono (fun _ ne => State.carr_setTip_ne ne)
    (fun up => by rw [State.carr_setTip]; exact up) fun halted _ => by
      rw [State.carr_setTip]
      exact if_pos halted

theorem State.gentle_abandonCheck : Gentle s s.abandonCheck := by
  unfold State.abandonCheck
  split
  · dsimp only
    refine Gentle.andThen (t := s.cutPhase.muStep fun u => u.released.forget) ?_ (.foldl (fun _ _ => State.gentle_setTip) _ _)
    refine .of_records ((State.confined_cutPhase.mono).andThen State.confined_muStep) (fun x gone => ?_) fun k there => ?_
    · rwa [State.confined_muStep.landing, State.confined_cutPhase.landing]
    · rwa [State.muStep_mu] at there
  · exact .refl s

theorem State.gentle_dropCheckIf {which : Pair → Bool} : Gentle s (s.dropCheckIf which) := by
  unfold State.dropCheckIf
  split
  · exact .ite (fun _ => (State.gentle_abandonCheck.andThen State.gentle_modLanding).andThen State.gentle_modLanding)
      fun _ => .refl s
  · exact .refl s

theorem State.gentle_removeLanding : Gentle s (s.removeLanding c) := by
  have dropped : Gentle s (s.dropCheck c) := State.gentle_dropCheckIf
  unfold State.removeLanding
  dsimp only
  split
  · exact dropped
  · exact ((dropped.andThen State.gentle_setLanding_none).andThen State.gentle_withdrawPair).andThen State.gentle_partnerWaits

/-- A landing that goes leaves no record. -/
theorem State.landing_removeLanding : (s.removeLanding c).landing c = none := by
  unfold State.removeLanding
  dsimp only
  split
  · next none_ => exact none_
  · have closed : ((s.dropCheck c).setLanding c none).landing c = none := State.landing_setLanding_same ..
    exact (State.gentle_withdrawPair.andThen State.gentle_partnerWaits).gone c closed

/-! ## END and the ends of steps -/

theorem State.gentle_sendEnd : Gentle s (s.sendEnd c) := by
  have ends := State.sendEnd_cases s c
  generalize s.sendEnd c = t at ends
  cases ends with
  | rests _ => exact .refl s
  | cancels h _ _ => exact State.gentle_cancel (by rw [h]; nofun)
  | idles h _ _ => exact State.gentle_toIdle (by rw [h]; nofun)
  | marks _ => exact State.gentle_modCarr rfl rfl
  | removes _ => exact State.gentle_removeLanding.andThen State.gentle_enterLift
  | lifts _ => exact State.gentle_enterLift
  | frees _ => exact State.gentle_modCarr rfl rfl

theorem State.gentle_sendEnds {l : List Carriage} : Gentle s (s.sendEnds l) := .foldl (fun _ _ => State.gentle_sendEnd) l s

theorem State.gentle_decideStep {k : Nat} {o : Entry → Outcome} : Gentle s (s.decideStep k o) := by
  unfold State.decideStep
  split
  · exact .refl s
  · refine .ite (fun _ => .refl s) fun _ => ?_
    have decided (f : Entry → Entry) : Gentle s
        ((s.modEntry k f).updMu fun u => { u with measQueue := u.measQueue.filter fun j => j != k }) :=
      .of_records ((State.confined_modEntry.mono).andThen State.confined_updMu) (fun _ => id)
        fun _ there => (List.mem_filter.1 there).1
    exact ((decided _).andThen State.gentle_sendEnds).andThen (.of_disp State.confined_markScan)

/-- A step that is decided is in the measurement queue no longer. -/
theorem State.decideStep_leaves {k : Nat} {e : Entry} {o : Entry → Outcome} (he : s.entry k = some e) (out : e.outcome = none) :
    k ∉ (s.decideStep k o).mu.measQueue := fun there => by
  rw [State.decideStep_eq he out] at there
  have before := (State.gentle_sendEnds (s := _)).queue k there
  exact absurd (List.mem_filter.1 before).2 (by simp)

theorem State.gentle_actOnPartner : Gentle s (s.actOnPartner c) := by
  unfold State.actOnPartner
  split
  · exact .refl s
  · exact State.gentle_withdrawPair.andThen State.gentle_partnerWaits

theorem State.gentle_noContact {k : FailureKind} : Gentle s (s.noContact c k) := by
  unfold State.noContact
  split
  · exact .refl s
  · exact .ite (fun _ => .refl s) fun _ => State.gentle_dropCheckIf.andThen State.gentle_decideStep

theorem State.gentle_countFail {n : ScrubNext} : Gentle s (s.countFail c n) := State.gentle_modCarr rfl rfl

/-- The carriages of a list lift, their landings closed. -/
def State.liftAll (l : List Carriage) (s : State) : State := l.foldl (fun s c => (s.setLanding c none).enterLift c .free) s

theorem State.gentle_liftAll {l : List Carriage} : Gentle s (s.liftAll l) :=
  .foldl (fun _ _ => State.gentle_setLanding_none.andThen State.gentle_enterLift) l s

theorem State.liftAll_cons {l : List Carriage} : s.liftAll (c :: l) = ((s.setLanding c none).enterLift c .free).liftAll l := rfl

theorem State.liftOne_lifts (s : State) (c : Carriage) : ((s.setLanding c none).enterLift c .free).landing c = none ∧
    (((s.setLanding c none).enterLift c .free).carr c).state = .lift :=
  ⟨(State.confined_enterLift.landing c).trans (State.landing_setLanding_same ..), congrArg CarriageRec.state State.carr_enterLift⟩

theorem State.liftAll_lifts {l : List Carriage} (hc : c ∈ l) :
    (s.liftAll l).landing c = none ∧ ((s.liftAll l).carr c).state = .lift := by
  induction l generalizing s with
  | nil => cases hc
  | cons a rest ih =>
    rw [State.liftAll_cons]
    obtain rfl | hc := List.mem_cons.1 hc
    · obtain ⟨gone, up⟩ := s.liftOne_lifts c
      exact ⟨State.gentle_liftAll.gone c gone, State.gentle_liftAll.lift c up⟩
    · exact ih hc

theorem State.gentle_failPair {l : List Carriage} : Gentle (s.liftAll l) (s.failPair l) := by
  unfold State.failPair State.liftAll
  dsimp only
  generalize l.foldl (fun s c => (s.setLanding c none).enterLift c .free) s = t
  split
  · exact ((Gentle.foldl (fun _ _ => State.gentle_actOnPartner) _ _).andThen
      (.foldl (fun _ _ => State.gentle_countFail) _ _)).andThen State.gentle_noContact
  · exact ((Gentle.foldl (fun _ _ => State.gentle_actOnPartner) _ _).andThen
      (.foldl (fun _ _ => State.gentle_countFail) _ _)).andThen (.foldl (fun _ _ => State.gentle_modCarr rfl rfl) _ _)

/-- Landings that fail together are closed, and their carriages lift. -/
theorem State.failPair_lifts {l : List Carriage} (hc : c ∈ l) :
    (s.failPair l).landing c = none ∧ ((s.failPair l).carr c).state = .lift := by
  obtain ⟨gone, up⟩ := State.liftAll_lifts (s := s) hc
  exact ⟨State.gentle_failPair.gone c gone, State.gentle_failPair.lift c up⟩
end

end Sys2Proof.Machine
end

section
/-! PROOFS. How END brings a carriage to rest, the ends of several steps, and the latch of the Source Guard (R56, R58, R96,
R102, R155). -/

set_option Elab.async false

namespace Sys2Proof.Machine

/-! ## A carriage on its way to rest (R58) -/

/-- A carriage lifts and is free then. -/
structure LiftsFree (c : Carriage) (ms : Nat) (t : State) : Prop where
  state : (t.carr c).state = .lift
  followOn : (t.carr c).followOn = some .free
  request : (t.carr c).request = some ⟨.lift, false⟩
  timer : (t.carr c).timer = some ms

/-- What an END has made of a carriage, its tip aside. -/
structure Ended (c : Carriage) (s t : State) : Prop where
  rests : (s.carr c).state ∈ [.idle, .off, .homing, .fault] →
    (t.carr c).state = (s.carr c).state ∧ (t.carr c).request = (s.carr c).request
  waits : (s.carr c).state = .travel → (s.carr c).phase = some .claimWait →
    (t.carr c).state = .idle ∧ (t.carr c).service = none
  goes : ((s.carr c).state = .travel ∧ (s.carr c).phase ≠ some .claimWait) ∨ (s.carr c).state = .descend →
    ∃ q, t.carr c = { s.carr c with ended := true, tip := q }
  lifts : (s.carr c).state ∈ [.check, .ready, .engaged] →
    LiftsFree c s.setup.liftMs t ∧ ((s.carr c).state = .check → t.landing c = none)
  frees : (s.carr c).state = .lift → ∃ q, t.carr c = { s.carr c with followOn := some .free, tip := q }

/-- A carriage as it was, its tip aside, or as an END has left it. -/
structure Ending (c : Carriage) (s t : State) : Prop where
  rests : (s.carr c).state ∈ [.idle, .off, .homing, .fault] →
    (t.carr c).state = (s.carr c).state ∧ (t.carr c).request = (s.carr c).request
  waits : (s.carr c).state = .travel → (s.carr c).phase = some .claimWait →
    ((t.carr c).state = .travel ∧ (t.carr c).phase = some .claimWait) ∨
    ((t.carr c).state = .idle ∧ (t.carr c).service = none)
  goes : ((s.carr c).state = .travel ∧ (s.carr c).phase ≠ some .claimWait) ∨ (s.carr c).state = .descend →
    ∃ b q, t.carr c = { s.carr c with ended := b, tip := q }
  lifts : (s.carr c).state ∈ [.check, .ready, .engaged] → (t.carr c).state = (s.carr c).state ∨
    (LiftsFree c s.setup.liftMs t ∧ ((s.carr c).state = .check → t.landing c = none))
  frees : (s.carr c).state = .lift → ∃ f q, t.carr c = { s.carr c with followOn := f, tip := q }

section
variable {s t u : State} {c x : Carriage}

theorem Ending.refl (c : Carriage) (s : State) : Ending c s s where
  rests _ := ⟨rfl, rfl⟩
  waits h h' := .inl ⟨h, h'⟩
  goes _ := ⟨_, _, rfl⟩
  lifts _ := .inl rfl
  frees _ := ⟨_, _, rfl⟩

theorem Ended.ending (h : Ended c s t) : Ending c s t where
  rests := h.rests
  waits h1 h2 := .inr (h.waits h1 h2)
  goes h1 := ⟨_, h.goes h1⟩
  lifts h1 := .inr (h.lifts h1)
  frees h1 := ⟨_, h.frees h1⟩

/-- A change of the tip alone keeps what a carriage has come to. -/
theorem Ending.retip (h : Ending c s t) {q : Tip} (carr : u.carr c = { t.carr c with tip := q })
    (gone : t.landing c = none → u.landing c = none) : Ending c s u where
  rests h1 := by rw [carr]; exact h.rests h1
  waits h1 h2 := by rw [carr]; exact h.waits h1 h2
  goes h1 := by
    obtain ⟨b, p, e⟩ := h.goes h1
    exact ⟨b, q, by rw [carr, e]⟩
  lifts h1 := by
    refine (h.lifts h1).imp (fun e => ?_) fun ⟨l, g⟩ => ⟨⟨?_, ?_, ?_, ?_⟩, fun e => gone (g e)⟩
    · rw [carr]
      exact e
    · rw [carr]
      exact l.state
    · rw [carr]
      exact l.followOn
    · rw [carr]
      exact l.request
    · rw [carr]
      exact l.timer
  frees h1 := by
    obtain ⟨f, p, e⟩ := h.frees h1
    exact ⟨f, q, by rw [carr, e]⟩

theorem Ending.same (h : Ending c s t) (carr : u.carr c = t.carr c) (gone : t.landing c = none → u.landing c = none) :
    Ending c s u := h.retip (q := (t.carr c).tip) (by rw [carr]) gone

/-- What an END has left stays so while the record and the landing do. -/
theorem Ended.same (h : Ended c s t) (carr : u.carr c = t.carr c) (gone : t.landing c = none → u.landing c = none) :
    Ended c s u where
  rests h1 := by rw [carr]; exact h.rests h1
  waits h1 h2 := by rw [carr]; exact h.waits h1 h2
  goes h1 := by rw [carr]; exact h.goes h1
  lifts h1 := by
    obtain ⟨l, g⟩ := h.lifts h1
    exact ⟨⟨by rw [carr]; exact l.state, by rw [carr]; exact l.followOn, by rw [carr]; exact l.request,
      by rw [carr]; exact l.timer⟩, fun e => gone (g e)⟩
  frees h1 := by rw [carr]; exact h.frees h1

/-- A carriage in CHECK, READY or ENGAGED that lifts has come to its END. -/
theorem Ending.lifted (h : Ending c s t) (stands : (t.carr c).state ∈ [.check, .ready, .engaged])
    (lifts : LiftsFree c s.setup.liftMs u) (gone : (t.carr c).state = .check → u.landing c = none) : Ended c s u where
  rests h1 := by
    rw [(h.rests h1).1] at stands
    simp only [List.mem_cons, List.not_mem_nil, or_false] at h1 stands
    obtain e | e | e | e := h1 <;> rw [e] at stands <;> simp at stands
  waits h1 h2 := by
    obtain ⟨e, -⟩ | ⟨e, -⟩ := h.waits h1 h2 <;> rw [e] at stands <;> simp at stands
  goes h1 := by
    obtain ⟨b, q, e⟩ := h.goes h1
    rw [e] at stands
    obtain ⟨e', -⟩ | e' := h1 <;> dsimp only at stands <;> rw [e'] at stands <;> simp at stands
  lifts h1 := ⟨lifts, fun check => by
    obtain same | ⟨l, g⟩ := h.lifts h1
    · exact gone (same.trans check)
    · rw [l.state] at stands
      simp at stands⟩
  frees h1 := by
    obtain ⟨f, q, e⟩ := h.frees h1
    rw [e] at stands
    dsimp only at stands
    rw [h1] at stands
    simp at stands

theorem State.enterLift_free : LiftsFree c s.setup.liftMs (s.enterLift c .free) := by
  refine ⟨?_, ?_, ?_, ?_⟩ <;> rw [State.carr_enterLift]

/-- END with no entry pending and no measurement in hand. -/
theorem Ending.sendEnd (h : Ending c s t) (op : t.mu.op ≠ .measurement) (pend : t.pendingOf c = none)
    (setup : t.setup = s.setup) : Ended c s (t.sendEnd c) := by
  have ends := State.sendEnd_cases t c
  generalize t.sendEnd c = u at ends
  cases ends with
  | rests rest =>
    have rest : (t.carr c).state ∈ [.idle, .off, .homing, .fault] := rest.resolve_right fun both => op both.2
    simp only [List.mem_cons, List.not_mem_nil, or_false] at rest
    refine ⟨h.rests, fun h1 h2 => (h.waits h1 h2).resolve_left fun both => ?_, fun h1 => ?_, fun h1 => ?_, fun h1 => ?_⟩
    · simp [both.1] at rest
    · obtain ⟨b, q, e⟩ := h.goes h1
      obtain ⟨e', -⟩ | e' := h1 <;> simp [e, e'] at rest
    · obtain same | ⟨l, -⟩ := h.lifts h1
      · simp only [List.mem_cons, List.not_mem_nil, or_false, ← same] at h1
        obtain e | e | e := h1 <;> simp [e] at rest
      · simp [l.state] at rest
    · obtain ⟨f, q, e⟩ := h.frees h1
      simp [e, h1] at rest
  | cancels _ _ waiting => exact absurd pend waiting
  | idles state phase _ =>
    refine ⟨fun h1 => ?_, fun _ _ => by rw [State.carr_toIdle]; exact ⟨rfl, rfl⟩, fun h1 => ?_, fun h1 => ?_, fun h1 => ?_⟩
    · simp [← (h.rests h1).1, state] at h1
    · obtain ⟨b, q, e⟩ := h.goes h1
      rw [e] at state phase
      obtain ⟨-, e'⟩ | e' := h1
      · exact absurd phase e'
      · simp [e'] at state
    · obtain same | ⟨l, -⟩ := h.lifts h1
      · simp [← same, state] at h1
      · simp [l.state] at state
    · obtain ⟨f, q, e⟩ := h.frees h1
      simp [e, h1] at state
  | marks state =>
    refine ⟨fun h1 => ?_, fun h1 h2 => ?_, fun h1 => ?_, fun h1 => ?_, fun h1 => ?_⟩
    · rw [← (h.rests h1).1] at h1
      obtain ⟨e, -⟩ | e := state <;> simp [e] at h1
    · obtain ⟨e, e'⟩ | ⟨e, -⟩ := h.waits h1 h2 <;> simp [e] at state
      exact absurd e' state
    · obtain ⟨b, q, e⟩ := h.goes h1
      exact ⟨q, by rw [State.carr_modCarr_same, e]⟩
    · obtain same | ⟨l, -⟩ := h.lifts h1
      · rw [← same] at h1
        obtain ⟨e, -⟩ | e := state <;> simp [e] at h1
      · simp [l.state] at state
    · obtain ⟨f, q, e⟩ := h.frees h1
      simp [e, h1] at state
  | removes state =>
    refine h.lifted (by rw [state]; decide) ?_ fun _ => ?_
    · have same : (t.removeLanding c).setup = s.setup := State.confined_removeLanding.setup.trans setup
      rw [← same]
      exact State.enterLift_free
    · rw [State.confined_enterLift.landing]
      exact State.landing_removeLanding
  | lifts state =>
    refine h.lifted ?_ (by rw [← setup]; exact State.enterLift_free) fun check => ?_
    · obtain e | ⟨e, -⟩ := state <;> rw [e] <;> decide
    · obtain e | ⟨e, -⟩ := state <;> rw [e] at check <;> cases check
  | frees state =>
    refine ⟨fun h1 => ?_, fun h1 h2 => ?_, fun h1 => ?_, fun h1 => ?_, fun h1 => ?_⟩
    · simp [← (h.rests h1).1, state] at h1
    · obtain ⟨e, -⟩ | ⟨e, -⟩ := h.waits h1 h2 <;> simp [e] at state
    · obtain ⟨b, q, e⟩ := h.goes h1
      rw [e] at state
      obtain ⟨e', -⟩ | e' := h1 <;> simp [e'] at state
    · obtain same | ⟨l, g⟩ := h.lifts h1
      · simp [← same, state] at h1
      · refine ⟨⟨?_, ?_, ?_, ?_⟩, g⟩ <;> rw [State.carr_modCarr_same]
        · exact l.state
        · exact l.request
        · exact l.timer
    · obtain ⟨f, q, e⟩ := h.frees h1
      exact ⟨q, by rw [State.carr_modCarr_same, e]⟩
end

end Sys2Proof.Machine
end

section
/-! PROOFS. The ends of several steps one after another, and the latch of the Source Guard in its stages (R96, R102, R155). -/

set_option Elab.async false

namespace Sys2Proof.Machine

section
variable {s t u : State} {c x : Carriage} {e f : Entry} {k j : Nat}

/-! ## END without a review -/

theorem State.removeLanding_alone (op : s.mu.op ≠ .pairCheck) : Confined [.qual, .mu] s (s.removeLanding c) := by
  have same : s.dropCheck c = s := State.dropCheckIf_other fun _ h => absurd h op
  rw [State.removeLanding, same]
  split
  · exact .refl _ s
  · exact ((State.confined_setLanding.mono).andThen State.confined_withdrawPair).andThen State.confined_partnerWaits

/-- END to a carriage without a pending entry changes no claim and no other carriage. -/
theorem State.sendEnd_alone (op : s.mu.op ≠ .pairCheck) (pend : s.pendingOf c = none) :
    (s.sendEnd c).claims = s.claims ∧ ∀ x, x ≠ c → (s.sendEnd c).carr x = s.carr x := by
  have ends := State.sendEnd_cases s c
  generalize s.sendEnd c = t at ends
  cases ends with
  | rests _ => exact ⟨rfl, fun _ _ => rfl⟩
  | cancels _ _ waiting => exact absurd pend waiting
  | idles _ _ _ => exact ⟨State.confined_toIdle.claims, fun _ ne => State.carr_toIdle_ne ne⟩
  | marks _ => exact ⟨rfl, fun _ ne => State.carr_modCarr_ne _ _ ne⟩
  | removes _ =>
    have gone := State.removeLanding_alone (c := c) op
    exact ⟨State.confined_enterLift.claims.trans gone.claims,
      fun x ne => (State.carr_enterLift_ne ne).trans (gone.carr x)⟩
  | lifts _ => exact ⟨State.confined_enterLift.claims, fun _ ne => State.carr_enterLift_ne ne⟩
  | frees _ => exact ⟨rfl, fun _ ne => State.carr_modCarr_ne _ _ ne⟩

theorem State.pendingOf_congr (h : t.claims = s.claims) (c : Carriage) : t.pendingOf c = s.pendingOf c := by
  rw [State.pendingOf, State.table, h, State.pendingOf, State.table]

/-- A state on the way to rest from `s`: the unit is free, and the setup and the claims are those of `s`. -/
structure Resting (s t : State) : Prop where
  op : t.mu.op = .idle
  setup : t.setup = s.setup
  claims : t.claims = s.claims

theorem Resting.next (h : Resting s t) (kept : UnitKept t u) (setup : u.setup = t.setup) (claims : u.claims = t.claims) :
    Resting s u where
  op := by
    obtain ⟨-, q, m, mu⟩ := kept (by rw [h.op]; nofun)
    rw [mu]
    exact h.op
  setup := setup.trans h.setup
  claims := claims.trans h.claims

theorem Resting.sendEnd (h : Resting s t) (pend : s.pendingOf c = none) : Resting s (t.sendEnd c) :=
  h.next State.unitKept_sendEnd State.confined_sendEnd.setup (State.sendEnd_alone (by rw [h.op]; nofun)
    ((State.pendingOf_congr h.claims c).trans pend)).1

/-- ENDs to carriages without pending entries. -/
theorem Resting.sendEnds {a : State} (setup : s.setup = a.setup) (l : List Carriage) (h : Resting s t)
    (pend : ∀ x ∈ l, s.pendingOf x = none) : Resting s (t.sendEnds l) ∧
      (Ending c a t → Ending c a (t.sendEnds l)) ∧ (Ending c a t → c ∈ l → Ended c a (t.sendEnds l)) ∧
      (Ended c a t → Ended c a (t.sendEnds l)) := by
  induction l generalizing t with
  | nil => exact ⟨h, id, fun _ => nofun, id⟩
  | cons x rest ih =>
    have free : t.pendingOf x = none := (State.pendingOf_congr h.claims x).trans (pend x List.mem_cons_self)
    obtain ⟨-, others⟩ := State.sendEnd_alone (by rw [h.op]; nofun) free
    obtain ⟨resting, ending, here, stays⟩ := ih (h.sendEnd (pend x List.mem_cons_self))
      fun y hy => pend y (List.mem_cons_of_mem _ hy)
    have gone : t.landing c = none → (t.sendEnd x).landing c = none := State.gentle_sendEnd.gone c
    by_cases same : c = x
    · subst same
      have own (h' : Ending c a t) : Ended c a (t.sendEnd c) :=
        h'.sendEnd (by rw [h.op]; nofun) free (h.setup.trans setup)
      exact ⟨resting, fun h' => (stays (own h')).ending, fun h' _ => stays (own h'), fun h' => stays (own h'.ending)⟩
    · exact ⟨resting, fun h' => ending (h'.same (others c same) gone),
        fun h' hc => here (h'.same (others c same) gone) ((List.mem_cons.1 hc).resolve_left same),
        fun h' => stays (h'.same (others c same) gone)⟩

/-- The end of a step whose carriages have no pending entry. -/
theorem Resting.endStep {a : State} {v : Verdict} {q : Cause} (setup : s.setup = a.setup) (h : Resting s t)
    (pend : ∀ e, t.entry k = some e → ∀ x ∈ e.serving, s.pendingOf x = none) (ending : Ending c a t) :
    Resting s (t.endStep k v q) ∧ Ending c a (t.endStep k v q) := by
  unfold State.endStep
  cases he : t.entry k with
  | none =>
    unfold State.decideStep
    rw [he]
    exact ⟨h, ending⟩
  | some e =>
    by_cases out : e.outcome = none
    · rw [State.decideStep_eq he out]
      have decided (g : Entry → Entry) : Resting s
          ((t.modEntry k g).updMu fun u => { u with measQueue := u.measQueue.filter fun j => j != k }) :=
        h.next ((UnitKept.of_confined State.confined_modEntry).andThen (.updMu ⟨_, _, rfl⟩)) rfl rfl
      obtain ⟨resting, goes, -⟩ := (decided _).sendEnds setup e.serving (pend e he)
      exact ⟨resting.next (.of_confined State.confined_markScan) rfl rfl, (goes (ending.same rfl id)).same rfl id⟩
    · rw [State.decideStep_decided he out]
      exact ⟨h, ending⟩

/-! ## The ends of several steps -/

/-- The steps of a list of slots end. -/
def State.endSteps (v : Verdict) (q : Cause) (l : List Nat) (s : State) : State := l.foldl (fun s k => s.endStep k v q) s

variable {v : Verdict} {q : Cause}

theorem State.confined_endSteps {l : List Nat} : Confined serviceBlocks s (s.endSteps v q l) :=
  .foldl (fun _ _ => State.confined_endStep) l s

theorem State.unitKept_endSteps {l : List Nat} : UnitKept s (s.endSteps v q l) :=
  .foldl (fun _ _ => State.unitKept_endStep) l s

theorem State.gentle_endSteps {l : List Nat} : Gentle s (s.endSteps v q l) :=
  .foldl (fun _ _ => State.gentle_decideStep) l s

theorem Resting.endSteps {a : State} (setup : s.setup = a.setup) (l : List Nat) (h : Resting s t)
    (pend : ∀ x, s.pendingOf x = none) (ending : Ending c a t) :
    Resting s (t.endSteps v q l) ∧ Ending c a (t.endSteps v q l) := by
  induction l generalizing t with
  | nil => exact ⟨h, ending⟩
  | cons k rest ih =>
    obtain ⟨resting, ending⟩ := h.endStep (v := v) (q := q) setup (fun e _ x _ => pend x) ending
    exact ih resting ending

theorem State.entry_endStep_ne (he : s.entry j = some e) (h : j ≠ k) :
    ∃ a, (s.endStep k v q).entry j = some { e with assignment := a } := State.entry_decideStep_ne he h

/-- A decided step keeps its outcome, whatever steps end. -/
theorem State.entry_endStep_decided (he : s.entry j = some e) (out : e.outcome ≠ none) :
    ∃ a, (s.endStep k v q).entry j = some { e with assignment := a } := by
  by_cases same : j = k
  · subst same
    rw [State.endStep, State.decideStep_decided he out, he]
    exact ⟨_, rfl⟩
  · exact State.entry_endStep_ne he same

theorem State.entry_endSteps_decided (l : List Nat) (he : s.entry j = some e) (out : e.outcome ≠ none) :
    ∃ a, (s.endSteps v q l).entry j = some { e with assignment := a } := by
  induction l generalizing s e with
  | nil => exact ⟨_, he⟩
  | cons k rest ih =>
    obtain ⟨a, first⟩ := State.entry_endStep_decided (k := k) (v := v) (q := q) he out
    obtain ⟨b, last⟩ := ih first out
    exact ⟨b, last⟩

/-- A step that is not of the list keeps all but its assignment. -/
theorem State.entry_endSteps_ne (l : List Nat) (he : s.entry j = some e) (h : j ∉ l) :
    ∃ a, (s.endSteps v q l).entry j = some { e with assignment := a } := by
  induction l generalizing s e with
  | nil => exact ⟨_, he⟩
  | cons k rest ih =>
    obtain ⟨a, first⟩ := State.entry_endStep_ne (v := v) (q := q) he fun e => h (e ▸ List.mem_cons_self)
    obtain ⟨b, last⟩ := ih first fun hj => h (List.mem_cons_of_mem _ hj)
    exact ⟨b, last⟩

/-- A step in flight that ends with no unit to hold it. -/
theorem State.entry_endStep (he : s.entry k = some e) (out : e.outcome = none) (op : s.mu.op = .idle) :
    ∃ a, (s.endStep k v q).entry k = some { e with
      outcome := some (e.endedOutcome v q s.clock), retestHeld := false, state := .lifting, assignment := a } := by
  obtain ⟨a, decided⟩ := State.entry_decideStep (o := fun e => e.endedOutcome v q s.clock) he out
  rw [Entry.concluded, if_neg (by rw [op]; nofun)] at decided
  exact ⟨a, decided⟩

/-- A step of the list is ended, and is in the measurement queue no longer. -/
theorem State.entry_endSteps (l : List Nat) (he : s.entry j = some e) (out : e.outcome = none) (op : s.mu.op = .idle)
    (h : j ∈ l) : (∃ a, (s.endSteps v q l).entry j = some { e with
      outcome := some (e.endedOutcome v q s.clock), retestHeld := false, state := .lifting, assignment := a }) ∧
      j ∉ (s.endSteps v q l).mu.measQueue := by
  induction l generalizing s e with
  | nil => cases h
  | cons k rest ih =>
    have clock : (s.endStep k v q).clock = s.clock := State.confined_endStep.clock
    have idle : (s.endStep k v q).mu.op = .idle := by
      obtain ⟨-, p, m, mu⟩ := State.unitKept_endStep (s := s) (k := k) (v := v) (q := q) (by rw [op]; nofun)
      rw [mu]
      exact op
    by_cases same : j = k
    · subst same
      obtain ⟨a, first⟩ := State.entry_endStep (v := v) (q := q) he out op
      obtain ⟨b, last⟩ := State.entry_endSteps_decided (v := v) (q := q) rest first (by nofun)
      exact ⟨⟨b, last⟩, fun there => State.decideStep_leaves he out (State.gentle_endSteps.queue j there)⟩
    · obtain ⟨a, first⟩ := State.entry_endStep_ne (v := v) (q := q) he same
      obtain ⟨⟨b, last⟩, left⟩ := ih first out idle ((List.mem_cons.1 h).resolve_left same)
      rw [clock] at last
      exact ⟨⟨b, last⟩, left⟩

/-! ## Distinct slots -/

/-- The slots of the window stay distinct. -/
theorem slotsNodup_kept : Kept fun t => (t.disp.window.map (·.slot)).Nodup where
  free := id
  linkOut := id
  station _ := id
  cause := id
  run _ := id
  setup _ := id
  restore _ _ := id
  carriages := id
  qual := id
  guard _ := id
  frame _ := id
  fetch _ := id
  mu _ := id
  disp hd hs := by
    obtain ⟨slots, -⟩ := hd
    exact hs.sublist slots
  deliver hk hs := by
    simp only [State.updDisp_disp, List.map_append, List.nodup_append]
    refine ⟨hs, by simp, fun x hx y hy => ?_⟩
    obtain ⟨e, he, rfl⟩ := List.mem_map.1 hx
    obtain rfl : y = _ := by simpa [newEntry] using hy
    exact State.freeSlot_unused hk e he
  nets _ := id
  note := id
  hold _ := id
  log _ := id
  write _ _ := id
  landed _ _ := id
  publish _ := id
  fresh _ := id
  pend _ := id
  wait _ _ := id
  take _ _ _ := id
  grant _ _ := id
  clear := id
  build _ _ _ := id
end

end Sys2Proof.Machine
end

section
/-! PROOFS. The latch of the Source Guard in its stages (R102, R155). -/

set_option Elab.async false

namespace Sys2Proof.Machine

section
variable {s t : State} {c : Carriage} {e f : Entry} {k j : Nat}

/-! ## The unit gives up what it holds -/

theorem State.gentle_abandonMeasure : Gentle s s.abandonMeasure := by
  have freed : Gentle s (s.cutPhase.muStep fun u => u.released.forget) := by
    refine .of_records ((State.confined_cutPhase.mono).andThen State.confined_muStep) (fun x gone => ?_) fun k there => ?_
    · rwa [State.confined_muStep.landing, State.confined_cutPhase.landing]
    · rwa [State.muStep_mu] at there
  unfold State.abandonMeasure
  split
  · dsimp only
    split
    · exact freed
    · exact (freed.andThen (.of_disp State.confined_modEntry)).andThen
        (.foldl (fun _ _ => .ite (fun _ => State.gentle_enterLift) fun _ => .refl _) _ _)
  all_goals exact .refl s

/-- The latch applies: a pair check or a measurement is in hand. -/
def State.holdsUnit (s : State) : Prop := (s.mu.op = .pairCheck ∧ s.mu.pair ≠ none) ∨ s.mu.op = .measurement

/-- The unit with what it held given up. -/
def State.latchUnits (s : State) : State := s.abandonCheck.abandonMeasure

theorem State.abandonMeasure_other (h : s.mu.op ≠ .measurement) : s.abandonMeasure = s := by
  unfold State.abandonMeasure
  split
  · next op => exact absurd op h
  all_goals rfl

theorem State.abandonCheck_other (h : s.mu.op ≠ .pairCheck) : s.abandonCheck = s := by
  unfold State.abandonCheck
  split
  · next op _ => exact absurd op h
  · rfl

theorem State.abandonCheck_eq {p : Pair} (op : s.mu.op = .pairCheck) (pair : s.mu.pair = some p) : s.abandonCheck =
    [p.force, p.sense].foldl (fun s c => s.setTip c (tipFor (s.carr c).state))
      (s.cutPhase.muStep fun u => u.released.forget) := by
  unfold State.abandonCheck
  rw [op, pair]

theorem State.latchUnits_check (op : s.mu.op = .pairCheck) (pair : s.mu.pair ≠ none) : s.latchUnits = s.abandonCheck := by
  obtain ⟨p, pair⟩ := Option.ne_none_iff_exists'.1 pair
  refine State.abandonMeasure_other ?_
  rw [State.abandonCheck_mu op pair]
  nofun

theorem State.latchUnits_measure (op : s.mu.op = .measurement) : s.latchUnits = s.abandonMeasure := by
  rw [State.latchUnits, State.abandonCheck_other (by rw [op]; nofun)]

theorem State.latchUnits_mu (h : s.holdsUnit) :
    s.latchUnits.mu = ({ s.mu with cut := s.mu.cutMark s.clock } : MeasUnit).released.forget := by
  obtain ⟨op, pair⟩ | op := h
  · rw [State.latchUnits_check op pair]
    obtain ⟨p, pair⟩ := Option.ne_none_iff_exists'.1 pair
    exact State.abandonCheck_mu op pair
  · rw [State.latchUnits_measure op]
    exact State.abandonMeasure_mu op

theorem State.abandonCheck_watched {p : Pair} (op : s.mu.op = .pairCheck) (pair : s.mu.pair = some p) :
    Watched s s.abandonCheck := by
  rw [State.abandonCheck_eq op pair]
  have freed : Watched s (s.cutPhase.muStep fun u => u.released.forget) := State.muStep_watched.of_updMu rfl Iff.rfl
  exact freed.confined (Confined.foldl (bs := [.carriages]) (fun _ _ => State.confined_setTip) _ _)

theorem State.abandonMeasure_watched (op : s.mu.op = .measurement) : Watched s s.abandonMeasure := by
  have freed : Watched s (s.cutPhase.muStep fun u => u.released.forget) := State.muStep_watched.of_updMu rfl Iff.rfl
  unfold State.abandonMeasure
  rw [op]
  dsimp only
  split
  · exact freed
  · exact (freed.confined State.confined_modEntry).confined State.confined_liftEngaged

theorem State.latchUnits_watched (h : s.holdsUnit) : Watched s s.latchUnits := by
  obtain ⟨op, pair⟩ | op := h
  · rw [State.latchUnits_check op pair]
    obtain ⟨p, pair⟩ := Option.ne_none_iff_exists'.1 pair
    exact State.abandonCheck_watched op pair
  · rw [State.latchUnits_measure op]
    exact State.abandonMeasure_watched op

theorem State.confined_latchUnits : Confined releaseBlocks s s.latchUnits :=
  (State.confined_abandonCheck.mono).andThen State.confined_abandonMeasure

theorem State.gentle_latchUnits : Gentle s s.latchUnits := State.gentle_abandonCheck.andThen State.gentle_abandonMeasure

/-- What the Guard is once nothing is watched any more. -/
structure Unwatched (s t : State) : Prop where
  raised : t.guard.senseRaised = false ∧ t.guard.sourceRaised = false
  source : t.guard.sourceTimer = none
  sense : t.mu.dwells = false → t.guard.senseTimer = none
  flags : t.guard.residual = s.guard.residual ∧ t.guard.senseOver = s.guard.senseOver ∧
    t.guard.sourceOver = s.guard.sourceOver
  retries : t.guard.retries = s.guard.retries

theorem Watched.off (h : Watched s t) (off : t.mu.source = .off) : Unwatched s t := by
  have board : ¬ t.mu.source = .board := by rw [off]; nofun
  have guard := h.guard
  rw [State.watchAfter, if_neg fun both => board both.2, if_neg (c := t.mu.source = .board ∧ _) fun both => board both.1]
    at guard
  refine ⟨?_, ?_, fun calm => ?_, ?_, ?_⟩ <;> rw [guard]
  · exact ⟨rfl, rfl⟩
  · exact if_neg fun both => both.1.elim board (by rw [calm]; nofun)
  · exact ⟨rfl, rfl, rfl⟩

/-! ## Carriages when the unit gives up -/

theorem State.carr_setTips_tip (l : List Carriage) (q : State → Carriage → Tip) (s : State) (c : Carriage) :
    ∃ p, (l.foldl (fun s c => s.setTip c (q s c)) s).carr c = { s.carr c with tip := p } := by
  induction l generalizing s with
  | nil => exact ⟨_, rfl⟩
  | cons x rest ih =>
    obtain ⟨p, h⟩ := ih (s.setTip x (q s x))
    refine ⟨p, h.trans ?_⟩
    by_cases e : c = x
    · subst e
      rw [State.carr_setTip]
    · rw [State.carr_setTip_ne e]

theorem State.latchUnits_ending (h : s.holdsUnit) : Ending c s s.latchUnits := by
  have gone : s.landing c = none → s.latchUnits.landing c = none := State.gentle_latchUnits.gone c
  obtain ⟨op, pair⟩ | op := h
  · have units := State.latchUnits_check op pair
    obtain ⟨p, pair⟩ := Option.ne_none_iff_exists'.1 pair
    obtain ⟨q, tip⟩ := State.carr_setTips_tip [p.force, p.sense] (fun s c => tipFor (s.carr c).state)
      (s.cutPhase.muStep fun u => u.released.forget) c
    rw [← State.abandonCheck_eq op pair, ← units, State.confined_muStep.carr, State.confined_cutPhase.carr] at tip
    exact (Ending.refl c s).retip tip gone
  · have lifts : s.latchUnits.carr c = s.carr c ∨ ((s.carr c).state = .engaged ∧
        s.latchUnits.carr c = (s.carr c).lifted s.clock s.setup.liftMs .free) := by
      rw [State.latchUnits_measure op]
      unfold State.abandonMeasure
      rw [op]
      dsimp only
      split
      · exact .inl ((State.confined_muStep.carr c).trans (State.confined_cutPhase.carr c))
      · have before (g : Entry → Entry) (k : Nat) : Confined [.mu, .guard, .disp] s
            ((s.cutPhase.muStep fun u => u.released.forget).modEntry k g) :=
          ((State.confined_cutPhase.mono).andThen State.confined_muStep).andThen State.confined_modEntry
        rw [State.carr_liftEngaged, (before _ _).carr, (before _ _).clock, (before _ _).setup]
        split
        · next both => exact .inr ⟨both.2, rfl⟩
        · exact .inl rfl
    obtain same | ⟨engaged, lifted⟩ := lifts
    · exact (Ending.refl c s).same same gone
    · refine ((Ending.refl c s).lifted (by rw [engaged]; decide) ?_ fun check => ?_).ending
      · refine ⟨?_, ?_, ?_, ?_⟩ <;> rw [lifted] <;> rfl
      · rw [engaged] at check
        cases check

theorem State.latchUnits_resting (h : s.holdsUnit) : Resting s s.latchUnits where
  op := by
    rw [State.latchUnits_mu h]
    rfl
  setup := State.confined_latchUnits.setup
  claims := State.confined_latchUnits.claims

/-- The entries when the unit gives up: the step in measurement keeps all but its state. -/
theorem State.entry_latchUnits (h : s.holdsUnit) (he : s.entry j = some e) :
    (s.mu.op = .measurement ∧ s.mu.step = some j → ∃ q, s.latchUnits.entry j = some { e with state := q }) ∧
    (¬ (s.mu.op = .measurement ∧ s.mu.step = some j) → s.latchUnits.entry j = some e) := by
  obtain ⟨op, pair⟩ | op := h
  · have units := State.latchUnits_check op pair
    refine ⟨fun both => ?_, fun _ => ?_⟩
    · rw [op] at both
      exact absurd both.1 nofun
    · rw [units, State.confined_abandonCheck.entry, he]
  · rw [State.latchUnits_measure op]
    unfold State.abandonMeasure
    rw [op]
    dsimp only
    have freed : (s.cutPhase.muStep fun u => u.released.forget).entry j = some e := by
      rw [State.confined_muStep.entry, State.confined_cutPhase.entry, he]
    split
    · exact ⟨fun _ => ⟨e.state, freed⟩, fun _ => freed⟩
    · next g hand =>
      obtain ⟨step, found⟩ := State.inHand_entry hand
      rw [State.confined_liftEngaged.entry]
      refine ⟨fun both => ?_, fun other => ?_⟩
      · obtain rfl : g.slot = j := Option.some.inj (step.symm.trans both.2)
        exact ⟨_, State.entry_changed freed fun _ => rfl⟩
      · rw [← freed]
        exact State.entry_modEntry_ne (fun _ => rfl) fun e => other ⟨rfl, by rw [step, e]⟩

/-! ## The step in measurement ends (R155) -/

/-- The latch once the step in measurement has ended. -/
def State.latchHeld (s : State) : State :=
  match if s.mu.op = .measurement then s.mu.step else none with
  | some k => s.latchUnits.endStep k .error .guard
  | none => s.latchUnits

theorem State.latchHeld_cases (s : State) : (∃ k, s.mu.op = .measurement ∧ s.mu.step = some k ∧
      s.latchHeld = s.latchUnits.endStep k .error .guard) ∨
    ((∀ k, ¬ (s.mu.op = .measurement ∧ s.mu.step = some k)) ∧ s.latchHeld = s.latchUnits) := by
  unfold State.latchHeld
  by_cases op : s.mu.op = .measurement
  · rw [if_pos op]
    cases step : s.mu.step with
    | none => exact .inr ⟨fun k both => by simp at both, rfl⟩
    | some k => exact .inl ⟨k, op, rfl, rfl⟩
  · rw [if_neg op]
    exact .inr ⟨fun k both => op both.1, rfl⟩

theorem State.confined_latchHeld : Confined serviceBlocks s.latchUnits s.latchHeld := by
  obtain ⟨k, -, -, h⟩ | ⟨-, h⟩ := s.latchHeld_cases
  · rw [h]
    exact State.confined_endStep
  · rw [h]
    exact .refl _ _

theorem State.unitKept_latchHeld : UnitKept s.latchUnits s.latchHeld := by
  obtain ⟨k, -, -, h⟩ | ⟨-, h⟩ := s.latchHeld_cases
  · rw [h]
    exact State.unitKept_endStep
  · rw [h]
    exact .refl _

theorem State.gentle_latchHeld : Gentle s.latchUnits s.latchHeld := by
  obtain ⟨k, -, -, h⟩ | ⟨-, h⟩ := s.latchHeld_cases
  · rw [h]
    exact State.gentle_decideStep
  · rw [h]
    exact .refl _

/-- With no entry pending of the carriages of the step in measurement its end runs no review. -/
theorem State.latchHeld_resting (h : s.holdsUnit)
    (pend : s.mu.op = .measurement → ∃ e, s.inHand = some e ∧ ∀ c, some c ∈ e.assignment → s.pendingOf c = none) :
    Resting s s.latchHeld ∧ ∀ c, Ending c s s.latchHeld := by
  have resting := State.latchUnits_resting h
  obtain ⟨k, op, step, held⟩ | ⟨-, held⟩ := s.latchHeld_cases
  · obtain ⟨e, hand, alone⟩ := pend op
    obtain ⟨step', found⟩ := State.inHand_entry hand
    obtain rfl : e.slot = k := Option.some.inj (step'.symm.trans step)
    obtain ⟨q, entry⟩ := (State.entry_latchUnits h found).1 ⟨op, step⟩
    have ends (c : Carriage) := resting.endStep (c := c) (a := s) (k := e.slot) (v := .error) (q := .guard) rfl
      (fun g hg x hx => by
        rw [entry] at hg
        obtain rfl := Option.some.inj hg
        exact alone x (by simpa [Entry.serving] using hx)) (State.latchUnits_ending h)
    rw [held]
    exact ⟨(ends .t1).1, fun c => (ends c).2⟩
  · rw [held]
    exact ⟨resting, fun c => State.latchUnits_ending h⟩

/-! ## HALTED, and the other steps (R102, R155) -/

/-- The latch once the controller is in HALTED, with every tip ISOLATED and no claim pending. -/
def State.latchStop (s : State) : State :=
  (((s.latchHeld.setRun .halted).raise .fault).retip).updClaims fun v =>
    ⟨{ v.top with pend := [] }, { v.bottom with pend := [] }⟩

/-- The latch once the other steps in flight have ended. -/
def State.latchSteps (s : State) : State :=
  s.latchStop.endSteps .error .halted ((s.latchStop.disp.window.filter Entry.halts).map (·.slot))

/-- The parks that stay marked. -/
def ParkMark.issuedOnly (m : ParkMark) : ParkMark := if m = .due then .none else m

theorem State.latch_eq : s.latch = (s.latchSteps.sendEnds allCarriages).updRun fun r => { r with
    framePark := ⟨r.framePark.top.issuedOnly, r.framePark.bottom.issuedOnly⟩, runPark := .both .none } := by
  unfold State.latch State.latchSteps State.endSteps
  dsimp only
  rw [List.foldl_map]
  rfl

theorem State.confined_latchStop : Confined [.run, .fetch, .hostMem, .regs, .carriages, .claims] s.latchHeld s.latchStop :=
  (((State.confined_setRun.mono).andThen State.confined_raise).andThen State.confined_retip).andThen State.confined_updClaims

theorem State.latchStop_run : s.latchStop.run = { s.latchHeld.run with state := .halted } := by
  have rest : Confined [.regs, .carriages, .claims] (s.latchHeld.setRun .halted) s.latchStop :=
    ((State.confined_raise.mono).andThen State.confined_retip).andThen State.confined_updClaims
  rw [rest.run, State.setRun_run]

theorem State.latchStop_carr : s.latchStop.carr c = { s.latchHeld.carr c with tip := .isolated } := by
  have before : Confined [.run, .fetch, .hostMem, .regs] s.latchHeld ((s.latchHeld.setRun .halted).raise .fault) :=
    (State.confined_setRun.mono).andThen State.confined_raise
  have run : ((s.latchHeld.setRun .halted).raise .fault).run.state = .halted := by
    rw [State.confined_raise.run, State.setRun_run]
  rw [State.latchStop, State.confined_updClaims.carr, State.carr_retip, CarriageRec.retipped, if_pos run, before.carr]

theorem State.latchStop_table (d : Side) :
    (s.latchStop.table d).pend = [] ∧ (s.latchStop.table d).cells = (s.latchHeld.table d).cells := by
  have before : Confined [.run, .fetch, .hostMem, .regs, .carriages] s.latchHeld
      (((s.latchHeld.setRun .halted).raise .fault).retip) :=
    ((State.confined_setRun.mono).andThen State.confined_raise).andThen State.confined_retip
  rw [← before.table]
  cases d <;> exact ⟨rfl, rfl⟩

/-- The rest of a latch, with no claim pending. -/
theorem State.latchSteps_resting (h : s.holdsUnit) : Resting s.latchStop s.latchStop ∧
    Resting s.latchStop s.latchSteps ∧ Resting s.latchStop (s.latchSteps.sendEnds allCarriages) := by
  have idle : s.latchHeld.mu.op = .idle := by
    obtain ⟨-, q, m, mu⟩ := s.unitKept_latchHeld (by rw [(State.latchUnits_resting h).op]; nofun)
    rw [mu]
    exact (State.latchUnits_resting h).op
  have none_ (x : Carriage) : s.latchStop.pendingOf x = none := by
    rw [State.pendingOf, (State.latchStop_table _).1]
    rfl
  have first : Resting s.latchStop s.latchStop := ⟨by rw [State.confined_latchStop.mu, idle], rfl, rfl⟩
  have steps := (first.endSteps (c := .t1) (a := s.latchStop) (v := .error) (q := .halted) rfl
    ((s.latchStop.disp.window.filter Entry.halts).map (·.slot)) none_ (.refl _ _)).1
  exact ⟨first, steps, (steps.sendEnds (c := .t1) (a := s.latchStop) rfl allCarriages fun x _ => none_ x).1⟩

/-! ## What a latch makes of the part -/

/-- The rest of a latch once the controller is in HALTED. -/
theorem State.gentle_latchRest : Gentle s.latchStop (s.latchSteps.sendEnds allCarriages) :=
  State.gentle_endSteps.andThen State.gentle_sendEnds

theorem State.confined_latchRest : Confined serviceBlocks s.latchStop (s.latchSteps.sendEnds allCarriages) :=
  State.confined_endSteps.andThen State.confined_sendEnds

theorem State.unitKept_latchRest : UnitKept s.latchStop (s.latchSteps.sendEnds allCarriages) :=
  State.unitKept_endSteps.andThen State.unitKept_sendEnds

theorem State.latch_run : s.latch.run = { s.run with
    state := .halted, framePark := ⟨s.run.framePark.top.issuedOnly, s.run.framePark.bottom.issuedOnly⟩
    runPark := .both .none } := by
  have before : s.latchHeld.run = s.run := State.confined_latchHeld.run.trans State.confined_latchUnits.run
  rw [State.latch_eq, State.updRun, State.confined_latchRest.run, State.latchStop_run, before]

theorem State.latch_tip : (s.latch.carr c).tip = .isolated := by
  rw [State.latch_eq, State.confined_updRun.carr]
  refine State.gentle_latchRest.tips (by rw [State.latchStop_run]) (fun x => ?_) c
  rw [State.latchStop_carr]

theorem State.latch_unit (h : s.holdsUnit) : s.latch.guard = s.latchUnits.guard ∧ ∃ q m, s.latch.mu =
    { ({ s.mu with cut := s.mu.cutMark s.clock } : MeasUnit).released.forget with checkQueue := q, measQueue := m } := by
  have kept : UnitKept s.latchUnits s.latch := by
    rw [State.latch_eq]
    exact ((s.unitKept_latchHeld.andThen (.of_confined State.confined_latchStop)).andThen State.unitKept_latchRest).andThen
      (.of_confined State.confined_updRun)
  obtain ⟨guard, q, m, mu⟩ := kept (by rw [(State.latchUnits_resting h).op]; nofun)
  exact ⟨guard, q, m, by rw [mu, State.latchUnits_mu h]⟩

theorem State.latch_unwatched (h : s.holdsUnit) : Unwatched s s.latch ∧ s.latch.guard.senseTimer = none := by
  have off := (State.latchUnits_watched h).off (by rw [State.latchUnits_mu h]; rfl)
  have guard := (State.latch_unit h).1
  have sense := off.sense (by rw [State.latchUnits_mu h]; rfl)
  rw [← guard] at sense
  refine ⟨⟨?_, ?_, fun _ => sense, ?_, ?_⟩, sense⟩ <;> rw [guard]
  · exact off.raised
  · exact off.source
  · exact off.flags
  · exact off.retries

theorem State.latch_lanes {d : Side} {n : Nat} {x : Carriage} (own : (s.table d).cells[n]? = some (some x)) :
    (s.latch.table d).cells[n]? = some (some x) := by
  rw [State.latch_eq, State.confined_updRun.table]
  refine State.gentle_latchRest.lanes d n x ?_
  rw [(State.latchStop_table d).2]
  exact (State.gentle_latchUnits.andThen State.gentle_latchHeld).lanes d n x own

theorem State.latch_pend (h : s.holdsUnit) (d : Side) : (s.latch.table d).pend = [] := by
  rw [State.latch_eq, State.confined_updRun.table, State.table, (State.latchSteps_resting h).2.2.claims]
  exact (State.latchStop_table d).1

theorem State.latch_regs : s.latch.regs = { s.regs with intStatus := s.regs.intStatus ||| 8 } := by
  have before : s.latchHeld.regs = s.regs := State.confined_latchHeld.regs.trans State.confined_latchUnits.regs
  have raised : s.latchStop.regs = { s.regs with intStatus := s.regs.intStatus ||| 8 } := by
    have after : Confined [.carriages, .claims] ((s.latchHeld.setRun .halted).raise .fault) s.latchStop :=
      (State.confined_retip.mono).andThen State.confined_updClaims
    rw [after.regs, State.raise, State.updRegs, State.confined_setRun.regs, before]
    rfl
  rw [State.latch_eq, State.confined_updRun.regs, State.confined_latchRest.regs, raised]

theorem State.latch_log : s.latch.log = s.log := by
  rw [State.latch_eq, State.confined_updRun.log, State.confined_latchRest.log, State.confined_latchStop.log,
    State.confined_latchHeld.log, State.confined_latchUnits.log]

/-- Every carriage comes to its END. -/
theorem State.latch_ended (h : s.holdsUnit)
    (pend : s.mu.op = .measurement → ∃ e, s.inHand = some e ∧ ∀ c, some c ∈ e.assignment → s.pendingOf c = none)
    (c : Carriage) : Ended c s s.latch := by
  have held := (State.latchHeld_resting h pend).2 c
  have setup : s.latchStop.setup = s.setup := State.confined_latchStop.setup.trans
    ((State.confined_latchHeld.setup).trans State.confined_latchUnits.setup)
  have none_ (x : Carriage) : s.latchStop.pendingOf x = none := by
    rw [State.pendingOf, (State.latchStop_table _).1]
    rfl
  have stop : Ending c s s.latchStop := held.retip State.latchStop_carr fun gone => by
    rw [State.confined_latchStop.landing, gone]
  have steps := ((State.latchSteps_resting h).1.endSteps (a := s) (v := .error) (q := .halted) setup
    ((s.latchStop.disp.window.filter Entry.halts).map (·.slot)) none_ stop).2
  have ends := ((State.latchSteps_resting h).2.1.sendEnds (a := s) (c := c) setup allCarriages fun x _ => none_ x).2.2.1 steps
    (mem_allCarriages c)
  rw [State.latch_eq]
  exact ends.same rfl id

/-- The step in measurement ends GUARD, if it has no outcome yet. -/
theorem State.latch_held {e : Entry} (op : s.mu.op = .measurement) (hand : s.inHand = some e) (out : e.outcome = none) :
    ∃ f, s.latch.entry e.slot = some f ∧ f.outcome = some (e.endedOutcome .error .guard s.clock) := by
  obtain ⟨step, found⟩ := State.inHand_entry hand
  have unit : s.holdsUnit := .inr op
  obtain ⟨q, entry⟩ := (State.entry_latchUnits unit found).1 ⟨op, step⟩
  have held : s.latchHeld = s.latchUnits.endStep e.slot .error .guard := by
    rw [State.latchHeld, if_pos op, step]
  obtain ⟨a, ended⟩ := State.entry_endStep (v := .error) (q := .guard) entry out (State.latchUnits_resting unit).op
  rw [← held, State.confined_latchUnits.clock, ← State.confined_latchStop.entry] at ended
  obtain ⟨b, kept⟩ := State.entry_endSteps_decided (v := .error) (q := .halted)
    ((s.latchStop.disp.window.filter Entry.halts).map (·.slot)) ended (by nofun)
  obtain ⟨d, last⟩ := State.entriesLeft_sendEnds (l := allCarriages) _ _ kept
  rw [State.latch_eq, State.confined_updRun.entry]
  exact ⟨_, last, rfl⟩

theorem Entry.halts_iff (e : Entry) :
    e.halts = true ↔ e.outcome = none ∧ e.state ∈ [.moving, .landing, .measureQueued] := by
  simp [Entry.halts, or_assoc]

/-- Every other step ends HALTED if it is in flight without an outcome, and keeps state and outcome else. -/
theorem State.latch_other (nodup : (s.disp.window.map (·.slot)).Nodup) (h : s.holdsUnit) (mem : f ∈ s.disp.window)
    (other : ¬ (s.mu.op = .measurement ∧ s.mu.step = some f.slot)) :
    (f.halts = true → (∃ a, s.latch.entry f.slot = some { f with
        outcome := some (f.endedOutcome .error .halted s.clock), retestHeld := false, state := .lifting, assignment := a }) ∧
      f.slot ∉ s.latch.mu.measQueue) ∧
    (f.halts ≠ true → ∃ a, s.latch.entry f.slot = some { f with assignment := a }) := by
  have units := (State.entry_latchUnits h (State.entry_of_mem nodup mem)).2 other
  have held : ∃ a, s.latchHeld.entry f.slot = some { f with assignment := a } := by
    obtain ⟨k, op, step, held⟩ | ⟨-, held⟩ := s.latchHeld_cases
    · rw [held]
      exact State.entry_endStep_ne units fun same => other ⟨op, by rw [step, same]⟩
    · rw [held]
      exact ⟨_, units⟩
  obtain ⟨a, entry⟩ := held
  rw [← State.confined_latchStop.entry] at entry
  have nodup' : (s.latchStop.disp.window.map (·.slot)).Nodup := by
    have kept := slotsNodup_kept.abandonMeasure (slotsNodup_kept.abandonCheck nodup)
    rw [State.confined_latchStop.disp]
    obtain ⟨k, -, -, held⟩ | ⟨-, held⟩ := s.latchHeld_cases
    · rw [held]
      exact slotsNodup_kept.endStep kept
    · rw [held]
      exact kept
  have listed : f.slot ∈ (s.latchStop.disp.window.filter Entry.halts).map (·.slot) ↔ f.halts = true := by
    rw [List.mem_map]
    refine ⟨fun ⟨g, hg, same⟩ => ?_, fun halts => ⟨_, List.mem_filter.2 ⟨State.entry_mem entry, halts⟩, rfl⟩⟩
    obtain ⟨mem, halts⟩ := List.mem_filter.1 hg
    have found := State.entry_of_mem nodup' mem
    rw [same, entry] at found
    obtain rfl := Option.some.inj found
    exact halts
  have clock : s.latchStop.clock = s.clock := State.confined_latchStop.clock.trans
    (State.confined_latchHeld.clock.trans State.confined_latchUnits.clock)
  rw [State.latch_eq, State.confined_updRun.entry, State.confined_updRun.mu]
  refine ⟨fun halts => ?_, fun stays => ?_⟩
  · obtain ⟨⟨b, ended⟩, left⟩ := State.entry_endSteps (v := .error) (q := .halted) _ entry ((Entry.halts_iff f).1 halts).1
      (State.latchSteps_resting h).1.op (listed.2 halts)
    obtain ⟨d, last⟩ := State.entriesLeft_sendEnds (l := allCarriages) _ _ ended
    rw [clock] at last
    exact ⟨⟨d, last⟩, fun there => left (State.gentle_sendEnds.queue _ there)⟩
  · obtain ⟨b, kept⟩ := State.entry_endSteps_ne (v := .error) (q := .halted) _ entry (mt listed.1 stays)
    obtain ⟨d, last⟩ := State.entriesLeft_sendEnds (l := allCarriages) _ _ kept
    exact ⟨d, last⟩
end

end Sys2Proof.Machine
end

section
/-! PROOFS. The responses of the Source Guard to a condition (R149 to R155). -/

set_option Elab.async false

namespace Sys2Proof.Machine

section
variable {s t : State} {c : Carriage} {e f g : Entry} {k : Condition} {ph : Phase} {p : Pair} {r : Response}

/-! ## A condition is noted (R149) -/

/-- The state in which a condition's response begins: its flag is set and its note offered. -/
def State.noted (k : Condition) (r : Response) (slot : Nat) (s : State) : State := (s.updGuard k.setFlag).guardNote k r slot

/-- A condition's flag. -/
def Condition.flag (k : Condition) (g : Guard) : Bool :=
  match k with
  | .residual => g.residual
  | .senseOver => g.senseOver
  | .sourceOver => g.sourceOver

theorem Condition.flag_setFlag (g : Guard) : k.flag (k.setFlag g) = true := by cases k <;> rfl

theorem Condition.flag_congr {g h : Guard} (same : h.residual = g.residual ∧ h.senseOver = g.senseOver ∧
    h.sourceOver = g.sourceOver) (set : k.flag g = true) : k.flag h = true := by
  obtain ⟨h1, h2, h3⟩ := same
  cases k with
  | residual => exact h1.trans set
  | senseOver => exact h2.trans set
  | sourceOver => exact h3.trans set

theorem Condition.retries_setFlag (g : Guard) : (k.setFlag g).retries = g.retries := by cases k <;> rfl

theorem State.confined_noted {n : Nat} : Confined [.guard, .log] s (s.noted k r n) :=
  (State.confined_updGuard.mono).andThen State.confined_guardNote

theorem State.noted_guard {n : Nat} : (s.noted k r n).guard = k.setFlag s.guard := State.confined_guardNote.guard

theorem State.noted_log {n : Nat} (room : s.log.notes.length < 8) (he : s.entry n = some e) :
    (s.noted k r n).log.notes = s.log.notes ++
      [⟨⟨.guardEvent, none, k.code + r.code, e.copy.tag, e.copy.seq, 0⟩, s.log.offers⟩] := by
  have entry : (s.updGuard k.setFlag).entry n = some e := he
  have free : (s.updGuard k.setFlag).log.notes.length < 8 := room
  rw [State.noted, State.guardNote, entry]
  dsimp only
  rw [State.offerNote_room free]
  rfl

/-! ## A condition in a pair check (R154) -/

/-- What a response makes of the part in a pair check. -/
def State.answerCheck (p : Pair) (s : State) : Response → State
  | .ignore => s
  | .retry | .report | .spent => s.abandonCheck.bindCheck p false
  | .latch => s.latch

theorem State.raise_check (op : s.mu.op = .pairCheck) (phase : s.mu.phase = some ph) (pair : s.mu.pair = some p)
    (h : checkResponseOf s.setup.overloadMode = r) : s.raiseCondition k = (s.noted k r p.slot).answerCheck p r := by
  have same : checkResponseOf (s.updGuard k.setFlag).setup.overloadMode = r := h
  unfold State.raiseCondition
  rw [op, phase]
  dsimp only
  rw [pair]
  change (s.updGuard k.setFlag).checkCondition k p = _
  unfold State.checkCondition
  dsimp only
  rw [same]
  cases r <;> rfl

theorem State.decideLanding_none {n : Nat} (h : s.landing c = none) : s.decideLanding n c = s := by
  cases n with
  | zero => rfl
  | succ n =>
    unfold State.decideLanding
    rw [h]

theorem State.considerPair_none (h : s.landing c = none) : s.considerPair c = s := by
  unfold State.considerPair
  rw [h]

/-- A failed check of two records that run it closes both, and both carriages lift. -/
theorem State.bindCheck_fails {l m : Landing} (ne : p.force ≠ p.sense) (force : s.landing p.force = some l)
    (sense : s.landing p.sense = some m) (runs : l.elec = .running) (runs' : m.elec = .running) :
    ∀ c, c = p.force ∨ c = p.sense →
      (s.bindCheck p false).landing c = none ∧ ((s.bindCheck p false).carr c).state = .lift := by
  let put (l : Landing) : Landing :=
    { l with elec := if l.elec = .running then (if false = true then .passed else .failed) else l.elec }
  let t := (s.modLanding p.force put).modLanding p.sense put
  have failed (l : Landing) (h : l.elec = .running) : ((put l).elec == .failed) = true := by
    change ((if l.elec = .running then _ else _) == ElecProgress.failed) = true
    rw [if_pos h]
    rfl
  have first : t.pairFailed p.force = true := by
    have landing : t.landing p.force = some (put l) := by
      rw [State.landing_modLanding_at, if_neg ne, State.landing_modLanding_at, if_pos rfl, force]
      rfl
    rw [State.pairFailed, landing]
    exact failed l runs
  have second : t.pairFailed p.sense = true := by
    have landing : t.landing p.sense = some (put m) := by
      rw [State.landing_modLanding_at, if_pos rfl, State.landing_modLanding_at, if_neg ne.symm, sense]
      rfl
    rw [State.pairFailed, landing]
    exact failed m runs'
  have both : [p.force, p.sense].filter t.pairFailed = [p.force, p.sense] := by
    rw [List.filter_cons_of_pos first, List.filter_cons_of_pos second, List.filter_nil]
  have lifts (c : Carriage) (h : c = p.force ∨ c = p.sense) :=
    State.failPair_lifts (s := t) (l := [p.force, p.sense]) (c := c) (by simpa using h)
  have binds : s.bindCheck p false = t.failPair [p.force, p.sense] := by
    have eq : s.bindCheck p false = (((t.failPair ([p.force, p.sense].filter t.pairFailed)).decideLanding 2
      p.force).decideLanding 2 p.sense).considerPair p.force := rfl
    rw [eq, both, State.decideLanding_none (lifts p.force (.inl rfl)).1, State.decideLanding_none (lifts p.sense (.inr rfl)).1,
      State.considerPair_none (lifts p.force (.inl rfl)).1]
  rw [binds]
  exact lifts

/-- What an abandoned check that fails both partners makes of the part. -/
structure CheckFails (s : State) (p : Pair) (t : State) : Prop where
  rest : Confined serviceBlocks s t
  guard : Unwatched s t
  sense : t.guard.senseTimer = none
  mu : ∃ q m, t.mu =
    { ({ s.mu with cut := s.mu.cutMark s.clock } : MeasUnit).released.forget with checkQueue := q, measQueue := m }
  partners : ∀ c, c = p.force ∨ c = p.sense → t.landing c = none ∧ (t.carr c).state = .lift

theorem State.abandon_fails {l m : Landing} (op : s.mu.op = .pairCheck) (pair : s.mu.pair = some p) (ne : p.force ≠ p.sense)
    (force : s.landing p.force = some l) (sense : s.landing p.sense = some m) (runs : l.elec = .running)
    (runs' : m.elec = .running) : CheckFails s p (s.abandonCheck.bindCheck p false) := by
  have freed := State.abandonCheck_mu op pair
  have off := (State.abandonCheck_watched op pair).off (by rw [freed]; rfl)
  have calm := off.sense (by rw [freed]; rfl)
  obtain ⟨guard, q, m', mu⟩ := State.unitKept_bindCheck (s := s.abandonCheck) (p := p) (b := false) (by rw [freed]; nofun)
  rw [freed] at mu
  refine ⟨(State.confined_abandonCheck.mono).andThen State.confined_bindCheck, ?_, by rw [guard]; exact calm,
    ⟨q, m', mu⟩, ?_⟩
  · refine ⟨?_, ?_, fun _ => ?_, ?_, ?_⟩ <;> rw [guard]
    · exact off.raised
    · exact off.source
    · exact calm
    · exact off.flags
    · exact off.retries
  · exact State.bindCheck_fails ne ((State.confined_abandonCheck.landing _).trans force)
      ((State.confined_abandonCheck.landing _).trans sense) runs runs'

/-! ## A condition in a measurement (R150 to R153) -/

theorem State.raise_measure (op : s.mu.op = .measurement) (phase : s.mu.phase = some ph) (hand : s.inHand = some e) :
    s.raiseCondition k = (s.updGuard k.setFlag).measureCondition k e ph := by
  unfold State.raiseCondition
  rw [op, phase]
  dsimp only
  rw [hand]

theorem State.measure_ignore (h : responseOf (k.mode s.setup) s.guard.retries = .ignore) :
    (s.updGuard k.setFlag).measureCondition k e ph = if ph.isDwell then s.noted k .ignore e.slot
      else (s.noted k .ignore e.slot).modEntry e.slot fun e =>
        { e with eval := e.eval.map fun v => { v with guardIgnored := true } } := by
  unfold State.measureCondition
  have same : responseOf (k.mode (s.updGuard k.setFlag).setup) (s.updGuard k.setFlag).guard.retries = .ignore := by
    rw [← h]
    exact congrArg (responseOf _) (Condition.retries_setFlag _)
  dsimp only
  rw [same]
  rfl

/-- A RETRY is counted, and its phase is cut. -/
def State.retried (s : State) : State := (s.updGuard fun g => { g with retries := g.retries + 1 }).cutPhase

theorem State.measure_retry (h : responseOf (k.mode s.setup) s.guard.retries = .retry) :
    (s.updGuard k.setFlag).measureCondition k e ph = if ph = .dwell then
        (s.noted k .retry e.slot).retried.beginDwell .dwell s.mu.dwellNext e
      else (s.noted k .retry e.slot).retried.beginDwell .guardDwell .release e := by
  unfold State.measureCondition
  have same : responseOf (k.mode (s.updGuard k.setFlag).setup) (s.updGuard k.setFlag).guard.retries = .retry := by
    rw [← h]
    exact congrArg (responseOf _) (Condition.retries_setFlag _)
  dsimp only
  rw [same]
  rfl

theorem State.measure_report (h : responseOf (k.mode s.setup) s.guard.retries = r) (ends : r = .report ∨ r = .spent) :
    (s.updGuard k.setFlag).measureCondition k e ph = if ph = .dwell then
        (((s.noted k r e.slot).guardEnds e).updMu fun u => { u with dwellNext := .release }).updGuard Guard.unwatch
      else ((s.noted k r e.slot).guardEnds e).cutPhase.endAttempt true e := by
  unfold State.measureCondition
  have same : responseOf (k.mode (s.updGuard k.setFlag).setup) (s.updGuard k.setFlag).guard.retries = r := by
    rw [← h]
    exact congrArg (responseOf _) (Condition.retries_setFlag _)
  dsimp only
  rw [same]
  obtain rfl | rfl := ends <;> rfl

theorem State.measure_latch (h : responseOf (k.mode s.setup) s.guard.retries = .latch) :
    (s.updGuard k.setFlag).measureCondition k e ph = (s.noted k .latch e.slot).latch := by
  unfold State.measureCondition
  have same : responseOf (k.mode (s.updGuard k.setFlag).setup) (s.updGuard k.setFlag).guard.retries = .latch := by
    rw [← h]
    exact congrArg (responseOf _) (Condition.retries_setFlag _)
  dsimp only
  rw [same]
  rfl

theorem responseOf_counted {n : Nat} (h : n < 3) : responseOf .retry n = .retry := if_pos h

theorem responseOf_used {n : Nat} (h : ¬ n < 3) : responseOf .retry n = .spent := if_neg h

/-- The report of the Guard: an undecided step in measurement ends ERROR, GUARD, and a decided one keeps its outcome. -/
theorem State.guardEnds_entry (op : s.mu.op = .measurement) (step : s.mu.step = some e.slot) (found : s.entry e.slot = some e) :
    (e.outcome ≠ none → s.guardEnds e = s) ∧ (e.outcome = none → ∃ a, (s.guardEnds e).entry e.slot = some { e with
      outcome := some (e.endedOutcome .error .guard s.clock), retestHeld := false, assignment := a }) := by
  refine ⟨fun out => State.decideStep_decided found out, fun out => ?_⟩
  obtain ⟨a, decided⟩ := State.entry_decideStep (o := fun e => e.endedOutcome .error .guard s.clock) found out
  rw [Entry.concluded, if_pos ⟨op, step⟩] at decided
  exact ⟨a, decided⟩

/-- The release of a step with no retest to take up leaves the entry there in LIFTING. -/
theorem State.releaseStep_lifts (h : ¬ (e.outcome = none ∧ e.retestHeld = true)) (found : s.entry e.slot = some g) :
    (s.releaseStep e).entry e.slot = some { g with state := .lifting } := by
  have stepped : (s.muStep MeasUnit.released).entry e.slot = some g := by rw [State.confined_muStep.entry, found]
  have release : s.releaseStep e = ((s.muStep MeasUnit.released).modEntry e.slot fun e =>
      { e with state := .lifting }).liftEngaged e.serving fun _ => .free :=
    if_neg fun both => h ⟨Option.isNone_iff_eq_none.1 both.1, both.2⟩
  rw [release, State.confined_liftEngaged.entry]
  exact State.entry_changed stepped fun _ => rfl

theorem State.gentle_liftEngaged {l : List Carriage} {h : Carriage → FollowOn} : Gentle s (s.liftEngaged l h) :=
  .foldl (fun _ _ => .ite (fun _ => State.gentle_enterLift) fun _ => .refl _) l s

theorem State.gentle_muStep {h : MeasUnit → MeasUnit} (queue : (h s.mu).measQueue = s.mu.measQueue) : Gentle s (s.muStep h) :=
  .of_records State.confined_muStep.mono (fun x gone => by rwa [State.confined_muStep.landing]) fun k there => by
    rwa [State.muStep_mu, queue] at there

theorem State.gentle_setTips {l : List Carriage} {q : CarriageState} {z : Tip} : Gentle s (s.setTips l q z) :=
  .foldl (fun _ _ => .ite (fun _ => State.gentle_setTip) fun _ => .refl _) l s

theorem State.gentle_beginDwell {n : DwellNext} : Gentle s (s.beginDwell ph n e) :=
  (State.gentle_setTips.andThen (.of_disp State.confined_modEntry)).andThen (State.gentle_muStep rfl)

theorem State.gentle_endAttempt {b : Bool} : Gentle s (s.endAttempt b e) := by
  have freed : Gentle s (s.muStep MeasUnit.released) := State.gentle_muStep rfl
  refine .ite (fun _ => State.gentle_beginDwell) fun _ => ?_
  exact .ite (fun _ => (freed.andThen (.of_disp State.confined_modEntry)).andThen State.gentle_liftEngaged)
    fun _ => (freed.andThen (.of_disp State.confined_modEntry)).andThen State.gentle_liftEngaged

/-- The report of the Guard in a phase that it stops. -/
structure Reported (s : State) (e : Entry) (t : State) (f : Entry) : Prop where
  entry : t.entry e.slot = some f
  rest : Confined serviceBlocks s t
  guard : Unwatched s t
  source : t.mu.source = .off
  decided : e.outcome ≠ none → f.outcome = e.outcome
  ended : e.outcome = none → f.retestHeld = false ∧ f.outcome = some (e.endedOutcome .error .guard s.clock)
  dwells : s.setup.dwell ≠ 0 → t.mu.phase = some .dwell ∧ t.mu.dwellNext = .release ∧ f.state = .discharging
  releases : s.setup.dwell = 0 → t.mu.op = .idle ∧ f.state = .lifting

theorem State.report_stops (op : s.mu.op = .measurement) (step : s.mu.step = some e.slot) (found : s.entry e.slot = some e)
    (calm : e.retestHeld = false) : ∃ f, Reported s e ((s.guardEnds e).cutPhase.endAttempt true e) f := by
  have ends := State.guardEnds_entry op step found
  have kept : ∃ g, (s.guardEnds e).entry e.slot = some g ∧ (e.outcome ≠ none → g.outcome = e.outcome) ∧
      (e.outcome = none → g.retestHeld = false ∧ g.outcome = some (e.endedOutcome .error .guard s.clock)) := by
    by_cases out : e.outcome = none
    · obtain ⟨a, entry⟩ := ends.2 out
      exact ⟨_, entry, fun h => absurd out h, fun _ => ⟨rfl, rfl⟩⟩
    · rw [ends.1 out]
      exact ⟨e, found, fun _ => rfl, fun h => absurd h out⟩
  obtain ⟨g, entry, decided, ended⟩ := kept
  have cut : Confined serviceBlocks s (s.guardEnds e).cutPhase := (State.confined_endStep).andThen State.confined_cutPhase
  have unit : UnitKept s (s.guardEnds e) := State.unitKept_endStep
  have cutEntry : (s.guardEnds e).cutPhase.entry e.slot = some g := by rw [State.confined_cutPhase.entry, entry]
  have watched : Watched s ((s.guardEnds e).cutPhase.endAttempt true e) :=
    (State.endAttempt_watched.of_updMu rfl Iff.rfl).after_kept unit (by rw [op]; nofun) State.confined_endStep.pins
      State.confined_endStep.clock
  have rest : Confined serviceBlocks s ((s.guardEnds e).cutPhase.endAttempt true e) := cut.andThen State.confined_endAttempt
  have source : ((s.guardEnds e).cutPhase.endAttempt true e).mu.source = .off := State.endAttempt_source
  have off := watched.off source
  by_cases dwell : s.setup.dwell = 0
  · have released := State.endAttempt_releases (s := (s.guardEnds e).cutPhase) (e := e) (b := true)
      (.inr (by rw [cut.setup]; exact dwell))
    refine ⟨{ g with state := .lifting }, ?_, rest, off, source, decided, ended, fun h => absurd dwell h, fun _ => ?_⟩
    · rw [released]
      exact State.releaseStep_lifts (fun both => by rw [calm] at both; exact absurd both.2 nofun) cutEntry
    · rw [released, State.releaseStep_mu]
      exact ⟨rfl, rfl⟩
  · have dwells := State.endAttempt_dwells (s := (s.guardEnds e).cutPhase) (e := e) (b := true) rfl
      (by rw [cut.setup]; exact dwell)
    refine ⟨{ g with state := .discharging }, ?_, rest, off, source, decided, ended, fun _ => ?_, fun h => absurd h dwell⟩
    · rw [dwells]
      exact State.beginDwell_entry cutEntry
    · rw [dwells, State.beginDwell_mu]
      exact ⟨rfl, rfl, rfl⟩
end

/-! ## The clauses of the responses -/

section
variable {s : State} {c : Carriage} {e : Entry} {k : Condition} {ph : Phase} {p : Pair} {r : Response}

/-- A response that ends what the unit holds leaves HALTED, a free unit and isolated tips under LATCH. -/
theorem State.latch_facts {n : Nat} (h : s.holdsUnit) : (s.noted k r n).latch.run.state = .halted ∧
    (s.noted k r n).latch.mu.op = .idle ∧ (s.noted k r n).latch.mu.cls = .opened ∧
    (s.noted k r n).latch.mu.source = .off ∧ (s.noted k r n).latch.mu.lastClass = none ∧
    ∀ c, ((s.noted k r n).latch.carr c).tip = .isolated := by
  have unit : (s.noted k r n).holdsUnit := h
  obtain ⟨q, m, mu⟩ := (State.latch_unit unit).2
  refine ⟨by rw [State.latch_run], ?_, ?_, ?_, ?_, fun c => State.latch_tip⟩ <;> rw [mu] <;> rfl

theorem State.noted_flag {n : Nat} {t : State} (off : Unwatched (s.noted k r n) t) : k.flag t.guard = true :=
  Condition.flag_congr off.flags (by rw [State.noted_guard]; exact Condition.flag_setFlag _)

theorem State.noted_retries {n : Nat} {t : State} (off : Unwatched (s.noted k r n) t) :
    t.guard.retries = s.guard.retries := by
  rw [off.retries, State.noted_guard, Condition.retries_setFlag]

/-- No raised mark and no source timer. -/
def Guard.quiet (g : Guard) : Prop := g.senseRaised = false ∧ g.sourceRaised = false ∧ g.sourceTimer = none

theorem Unwatched.quiet {t : State} (h : Unwatched s t) : t.guard.quiet := ⟨h.raised.1, h.raised.2, h.source⟩

/-- What a RETRY makes of the part: its dwell begins. -/
structure Retried (k : Condition) (s : State) (e : Entry) (ph : Phase) (n : DwellNext) (t : State) : Prop where
  mu : t.mu = { s.mu with cut := s.mu.cutMark s.clock, phase := some ph, source := .off, dwellNext := n }
  rest : Confined [.mu, .guard, .carriages, .disp, .log] s t
  log : t.log = (s.noted k .retry e.slot).log
  quiet : t.guard.quiet
  flag : k.flag t.guard = true
  retries : t.guard.retries = s.guard.retries + 1
  entry : t.entry e.slot = some { e with state := .discharging }

theorem State.retry_spec (found : s.entry e.slot = some e) (n : DwellNext) :
    Retried k s e ph n ((s.noted k .retry e.slot).retried.beginDwell ph n e) := by
  have retried : Confined [.mu, .guard] (s.noted k .retry e.slot) (s.noted k .retry e.slot).retried :=
    (State.confined_updGuard.mono).andThen State.confined_cutPhase
  have watched := State.beginDwell_watched (s := (s.noted k .retry e.slot).retried) (e := e) (p := ph) (n := n)
  have off := watched.off (by rw [State.beginDwell_mu])
  refine ⟨?_, ?_, ?_, off.quiet, ?_, ?_, State.beginDwell_entry (s := (s.noted k .retry e.slot).retried) found⟩
  · rw [State.beginDwell_mu]
    rfl
  · exact ((State.confined_noted.mono).andThen retried).andThen State.confined_beginDwell
  · rw [State.confined_beginDwell.log, retried.log]
  · refine Condition.flag_congr off.flags ?_
    exact (congrArg k.flag State.noted_guard).trans (Condition.flag_setFlag _)
  · rw [off.retries]
    change (s.noted k .retry e.slot).guard.retries + 1 = _
    rw [State.noted_guard, Condition.retries_setFlag]

/-- What a REPORT makes of the part in a discharge dwell, which runs on. -/
structure ReportedInDwell (s : State) (e : Entry) (t : State) (f : Entry) : Prop where
  entry : t.entry e.slot = some f
  mu : ∃ q m, t.mu = { s.mu with dwellNext := .release, checkQueue := q, measQueue := m }
  run : t.run = s.run
  retries : t.guard.retries = s.guard.retries
  quiet : t.guard.quiet
  state : f.state = e.state
  decided : e.outcome ≠ none → f.outcome = e.outcome
  ended : e.outcome = none → f.retestHeld = false ∧ f.outcome = some (e.endedOutcome .error .guard s.clock)

theorem State.report_inDwell (op : s.mu.op = .measurement) (step : s.mu.step = some e.slot) (found : s.entry e.slot = some e) :
    ∃ f, ReportedInDwell s e
      (((s.guardEnds e).updMu fun u => { u with dwellNext := .release }).updGuard Guard.unwatch) f := by
  obtain ⟨decided, ended⟩ := State.guardEnds_entry op step found
  obtain ⟨guard, q, m, mu⟩ := State.unitKept_endStep (s := s) (k := e.slot) (v := .error) (q := .guard) (by rw [op]; nofun)
  have unit := congrArg (fun u : MeasUnit => { u with dwellNext := .release }) mu
  have retries := congrArg Guard.retries guard
  by_cases out : e.outcome = none
  · obtain ⟨a, entry⟩ := ended out
    exact ⟨_, entry, ⟨q, m, unit⟩, State.confined_endStep.run, retries, ⟨rfl, rfl, rfl⟩, rfl, fun h => absurd out h,
      fun _ => ⟨rfl, rfl⟩⟩
  · have same := (congrArg (State.entry · e.slot) (decided out)).trans found
    exact ⟨e, same, ⟨q, m, unit⟩, State.confined_endStep.run, retries, ⟨rfl, rfl, rfl⟩, rfl, fun _ => rfl,
      fun h => absurd h out⟩

/-- The response to a RETRY that is counted, or to a REPORT. -/
theorem State.raise_retry (op : s.mu.op = .measurement) (phase : s.mu.phase = some ph) (hand : s.inHand = some e)
    (mode : k.mode s.setup = .retry) (few : s.guard.retries < 3) (dwells : ph = .dwell ∨ ph = .guardDwell) :
    ∃ n, (ph = .dwell → n = s.mu.dwellNext) ∧ Retried k s e ph n (s.raiseCondition k) := by
  rw [State.raise_measure op phase hand, State.measure_retry (by rw [mode]; exact responseOf_counted few)]
  obtain rfl | rfl := dwells
  · exact ⟨_, fun _ => rfl, State.retry_spec (State.inHand_entry hand).2 _⟩
  · exact ⟨_, nofun, State.retry_spec (State.inHand_entry hand).2 _⟩

theorem responseOf_reports {m : GuardMode} {n : Nat} (h : (m = .retry ∧ 3 ≤ n) ∨ m = .report) :
    ∃ r, responseOf m n = r ∧ (r = .report ∨ r = .spent) := by
  obtain ⟨rfl, many⟩ | rfl := h
  · exact ⟨.spent, responseOf_used (by omega), .inr rfl⟩
  · exact ⟨.report, rfl, .inl rfl⟩

theorem State.raise_reportDwell (op : s.mu.op = .measurement) (phase : s.mu.phase = some .dwell) (hand : s.inHand = some e)
    (mode : (k.mode s.setup = .retry ∧ 3 ≤ s.guard.retries) ∨ k.mode s.setup = .report) :
    ∃ r f, ReportedInDwell (s.noted k r e.slot) e (s.raiseCondition k) f := by
  obtain ⟨r, answer, ends⟩ := responseOf_reports mode
  rw [State.raise_measure op phase hand, State.measure_report answer ends, if_pos rfl]
  obtain ⟨step, found⟩ := State.inHand_entry hand
  exact ⟨r, State.report_inDwell (s := s.noted k r e.slot) op step found⟩

theorem State.raise_report (op : s.mu.op = .measurement) (phase : s.mu.phase = some ph) (hand : s.inHand = some e)
    (stops : ph ≠ .dwell) (calm : e.retestHeld = false) (answer : responseOf (k.mode s.setup) s.guard.retries = r)
    (ends : r = .report ∨ r = .spent) :
    Gentle (s.noted k r e.slot) (s.raiseCondition k) ∧ ∃ f, Reported (s.noted k r e.slot) e (s.raiseCondition k) f := by
  rw [State.raise_measure op phase hand, State.measure_report answer ends, if_neg stops]
  obtain ⟨step, found⟩ := State.inHand_entry hand
  refine ⟨?_, State.report_stops (s := s.noted k r e.slot) op step found calm⟩
  exact (State.gentle_decideStep.andThen (.of_records State.confined_cutPhase.mono (fun _ => id) fun _ => id)).andThen
    State.gentle_endAttempt

theorem State.raise_latch (op : s.mu.op = .measurement) (phase : s.mu.phase = some ph) (hand : s.inHand = some e)
    (mode : k.mode s.setup = .latch) : s.raiseCondition k = (s.noted k .latch e.slot).latch := by
  rw [State.raise_measure op phase hand, State.measure_latch (by rw [mode]; rfl)]

theorem State.raise_ignore (op : s.mu.op = .measurement) (phase : s.mu.phase = some ph) (hand : s.inHand = some e)
    (mode : k.mode s.setup = .ignore) : s.raiseCondition k = if ph.isDwell then s.noted k .ignore e.slot
      else (s.noted k .ignore e.slot).modEntry e.slot fun e =>
        { e with eval := e.eval.map fun v => { v with guardIgnored := true } } := by
  rw [State.raise_measure op phase hand, State.measure_ignore (by rw [mode]; rfl)]
end

end Sys2Proof.Machine

open Sys2Proof Sys2Proof.Machine in
/-- Settles O41: the responses to a condition in a pair check, a measurement and its dwells, and the latch. -/
theorem guardResponses : Obligations.GuardResponses := by
  refine ⟨fun s k measure check => ?_, fun s k p ph l m op phase pair ne force sense runs runs' _ _ force' sense' _ _ => ?_,
    fun s k e ph op phase dwells hand calm => ?_, fun s k nodup phase latches => ?_,
    fun s k e ph op phase noDwell noGuard hand out calm => ?_⟩
  · unfold State.raiseCondition
    split
    · next h _ => exact absurd h check
    · next h _ => exact absurd h measure
    · rfl
  · intro base code u
    have based : base = k.code := by cases k <;> rfl
    have coded : code = (checkResponseOf s.setup.overloadMode).code := by
      change (match s.setup.overloadMode with
        | .ignore => 0
        | .retry => 1
        | .report => 2
        | .latch => 3) = _
      cases s.setup.overloadMode <;> rfl
    have confined : Confined guardBlocks s u := State.confined_raiseCondition
    clear_value base code
    subst based coded
    have cases_ : checkResponseOf s.setup.overloadMode = .ignore ∨ checkResponseOf s.setup.overloadMode = .latch ∨
        checkResponseOf s.setup.overloadMode = .retry ∨ checkResponseOf s.setup.overloadMode = .report := by
      cases s.setup.overloadMode <;> decide
    generalize answer : checkResponseOf s.setup.overloadMode = r at cases_
    have raised : u = (s.noted k r p.slot).answerCheck p r := State.raise_check op phase pair answer
    clear_value u
    have unit : (s.noted k r p.slot).holdsUnit := .inl ⟨op, by change s.mu.pair ≠ none; rw [pair]; nofun⟩
    obtain rfl | rfl | fails := cases_
    · subst raised
      refine ⟨?_, fun room e he => State.noted_log room he, ?_, confined.setup, confined.nets,
        fun _ => State.confined_noted.eq_mix, nofun, fun h => h.elim nofun nofun, nofun⟩
      · exact (congrArg k.flag State.noted_guard).trans (Condition.flag_setFlag _)
      · exact (congrArg Guard.retries State.noted_guard).trans (Condition.retries_setFlag _)
    · subst raised
      obtain ⟨off, sense⟩ := State.latch_unwatched unit
      obtain ⟨halted, idle, opened, source, forgot, tips⟩ := State.latch_facts (r := .latch) (k := k) (n := p.slot)
        (s := s) unit
      have rest (c : Carriage) (state : (s.carr c).state = .check) := (State.latch_ended unit
        (fun measure => absurd (op.symm.trans measure) nofun) c).lifts (by
          change (s.carr c).state ∈ _
          rw [state]
          decide)
      refine ⟨State.noted_flag off, fun room e he => ?_, State.noted_retries off, confined.setup, confined.nets, nofun,
        fun _ => ⟨off.raised.1, off.raised.2, sense, off.source, idle, opened, source, forgot,
          (rest _ force').2 force', (rest _ sense').2 sense', (rest _ force').1.state, (rest _ sense').1.state⟩,
        fun h => h.elim nofun nofun, fun _ => ⟨halted, tips⟩⟩
      exact (congrArg LogWriter.notes State.latch_log).trans (State.noted_log room he)
    · have fail : u = (s.noted k r p.slot).abandonCheck.bindCheck p false := by
        rw [raised]
        obtain rfl | rfl := fails <;> rfl
      have some_ : 1 ≤ r.code ∧ r.code ≠ 0 ∧ r.code ≠ 3 := by
        obtain rfl | rfl := fails <;> decide
      have h : CheckFails (s.noted k r p.slot) p u := by
        rw [fail]
        exact State.abandon_fails op pair ne force sense runs runs'
      obtain ⟨q, n, mu⟩ := h.mu
      refine ⟨State.noted_flag h.guard, fun room e he => ?_, State.noted_retries h.guard, confined.setup, confined.nets,
        fun h => absurd h some_.2.1, fun _ => ⟨h.guard.raised.1, h.guard.raised.2, h.sense, h.guard.source, by rw [mu]; rfl,
          by rw [mu]; rfl, by rw [mu]; rfl, by rw [mu]; rfl, (h.partners _ (.inl rfl)).1, (h.partners _ (.inr rfl)).1,
          (h.partners _ (.inl rfl)).2, (h.partners _ (.inr rfl)).2⟩,
        fun _ => h.rest.run.trans State.confined_noted.run, fun h => absurd h some_.2.2⟩
      rw [h.rest.log]
      exact State.noted_log room he
  · intro mode u
    have moded : mode = k.mode s.setup := by cases k <;> rfl
    clear_value mode
    subst moded
    have noted (r : Response) : (s.noted k r e.slot).guard.retries = s.guard.retries := by
      rw [State.noted_guard, Condition.retries_setFlag]
    have latch := State.raise_latch (k := k) op phase hand
    have guarded (h : ph ≠ .dwell) (mode : (k.mode s.setup = .retry ∧ 3 ≤ s.guard.retries) ∨ k.mode s.setup = .report) :
        ∃ r f, Reported (s.noted k r e.slot) e u f := by
      obtain ⟨r, answer, ends⟩ := responseOf_reports mode
      exact ⟨r, (State.raise_report op phase hand h (calm (dwells.resolve_left h)) answer ends).2⟩
    refine ⟨fun h => ?_, fun other => ?_, fun h few => ?_, fun h => ?_, fun h => ?_⟩
    · have dwell : ph.isDwell = true := by obtain rfl | rfl := dwells <;> rfl
      change s.raiseCondition k = { s with guard := (s.raiseCondition k).guard, log := (s.raiseCondition k).log }
      rw [State.raise_ignore op phase hand h, if_pos dwell]
      exact State.confined_noted.eq_mix
    · change u.guard.quiet
      by_cases lat : k.mode s.setup = .latch
      · change (s.raiseCondition k).guard.quiet
        rw [latch lat]
        exact (State.latch_unwatched (s := s.noted k .latch e.slot) (.inr op)).1.quiet
      · by_cases few : k.mode s.setup = .retry ∧ s.guard.retries < 3
        · obtain ⟨n, -, h⟩ := State.raise_retry op phase hand few.1 few.2 dwells
          exact h.quiet
        · have reports : (k.mode s.setup = .retry ∧ 3 ≤ s.guard.retries) ∨ k.mode s.setup = .report := by
            cases mode : k.mode s.setup with
            | ignore => exact absurd mode other
            | retry => exact .inl ⟨rfl, Nat.not_lt.1 fun h => few ⟨mode, h⟩⟩
            | report => exact .inr rfl
            | latch => exact absurd mode lat
          by_cases h : ph = .dwell
          · obtain ⟨r, f, stop⟩ := State.raise_reportDwell op (h ▸ phase) hand reports
            exact stop.quiet
          · obtain ⟨r, f, stop⟩ := guarded h reports
            exact stop.guard.quiet
    · obtain ⟨n, next, stop⟩ := State.raise_retry op phase hand h few dwells
      exact ⟨by rw [stop.mu], by rw [stop.mu]; exact op, by rw [stop.mu], stop.retries, stop.rest.run, stop.entry,
        fun h => by rw [stop.mu]; exact next h, fun fresh => by rw [stop.mu]; exact MeasUnit.cutMark_fresh phase fresh⟩
    · by_cases dwell : ph = .dwell
      · subst dwell
        obtain ⟨r, f, stop⟩ := State.raise_reportDwell op phase hand h
        obtain ⟨q, m, mu⟩ := stop.mu
        exact ⟨stop.run, stop.retries.trans (noted r), f, stop.entry, stop.decided,
          fun out => ⟨(stop.ended out).1, _, (stop.ended out).2, rfl, rfl, rfl, rfl⟩,
          fun _ => ⟨by rw [mu]; exact op, by rw [mu]; exact phase, by rw [mu], by rw [mu]; rfl, by rw [mu]; rfl, stop.state⟩,
          nofun⟩
      · obtain ⟨r, f, stop⟩ := guarded dwell h
        refine ⟨stop.rest.run.trans State.confined_noted.run, stop.guard.retries.trans (noted r), f, stop.entry, stop.decided,
          fun out => ⟨(stop.ended out).1, _, (stop.ended out).2, rfl, rfl, rfl, rfl⟩, fun h' => absurd h' dwell, fun _ => ?_⟩
        split
        · next h => exact stop.dwells h
        · next h => exact stop.releases (not_not.1 h)
    · obtain ⟨halted, idle, opened, -, -, tips⟩ := State.latch_facts (r := .latch) (k := k) (n := e.slot) (s := s) (.inr op)
      change (s.raiseCondition k).run.state = _ ∧ (s.raiseCondition k).mu.op = _ ∧ (s.raiseCondition k).mu.cls = _ ∧
        ∀ c, ((s.raiseCondition k).carr c).tip = _
      rw [latch h]
      exact ⟨halted, idle, opened, tips⟩
  · obtain ⟨n, unit, pend, raised⟩ : ∃ n, (s.noted k .latch n).holdsUnit ∧
        ((s.noted k .latch n).mu.op = .measurement → ∃ e, (s.noted k .latch n).inHand = some e ∧
          ∀ c, some c ∈ e.assignment → (s.noted k .latch n).pendingOf c = none) ∧
        s.raiseCondition k = (s.noted k .latch n).latch := by
      obtain ⟨ph, phase⟩ := Option.ne_none_iff_exists'.1 phase
      obtain ⟨op, pair, mode⟩ | ⟨op, mode, e, hand, pend⟩ := latches
      · obtain ⟨p, pair'⟩ := Option.ne_none_iff_exists'.1 pair
        exact ⟨p.slot, .inl ⟨op, pair⟩, fun measure => absurd (op.symm.trans measure) nofun,
          State.raise_check op phase pair' (congrArg checkResponseOf mode)⟩
      · have latch : k.mode s.setup = .latch := by
          rw [← mode]
          cases k <;> rfl
        exact ⟨e.slot, .inr op, fun _ => ⟨e, hand, pend⟩, (State.raise_measure op phase hand).trans
          (State.measure_latch (by rw [latch]; rfl))⟩
    intro held u lifts
    have tip (c : Carriage) : (u.carr c).tip = .isolated := by
      change ((s.raiseCondition k).carr c).tip = _
      rw [raised]
      exact State.latch_tip
    have isolated {c : Carriage} {r : CarriageRec} {q : Tip} (h : u.carr c = { r with tip := q }) :
        u.carr c = { r with tip := .isolated } := by
      have same := tip c
      rw [h] at same
      rw [h]
      exact congrArg (fun q => { r with tip := q }) same
    refine ⟨fun f mem other => ?_, fun c => ?_, ?_, fun d => ?_⟩
    · obtain ⟨ends, stays⟩ := State.latch_other (s := s.noted k .latch n) nodup unit mem other
      rw [← raised] at ends stays
      by_cases halts : f.outcome = none ∧ f.state ∈ [.moving, .landing, .measureQueued]
      · obtain ⟨⟨a, entry⟩, left⟩ := ends ((Entry.halts_iff f).2 halts)
        refine ⟨_, entry, rfl, rfl, ?_⟩
        rw [if_pos halts]
        exact ⟨rfl, left, _, rfl, rfl, rfl, rfl, rfl, rfl, rfl⟩
      · obtain ⟨a, entry⟩ := stays (mt (Entry.halts_iff f).1 halts)
        refine ⟨_, entry, rfl, rfl, ?_⟩
        rw [if_neg halts]
        exact ⟨rfl, rfl⟩
    · have ended : Ended c s u := by
        have h := State.latch_ended unit pend c
        rw [← raised] at h
        exact ⟨h.rests, h.waits, h.goes, h.lifts, h.frees⟩
      have up (state : (s.carr c).state ∈ [.check, .ready, .engaged]) : lifts c := by
        obtain ⟨h, -⟩ := ended.lifts state
        exact ⟨h.state, h.followOn, h.request, h.timer⟩
      clear_value u
      cases state : (s.carr c).state with
      | off | homing | idle | fault =>
        have rests := ended.rests (by rw [state]; decide)
        rw [state] at rests
        exact rests
      | travel =>
        have goes (away : (s.carr c).phase ≠ some .claimWait) : u.carr c = { s.carr c with ended := true, tip := .isolated } := by
          obtain ⟨q, h⟩ := ended.goes (.inl ⟨state, away⟩)
          exact isolated (r := { s.carr c with ended := true }) h
        cases phase : (s.carr c).phase with
        | none => exact goes (by rw [phase]; nofun)
        | some q =>
          cases q with
          | claimWait => exact ended.waits state phase
          | moving | halting => exact goes (by rw [phase]; nofun)
      | descend =>
        obtain ⟨q, h⟩ := ended.goes (.inr state)
        exact isolated (r := { s.carr c with ended := true }) h
      | check => exact ⟨up (by rw [state]; decide), (ended.lifts (by rw [state]; decide)).2 state⟩
      | ready | engaged => exact up (by rw [state]; decide)
      | lift =>
        obtain ⟨q, h⟩ := ended.frees state
        exact isolated (r := { s.carr c with followOn := some .free }) h
    · change (s.raiseCondition k).run.runPark = _
      rw [raised, State.latch_run]
    · change (s.raiseCondition k).run.framePark.get d = _
      rw [raised, State.latch_run, State.confined_noted.run]
      cases d <;> rfl
  · intro mode base code u
    have moded : mode = k.mode s.setup := by cases k <;> rfl
    have based : base = k.code := by cases k <;> rfl
    have coded : code = (responseOf (k.mode s.setup) s.guard.retries).code := by
      rw [← moded]
      change (match mode with
        | .ignore => 0
        | .retry => if s.guard.retries < 3 then 1 else 4
        | .report => 2
        | .latch => 3) = _
      cases mode with
      | retry =>
        by_cases few : s.guard.retries < 3
        · rw [responseOf_counted few, if_pos few]
          rfl
        · rw [responseOf_used few, if_neg few]
          rfl
      | _ => rfl
    have confined : Confined guardBlocks s u := State.confined_raiseCondition
    obtain ⟨step, found⟩ := State.inHand_entry hand
    have awake : ph.isDwell ≠ true := by cases ph <;> simp_all [Phase.isDwell]
    clear_value base code mode
    subst based coded moded
    generalize answer : responseOf (k.mode s.setup) s.guard.retries = r
    have noted := State.noted_log (s := s) (k := k) (r := r) (n := e.slot) (e := e)
    have raised := State.raise_measure (k := k) op phase hand
    cases r with
    | ignore =>
      rw [State.measure_ignore answer, if_neg awake] at raised
      have rest : Confined [.disp] (s.noted k .ignore e.slot) u := by
        change Confined _ _ (s.raiseCondition k)
        rw [raised]
        exact State.confined_modEntry
      have entry : u.entry e.slot = some { e with eval := e.eval.map fun v => { v with guardIgnored := true } } :=
        (congrArg (State.entry · e.slot) raised).trans
          (State.entry_changed (s := s.noted k .ignore e.slot) found fun _ => rfl)
      refine ⟨?_, fun room => by rw [rest.log]; exact noted room found, (Gentle.of_disp rest).lanes, confined.setup,
        confined.nets, fun h => absurd rfl h, _, entry, fun _ => ⟨rest.mu, rest.run, rfl⟩, nofun, nofun,
        fun h => h.elim nofun nofun, nofun⟩
      exact (congrArg k.flag (rest.guard.trans State.noted_guard)).trans (Condition.flag_setFlag _)
    | retry =>
      rw [State.measure_retry answer, if_neg noDwell] at raised
      have stop : Retried k s e .guardDwell .release u := by
        change Retried k s e .guardDwell .release (s.raiseCondition k)
        rw [raised]
        exact State.retry_spec found _
      exact ⟨stop.flag, fun room => by rw [stop.log]; exact noted room found,
        fun d n x own => by rw [stop.rest.table]; exact own, confined.setup, confined.nets, fun _ => stop.quiet, _, stop.entry,
        nofun, fun _ => ⟨by rw [stop.mu], by rw [stop.mu], stop.retries, stop.rest.run, rfl⟩, fun h => absurd h (by decide),
        fun h => h.elim nofun nofun, nofun⟩
    | report | spent =>
      obtain ⟨gentle, f, stop⟩ := State.raise_report op phase hand noDwell calm answer (by simp)
      refine ⟨State.noted_flag stop.guard, fun room => (congrArg LogWriter.notes stop.rest.log).trans (noted room found),
        gentle.lanes, confined.setup, confined.nets, fun _ => stop.guard.quiet, f, stop.entry, nofun, nofun,
        fun _ => ⟨_, (stop.ended out).2, rfl, rfl, rfl, rfl⟩,
        fun _ => ⟨stop.rest.run.trans State.confined_noted.run, stop.source, ?_⟩, nofun⟩
      split
      · next h => exact (stop.dwells h).imp_right And.right
      · next h => exact stop.releases (not_not.1 h)
    | latch =>
      rw [State.measure_latch answer] at raised
      have unit : (s.noted k .latch e.slot).holdsUnit := .inr op
      obtain ⟨halted, idle, opened, source, -, tips⟩ := State.latch_facts (r := .latch) (k := k) (n := e.slot) (s := s) unit
      obtain ⟨off, sense⟩ := State.latch_unwatched unit
      obtain ⟨f, entry, outcome⟩ := State.latch_held (s := s.noted k .latch e.slot) op hand out
      have eq : u = (s.noted k .latch e.slot).latch := raised
      clear_value u
      subst eq
      exact ⟨State.noted_flag off, fun room => (congrArg LogWriter.notes State.latch_log).trans (noted room found),
        fun d n x own => State.latch_lanes own, confined.setup, confined.nets, fun _ => off.quiet, f, entry, nofun, nofun,
        fun _ => ⟨_, outcome, rfl, rfl, rfl, rfl⟩, fun h => h.elim nofun nofun,
        fun _ => ⟨halted, idle, opened, source, State.latch_regs, tips, State.latch_pend unit⟩⟩
end

section
/-! PROOFS. ABORT: the work in hand that goes, the window that stays, the frame that is owed its end, and the carriages
(R38, R57, R77, R103, R169, R188, R197). -/

set_option Elab.async false

namespace Sys2Proof.Machine

section
variable {s t : State} {c x : Carriage} {e f : Entry} {n : Nat}

/-! ## The window (AL 17) -/

/-- The window after a change of each entry by itself. -/
def Mapped (g : Entry → Entry) (s t : State) : Prop := t.disp.window = s.disp.window.map g

/-- A change of nothing but the assignment. -/
def Reassigns (g : Entry → Entry) : Prop := ∀ e, g e = { e with assignment := (g e).assignment }

theorem Mapped.andThen {g h : Entry → Entry} {u : State} (a : Mapped g s t) (b : Mapped h t u) : Mapped (h ∘ g) s u := by
  rw [Mapped, b, a, List.map_map]

theorem Reassigns.comp {g h : Entry → Entry} (a : Reassigns g) (b : Reassigns h) : Reassigns (h ∘ g) := fun e => by
  have inner := a e
  have outer := b (g e)
  rw [Function.comp_apply, outer]
  rw [inner]

theorem Reassigns.id_ : Reassigns id := fun _ => rfl

theorem State.toIdle_mapped : ∃ g, Reassigns g ∧ Mapped g s (s.toIdle c) :=
  ⟨fun e => { e with assignment := e.assignment.map fun a => if a = some c then none else a }, fun _ => rfl, rfl⟩

theorem State.abortCarriage_mapped : ∃ g, Reassigns g ∧ Mapped g s (s.abortCarriage c) := by
  have same (t : State) (h : t.disp = s.disp) : ∃ g, Reassigns g ∧ Mapped g s t :=
    ⟨id, .id_, by rw [Mapped, h, List.map_id]⟩
  unfold State.abortCarriage
  dsimp only
  split
  · exact same _ rfl
  · exact same _ rfl
  · exact same _ rfl
  · exact same _ rfl
  · split
    · exact same _ State.confined_sendHalt.disp
    · exact State.toIdle_mapped
    · exact State.toIdle_mapped
    · exact same _ rfl
  · exact same _ State.confined_modCarr.disp
  · exact same _ State.confined_enterLift.disp
  · exact same _ State.confined_enterLift.disp
  · exact same _ State.confined_enterLift.disp
  · exact same _ State.confined_modCarr.disp

/-- The carriages of a list under ABORT. -/
def State.abortAll (l : List Carriage) (s : State) : State := l.foldl (fun s c => s.abortCarriage c) s

theorem State.abortAll_mapped (l : List Carriage) (s : State) : ∃ g, Reassigns g ∧ Mapped g s (s.abortAll l) := by
  induction l generalizing s with
  | nil => exact ⟨id, .id_, by rw [Mapped, List.map_id]; rfl⟩
  | cons c rest ih =>
    obtain ⟨g, hg, first⟩ := State.abortCarriage_mapped (s := s) (c := c)
    obtain ⟨h, hh, last⟩ := ih (s.abortCarriage c)
    exact ⟨h ∘ g, hg.comp hh, first.andThen last⟩

theorem State.confined_abortAll {l : List Carriage} : Confined [.carriages, .linkOut, .disp] s (s.abortAll l) :=
  .foldl (fun _ _ => State.confined_abortCarriage) l s

/-- The entries when the unit gives up: one in measurement that is decided goes to LIFTING. -/
def LiftsHeld (s : State) (g : Entry → Entry) : Prop := ∀ e, g e = { e with state := (g e).state } ∧
  ((g e).state = e.state ∨ ((g e).state = .lifting ∧ s.mu.op = .measurement ∧ s.mu.step = some e.slot))

theorem State.abandonMeasure_mapped (s : State) : ∃ g, LiftsHeld s g ∧ Mapped g s s.abandonMeasure := by
  have same (t : State) (h : t.disp = s.disp) : ∃ g, LiftsHeld s g ∧ Mapped g s t :=
    ⟨id, fun e => ⟨rfl, .inl rfl⟩, by rw [Mapped, h, List.map_id]⟩
  unfold State.abandonMeasure
  split
  · next op =>
    dsimp only
    have freed : (s.cutPhase.muStep fun u => u.released.forget).disp = s.disp :=
      State.confined_muStep.disp.trans State.confined_cutPhase.disp
    split
    · exact same _ freed
    · next e hand =>
      obtain ⟨step, -⟩ := State.inHand_entry hand
      refine ⟨fun f => if f.slot == e.slot then { f with state := if f.outcome.isSome then .lifting else f.state } else f,
        fun f => ?_, ?_⟩
      · dsimp only
        by_cases here : (f.slot == e.slot) = true
        · rw [if_pos here]
          refine ⟨rfl, ?_⟩
          by_cases out : f.outcome.isSome = true
          · exact .inr ⟨if_pos out, op, by rw [step, beq_iff_eq.1 here]⟩
          · exact .inl (if_neg out)
        · rw [if_neg here]
          exact ⟨rfl, .inl rfl⟩
      · rw [Mapped, State.confined_liftEngaged.disp, ← freed]
        rfl
  all_goals exact same _ rfl

theorem State.latchUnits_mapped (s : State) : ∃ g, LiftsHeld s g ∧ Mapped g s s.latchUnits := by
  by_cases check : s.mu.op = .pairCheck ∧ s.mu.pair ≠ none
  · refine ⟨id, fun e => ⟨rfl, .inl rfl⟩, ?_⟩
    rw [State.latchUnits_check check.1 check.2, Mapped, State.confined_abandonCheck.disp, List.map_id]
  · have none_ : s.abandonCheck = s := by
      unfold State.abandonCheck
      split
      · next op pair => exact absurd ⟨op, by rw [pair]; nofun⟩ check
      · rfl
    rw [State.latchUnits, none_]
    exact s.abandonMeasure_mapped

/-- With nothing in hand that it could give up the unit stays. -/
theorem State.latchUnits_idle (h : ¬ s.holdsUnit) : s.latchUnits = s := by
  have none_ : s.abandonCheck = s := by
    unfold State.abandonCheck
    split
    · next op pair => exact absurd (.inl ⟨op, by rw [pair]; nofun⟩) h
    · rfl
  rw [State.latchUnits, none_]
  exact State.abandonMeasure_other fun op => h (.inr op)

theorem State.keptByAbort_iff : s.keptByAbort e = true ↔
    e.state = .done ∨ ∃ b w, s.log.writing = some ⟨.result e.slot, b, w⟩ := by
  rw [State.keptByAbort, Bool.or_eq_true, beq_iff_eq]
  refine or_congr Iff.rfl ?_
  cases s.log.writing with
  | none => simp
  | some w =>
    obtain ⟨k, b, p⟩ := w
    simp only [beq_iff_eq]
    exact ⟨fun h => ⟨b, p, by rw [h]⟩, fun ⟨_, _, h⟩ => congrArg Writing.kind (Option.some.inj h)⟩

/-! ## The log and the frame (R103, R169, R188) -/

/-- An ABORTED FRAME_END is owed. -/
def State.owesAborted (s : State) : Bool :=
  match s.log.writing with
  | some ⟨.frameEnd, _, .bytes⟩ => false
  | some ⟨.frameStart _, _, _⟩ => true
  | some _ | none => s.frame.state != .none

theorem State.abortLog_frame (n : Nat) (s : State) : (s.abortLog n).frame = { s.frame with
    imageBusy := false, abortDiscards := if s.owesAborted then some n else none } := by
  unfold State.abortLog State.owesAborted
  dsimp only
  by_cases busy : s.frame.imageBusy = true
  · rw [if_pos busy]
    rfl
  · rw [if_neg busy, ← Bool.eq_false_iff.2 busy]
    rfl

theorem State.confined_abortLog : Confined [.hostMem, .free, .frame, .log] s (s.abortLog n) := by
  have stopped : Confined [.hostMem, .free, .frame, .log] s (if s.frame.imageBusy then
      (s.writeHostPart s.frame.imageAddr s.nets.image).updFrame fun f => { f with imageBusy := false } else s) :=
    .ite (fun _ => (State.confined_writeHostPart.mono).andThen State.confined_updFrame) fun _ => .refl _ s
  exact (stopped.andThen State.confined_updFrame).andThen State.confined_updLog

theorem State.abortLog_log : (s.abortLog n).log = { s.log with results := [], due := none } := by
  unfold State.abortLog
  dsimp only
  by_cases busy : s.frame.imageBusy = true
  · rw [if_pos busy]
    rfl
  · rw [if_neg busy]
    rfl

/-! ## The carriages (R57) -/

/-- What ABORT makes of a carriage. -/
def Aborted (s t : State) (c : Carriage) : Prop :=
  match (s.carr c).state with
  | .off | .homing | .idle | .fault => (t.carr c).state = (s.carr c).state
  | .travel => match (s.carr c).phase with
    | some .moving => (t.carr c).state = .travel ∧ (t.carr c).phase = some .halting ∧
        (t.carr c).request = some ⟨.halt, true⟩ ∧ (t.carr c).timer = some s.setup.moveMs
    | some .halting => (t.carr c).state = .travel ∧ (t.carr c).phase = some .halting
    | some .claimWait | none => (t.carr c).state = .idle ∧ (t.carr c).service = none
  | .descend => (t.carr c).state = .descend ∧ (t.carr c).ended = true
  | .check | .ready | .engaged => (t.carr c).state = .lift ∧ (t.carr c).followOn = some .free ∧
      (t.carr c).request = some ⟨.lift, false⟩ ∧ (t.carr c).timer = some s.setup.liftMs
  | .lift => (t.carr c).state = .lift ∧ (t.carr c).followOn = some .free

theorem State.carr_abortCarriage_ne (h : x ≠ c) : (s.abortCarriage c).carr x = s.carr x := by
  unfold State.abortCarriage
  dsimp only
  split
  · rfl
  · rfl
  · rfl
  · rfl
  · split
    · exact State.carr_sendHalt_ne h
    · exact State.carr_toIdle_ne h
    · exact State.carr_toIdle_ne h
    · rfl
  · exact State.carr_modCarr_ne _ _ h
  · exact State.carr_enterLift_ne h
  · exact State.carr_enterLift_ne h
  · exact State.carr_enterLift_ne h
  · exact State.carr_modCarr_ne _ _ h

/-! The cases of ABORT to one carriage. -/

theorem State.abortCarriage_rests (h : (s.carr c).state ∈ [.idle, .off, .homing, .fault]) : s.abortCarriage c = s := by
  unfold State.abortCarriage
  simp only [List.mem_cons, List.not_mem_nil, or_false] at h
  obtain h | h | h | h := h <;> simp only [h]

theorem State.abortCarriage_moving (h : (s.carr c).state = .travel) (p : (s.carr c).phase = some .moving) :
    s.abortCarriage c = s.sendHalt c := by
  unfold State.abortCarriage
  simp only [h, p]

theorem State.abortCarriage_halting (h : (s.carr c).state = .travel) (p : (s.carr c).phase = some .halting) :
    s.abortCarriage c = s := by
  unfold State.abortCarriage
  simp only [h, p]

theorem State.abortCarriage_waits (h : (s.carr c).state = .travel) (p : (s.carr c).phase = some .claimWait ∨ (s.carr c).phase = none) :
    s.abortCarriage c = s.toIdle c := by
  unfold State.abortCarriage
  obtain p | p := p <;> simp only [h, p]

theorem State.abortCarriage_descends (h : (s.carr c).state = .descend) :
    s.abortCarriage c = s.modCarr c fun r => { r with ended := true } := by
  unfold State.abortCarriage
  simp only [h]

theorem State.abortCarriage_lands (h : (s.carr c).state ∈ [.check, .ready, .engaged]) :
    s.abortCarriage c = s.enterLift c .free := by
  unfold State.abortCarriage
  simp only [List.mem_cons, List.not_mem_nil, or_false] at h
  obtain h | h | h := h <;> simp only [h]

theorem State.abortCarriage_lifts (h : (s.carr c).state = .lift) :
    s.abortCarriage c = s.modCarr c fun r => { r with followOn := some .free } := by
  unfold State.abortCarriage
  simp only [h]

/-- ABORT to a carriage on its way to rest. -/
theorem State.abortCarriage_aborts (h : Ending c s t) (setup : t.setup = s.setup) : Aborted s (t.abortCarriage c) c := by
  have idles (there : (t.carr c).state = .travel) (p : (t.carr c).phase = some .claimWait ∨ (t.carr c).phase = none) :
      ((t.abortCarriage c).carr c).state = .idle ∧ ((t.abortCarriage c).carr c).service = none := by
    rw [State.abortCarriage_waits there p, State.carr_toIdle]
    exact ⟨rfl, rfl⟩
  have lands (state : (s.carr c).state ∈ [.check, .ready, .engaged]) :
      ((t.abortCarriage c).carr c).state = .lift ∧ ((t.abortCarriage c).carr c).followOn = some .free ∧
      ((t.abortCarriage c).carr c).request = some ⟨.lift, false⟩ ∧
      ((t.abortCarriage c).carr c).timer = some s.setup.liftMs := by
    obtain same | ⟨l, -⟩ := h.lifts state
    · rw [State.abortCarriage_lands (by rw [same]; exact state), State.carr_enterLift, setup]
      exact ⟨rfl, rfl, rfl, rfl⟩
    · rw [State.abortCarriage_lifts l.state, State.carr_modCarr_same]
      exact ⟨l.state, rfl, l.request, l.timer⟩
  unfold Aborted
  cases state : (s.carr c).state with
  | off | homing | idle | fault =>
    have same := (h.rests (by rw [state]; decide)).1
    rw [state] at same
    dsimp only
    rw [State.abortCarriage_rests (by rw [same]; decide), same]
  | travel =>
    have goes (away : (s.carr c).phase ≠ some .claimWait) : ∃ b q, t.carr c = { s.carr c with ended := b, tip := q } :=
      h.goes (.inl ⟨state, away⟩)
    cases phase : (s.carr c).phase with
    | none =>
      obtain ⟨b, q, same⟩ := goes (by rw [phase]; nofun)
      exact idles (by rw [same]; exact state) (.inr (by rw [same]; exact phase))
    | some p =>
      cases p with
      | claimWait =>
        obtain ⟨there, waits⟩ | ⟨rest, free⟩ := h.waits state phase
        · exact idles there (.inl waits)
        · dsimp only
          rw [State.abortCarriage_rests (by rw [rest]; decide)]
          exact ⟨rest, free⟩
      | moving =>
        obtain ⟨b, q, same⟩ := goes (by rw [phase]; nofun)
        dsimp only
        rw [State.abortCarriage_moving (by rw [same]; exact state) (by rw [same]; exact phase), State.carr_sendHalt, same, setup]
        exact ⟨state, rfl, rfl, rfl⟩
      | halting =>
        obtain ⟨b, q, same⟩ := goes (by rw [phase]; nofun)
        dsimp only
        rw [State.abortCarriage_halting (by rw [same]; exact state) (by rw [same]; exact phase), same]
        exact ⟨state, phase⟩
  | descend =>
    obtain ⟨b, q, same⟩ := h.goes (.inr state)
    dsimp only
    rw [State.abortCarriage_descends (by rw [same]; exact state), State.carr_modCarr_same, same]
    exact ⟨state, rfl⟩
  | check => exact lands (by rw [state]; decide)
  | ready => exact lands (by rw [state]; decide)
  | engaged => exact lands (by rw [state]; decide)
  | lift =>
    obtain ⟨g, q, same⟩ := h.frees state
    dsimp only
    rw [State.abortCarriage_lifts (by rw [same]; exact state), State.carr_modCarr_same, same]
    exact ⟨state, rfl⟩

theorem Aborted.same {u : State} (h : Aborted s t c) (carr : u.carr c = t.carr c) : Aborted s u c := by
  unfold Aborted at h ⊢
  rw [carr]
  exact h

/-- ABORT to carriages of a list, each named once. -/
theorem State.abortAll_aborts (l : List Carriage) (nodup : l.Nodup) (h : Ending c s t) (setup : t.setup = s.setup) :
    c ∈ l → Aborted s (t.abortAll l) c := by
  have after (l : List Carriage) (t : State) (h : Aborted s t c) (hc : c ∉ l) : Aborted s (t.abortAll l) c := by
    induction l generalizing t with
    | nil => exact h
    | cons x rest ih =>
      refine ih (t.abortCarriage x) (h.same (State.carr_abortCarriage_ne fun e => hc (e ▸ List.mem_cons_self))) ?_
      exact fun hr => hc (List.mem_cons_of_mem _ hr)
  induction l generalizing t with
  | nil => nofun
  | cons x rest ih =>
    obtain ⟨fresh, nodup⟩ := List.nodup_cons.1 nodup
    intro hc
    by_cases e : c = x
    · subst e
      exact after rest _ (State.abortCarriage_aborts h setup) fresh
    · refine ih nodup (h.same (State.carr_abortCarriage_ne e) fun gone => ?_)
        (State.confined_abortCarriage.setup.trans setup) ((List.mem_cons.1 hc).resolve_left e)
      rw [State.confined_abortCarriage.landing, gone]

/-! ## ABORT in its stages -/

/-- The units, the window, the log and the Fetcher under ABORT. -/
def State.abortWork (s : State) : State :=
  ((((s.setLast .accepted).abortUnits.updDisp fun d =>
      { d with
        window := (d.window.filter (s.setLast .accepted).abortUnits.keptByAbort).map fun e => { e with eval := none }
        refused := [], withdraw := [], reach := false, scan := false }).abortLog
    (s.disp.window.filter fun e => !s.keptByAbort e).length).updFetch Fetcher.abort).setRun .aborting

/-- The state ABORT answers from, before the last carriage settles. -/
def State.abortRetips (s : State) : State := if s.run.state = .halted then s.abortWork.retip else s.abortWork

theorem State.confined_abortRetips : Confined [.carriages] s.abortWork s.abortRetips :=
  .ite (fun _ => State.confined_retip) fun _ => .refl _ _

theorem State.confined_acceptAbort : Confined [.carriages, .linkOut, .disp, .run] s.abortWork s.acceptAbort :=
  (State.confined_abortRetips.mono.andThen State.confined_abortAll).andThen State.confined_updRun

theorem State.confined_abortWork :
    Confined [.disp, .hostMem, .free, .frame, .log, .fetch, .run] (s.setLast .accepted).abortUnits s.abortWork :=
  ((State.confined_updDisp.mono.andThen State.confined_abortLog).andThen State.confined_updFetch).andThen
    State.confined_setRun

theorem State.abortWork_run : s.abortWork.run = { s.run with last := .accepted, state := .aborting } := by
  rw [State.abortWork, State.setRun_run, State.confined_updFetch.run, State.confined_abortLog.run,
    State.confined_updDisp.run, State.confined_abortUnits.run]
  rfl

theorem State.abortWork_fetch : s.abortWork.fetch = { Fetcher.abort s.fetch with waiting := false } := by
  rw [State.abortWork, State.setRun_fetch]
  change { Fetcher.abort (State.abortLog _ _).fetch with waiting := false } = _
  rw [State.confined_abortLog.fetch, State.confined_updDisp.fetch, State.confined_abortUnits.fetch]
  rfl

theorem State.abortWork_log : s.abortWork.log = { s.log with results := [], due := none } := by
  rw [State.abortWork, State.confined_setRun.log, State.confined_updFetch.log, State.abortLog_log,
    State.confined_updDisp.log, State.confined_abortUnits.log]
  rfl

theorem State.owesAborted_congr (frame : t.frame = s.frame) (log : t.log = s.log) : t.owesAborted = s.owesAborted := by
  rw [State.owesAborted, State.owesAborted, frame, log]

theorem State.abortWork_frame : s.abortWork.frame = { s.frame with
    imageBusy := false
    abortDiscards := if s.owesAborted then some (s.disp.window.filter fun e => !s.keptByAbort e).length else none } := by
  have frame {f} : ((s.setLast .accepted).abortUnits.updDisp f).frame = s.frame :=
    State.confined_updDisp.frame.trans State.confined_abortUnits.frame
  have log {f} : ((s.setLast .accepted).abortUnits.updDisp f).log = s.log :=
    State.confined_updDisp.log.trans State.confined_abortUnits.log
  rw [State.abortWork, State.confined_setRun.frame, State.confined_updFetch.frame, State.abortLog_frame, frame,
    State.owesAborted_congr frame log]

/-- The entries that stay, and how they stand then. -/
theorem State.acceptAbort_window : ∃ g h, LiftsHeld s g ∧ Reassigns h ∧ s.acceptAbort.disp.window =
    (((s.disp.window.map g).filter s.keptByAbort).map fun e => { e with eval := none }).map h := by
  obtain ⟨g, lifts, first⟩ := (s.setLast .accepted).latchUnits_mapped
  obtain ⟨h, reassigns, last⟩ := s.abortRetips.abortAll_mapped allCarriages
  refine ⟨g, h, lifts, reassigns, ?_⟩
  have kept : (s.setLast .accepted).abortUnits.keptByAbort = s.keptByAbort := by
    funext e
    rw [State.keptByAbort, State.keptByAbort, State.confined_abortUnits.log]
    rfl
  have work : s.abortWork.disp.window =
      ((s.disp.window.map g).filter s.keptByAbort).map fun e => { e with eval := none } := by
    rw [State.abortWork, State.confined_setRun.disp, State.confined_updFetch.disp, State.confined_abortLog.disp, kept]
    exact congrArg (fun w : List Entry => (w.filter s.keptByAbort).map fun e => { e with eval := none }) first
  change (s.abortRetips.abortAll allCarriages).disp.window = _
  rw [last, State.confined_abortRetips.disp, work]

theorem State.acceptAbort_kept (he : e ∈ s.acceptAbort.disp.window) : e.eval = none ∧ ∃ f ∈ s.disp.window,
    f.slot = e.slot ∧ (f.state = .done ∨ ∃ b w, s.log.writing = some ⟨.result e.slot, b, w⟩) := by
  obtain ⟨g, h, lifts, reassigns, window⟩ := s.acceptAbort_window
  rw [window] at he
  obtain ⟨e', he', rfl⟩ := List.mem_map.1 he
  obtain ⟨k, hk, rfl⟩ := List.mem_map.1 he'
  obtain ⟨mem, kept⟩ := List.mem_filter.1 hk
  obtain ⟨f, hf, rfl⟩ := List.mem_map.1 mem
  obtain ⟨same, state⟩ := lifts f
  have slot : (g f).slot = f.slot := by rw [same]
  rw [reassigns]
  refine ⟨rfl, f, hf, slot.symm, ?_⟩
  obtain done | written := State.keptByAbort_iff.1 kept
  · obtain state | ⟨state, -⟩ := state
    · exact .inl (state ▸ done)
    · exact absurd (state.symm.trans done) (by decide)
  · exact .inr written

theorem State.acceptAbort_keeps (hf : f ∈ s.disp.window)
    (kept : f.state = .done ∨ ∃ b w, s.log.writing = some ⟨.result f.slot, b, w⟩)
    (out : s.mu.op = .measurement → s.mu.step ≠ some f.slot) : ∃ e ∈ s.acceptAbort.disp.window,
    e.slot = f.slot ∧ e.copy = f.copy ∧ e.state = f.state ∧ e.outcome = f.outcome := by
  obtain ⟨g, h, lifts, reassigns, window⟩ := s.acceptAbort_window
  obtain ⟨same, state⟩ := lifts f
  have stays : g f = f := by
    obtain state | ⟨-, op, step⟩ := state
    · rw [same, state]
    · exact absurd step (out op)
  refine ⟨h { f with eval := none }, ?_, ?_⟩
  · rw [window]
    refine List.mem_map_of_mem (List.mem_map.2 ⟨f, List.mem_filter.2 ⟨?_, State.keptByAbort_iff.2 kept⟩, rfl⟩)
    exact List.mem_map.2 ⟨f, hf, stays⟩
  · rw [reassigns]
    exact ⟨rfl, rfl, rfl, rfl⟩

/-- The count that the ABORTED FRAME_END gives. -/
theorem State.abort_discards : (s.disp.window.filter fun e => !s.keptByAbort e).length =
    s.disp.window.countP fun e => !(e.state == .done || s.log.writing.any fun w => w.kind == .result e.slot) := by
  rw [← List.countP_eq_length_filter]
  refine congrArg (fun p : Entry → Bool => s.disp.window.countP p) (funext fun e => ?_)
  rw [State.keptByAbort]
  cases s.log.writing <;> rfl

theorem State.acceptAbort_frame : s.acceptAbort.frame = { s.frame with
    imageBusy := false
    abortDiscards := if s.owesAborted then some (s.disp.window.countP fun e =>
      !(e.state == .done || s.log.writing.any fun w => w.kind == .result e.slot)) else none } := by
  rw [State.confined_acceptAbort.frame, State.abortWork_frame, State.abort_discards]

theorem State.owesAborted_open (h : s.frame.state ≠ .none) (out : ∀ b, s.log.writing ≠ some ⟨.frameEnd, b, .bytes⟩) :
    s.owesAborted = true := by
  unfold State.owesAborted
  split
  · next b w => exact absurd w (out b)
  · rfl
  · exact bne_iff_ne.2 h
  · exact bne_iff_ne.2 h

theorem State.owesAborted_opening {b c w} (h : s.log.writing = some ⟨.frameStart b, c, w⟩) : s.owesAborted = true := by
  rw [State.owesAborted, h]

theorem State.acceptAbort_frameEnd (h : s.frame.state ≠ .none) (owes : s.owesAborted = true) :
    s.acceptAbort.frameEndDue = true := by
  rw [State.frameEndDue_iff, State.acceptAbort_frame, owes]
  refine ⟨h, .inl ?_⟩
  rw [if_pos rfl]
  nofun

theorem State.abortWork_mu :
    s.abortWork.mu = { (s.setLast .accepted).latchUnits.mu with checkQueue := [], measQueue := [] } := by
  rw [State.confined_abortWork.mu]
  rfl

/-- The unit once ABORT has taken what it held: its queues are empty, and a measurement or a check is given up. -/
theorem State.acceptAbort_mu : s.acceptAbort.mu.checkQueue = [] ∧ s.acceptAbort.mu.measQueue = [] ∧ s.acceptAbort.mu.op =
    if s.mu.op = .measurement ∨ (s.mu.op = .pairCheck ∧ s.mu.pair.isSome) then .idle else s.mu.op := by
  rw [State.confined_acceptAbort.mu, State.abortWork_mu]
  refine ⟨rfl, rfl, ?_⟩
  have holds : (s.setLast .accepted).holdsUnit ↔ (s.mu.op = .measurement ∨ (s.mu.op = .pairCheck ∧ s.mu.pair.isSome)) :=
    or_comm.trans (or_congr Iff.rfl (and_congr Iff.rfl Option.isSome_iff_ne_none.symm))
  by_cases held : (s.setLast .accepted).holdsUnit
  · rw [State.latchUnits_mu held, if_pos (holds.1 held)]
    rfl
  · rw [State.latchUnits_idle held, if_neg fun h => held (holds.2 h)]
    rfl

theorem State.acceptAbort_qual : s.acceptAbort.qual = .reset := by
  rw [State.confined_acceptAbort.qual, State.confined_abortWork.qual]
  rfl

/-- No lane changes owner. -/
theorem State.acceptAbort_table (d : Side) :
    (s.acceptAbort.table d).pend = [] ∧ (s.acceptAbort.table d).cells = (s.table d).cells := by
  have claims : s.acceptAbort.claims = ⟨{ s.claims.top with pend := [] }, { s.claims.bottom with pend := [] }⟩ := by
    rw [State.confined_acceptAbort.claims, State.confined_abortWork.claims]
    have units : (s.setLast .accepted).latchUnits.claims = s.claims := State.confined_latchUnits.claims
    rw [← units]
    rfl
  cases d <;> exact ⟨by rw [State.table, claims]; rfl, by rw [State.table, claims]; rfl⟩

theorem State.acceptAbort_aborts : Aborted s s.acceptAbort c := by
  have units : Ending c (s.setLast .accepted) (s.setLast .accepted).latchUnits := by
    by_cases held : (s.setLast .accepted).holdsUnit
    · exact State.latchUnits_ending held
    · rw [State.latchUnits_idle held]
      exact .refl c _
  have gone {u : State} (qual : u.qual = .reset) : u.landing c = none := by
    rw [State.landing, qual]
    exact Six.get_all none c
  have workQual : s.abortWork.qual = .reset := State.confined_abortWork.qual
  have work : Ending c (s.setLast .accepted) s.abortWork := units.same (State.confined_abortWork.carr c) fun _ => gone workQual
  have retips : Ending c (s.setLast .accepted) s.abortRetips := by
    unfold State.abortRetips
    by_cases halted : s.run.state = .halted
    · rw [if_pos halted]
      exact work.retip State.carr_retip fun _ => gone (State.confined_retip.qual.trans workQual)
    · rw [if_neg halted]
      exact work
  have setup : s.abortRetips.setup = s.setup :=
    State.confined_abortRetips.setup.trans (State.confined_abortWork.setup.trans State.confined_abortUnits.setup)
  exact State.abortAll_aborts (s := s.setLast .accepted) allCarriages (by decide) retips setup (mem_allCarriages c)
end

end Sys2Proof.Machine

open Sys2Proof Sys2Proof.Machine in
/-- Settles O19: ABORT goes through the units, the window, the log and the Fetcher and then through the carriages one by
one; each stage changes only its own blocks. -/
theorem abortEndsWork : Obligations.AbortEndsWork := by
  intro s state
  have answers : exec .abort s = .next s.acceptAbort.finish := by
    change execAbort s = _
    simp only [List.mem_cons, List.not_mem_nil, or_false] at state
    unfold execAbort
    obtain h | h | h | h := state <;> simp only [h]
  obtain ⟨checkQueue, measQueue, op⟩ := s.acceptAbort_mu
  have log : s.acceptAbort.log = { s.log with results := [], due := none } :=
    State.confined_acceptAbort.log.trans State.abortWork_log
  have fetch : s.acceptAbort.fetch = { Fetcher.abort s.fetch with waiting := false } :=
    State.confined_acceptAbort.fetch.trans State.abortWork_fetch
  have run : s.acceptAbort.run =
      { s.run with last := .accepted, state := .aborting, framePark := .both .none, runPark := .both .due } := by
    change { (s.abortRetips.abortAll allCarriages).run with framePark := .both .none, runPark := .both .due } = _
    rw [State.confined_abortAll.run, State.confined_abortRetips.run, State.abortWork_run]
  refine ⟨s.acceptAbort, answers, ?_, fun e he => (State.acceptAbort_kept he).2, fun f => State.acceptAbort_keeps,
    fun e he => (State.acceptAbort_kept he).1, ⟨?_, ?_, ?_⟩, ⟨checkQueue, measQueue, ?_, fun c => ?_⟩, op,
    State.acceptAbort_table, ?_, ?_, ?_, ?_, ?_, ?_, fun c => State.acceptAbort_aborts⟩
  · rw [run]
    exact ⟨rfl, rfl, rfl, rfl, rfl⟩
  · intro ⟨b, c, w, opening⟩
    rw [State.acceptAbort_frame, State.owesAborted_opening opening]
    rfl
  · intro opened out
    have owes := State.owesAborted_open opened out
    refine ⟨?_, State.acceptAbort_frameEnd opened owes⟩
    rw [State.acceptAbort_frame, owes]
    rfl
  · rw [State.acceptAbort_frame]
  · rw [State.acceptAbort_qual]
    rfl
  · rw [State.landing, State.acceptAbort_qual]
    exact Six.get_all none c
  · rw [log]
    exact ⟨rfl, rfl, rfl, rfl⟩
  · rw [fetch]
    exact ⟨rfl, rfl, rfl⟩
  · exact State.confined_acceptAbort.setup.trans (State.confined_abortWork.setup.trans State.confined_abortUnits.setup)
  · exact State.confined_acceptAbort.pins.trans (State.confined_abortWork.pins.trans State.confined_abortUnits.pins)
  · exact State.confined_acceptAbort.nets.trans (State.confined_abortWork.nets.trans State.confined_abortUnits.nets)
  · exact State.confined_acceptAbort.regs.trans (State.confined_abortWork.regs.trans State.confined_abortUnits.regs)
end

section
/-! PROOFS. TOUCHED: the landing record that it opens, and the pair check that the two partners' records ask for
(R53, R66 to R68). -/

set_option Elab.async false

namespace Sys2Proof.Machine

section
variable {s : State} {c d x : Carriage} {e : Entry} {p : Point} {l m : Landing} {n : Nat}

/-! ## What the look at the partner changes (R68) -/

theorem State.considerPair_alone (h : s.landing c = some l) (none_ : ∀ d, l.partner = some d → s.landing d = none) :
    s.considerPair c = s := by
  unfold State.considerPair
  simp only [h]
  cases partner : l.partner with
  | none => rfl
  | some d => simp only [none_ d partner]

/-- The pair of a record and its partner, FORCE role first. -/
def Landing.pairWith (l : Landing) (c d : Carriage) : Pair :=
  if l.role.isForce then ⟨l.slot, c, d⟩ else ⟨l.slot, d, c⟩

/-- A wait for a check that neither needs ends, but for FORCE. -/
def Landing.stopWaiting (l : Landing) : Landing :=
  { l with elec := if l.elec = .waitingPartner ∧ l.method ≠ .force then .notUsed else l.elec }

/-- The state with a pair at the tail of the owed list, both its records OWED. -/
def State.oweCheck (p : Pair) (s : State) : State := (s.setElec p .owed).updQual fun q => { q with owed := q.owed ++ [p] }

theorem State.considerPair_eq (h : s.landing c = some l) (partner : l.partner = some d) (h' : s.landing d = some m) :
    s.considerPair c =
      if !l.sameAttempt m || l.underWay || m.underWay then s
      else if l.needs || m.needs then (s.oweCheck (l.pairWith c d)).offerOwed 2
      else (s.modLanding c Landing.stopWaiting).modLanding d Landing.stopWaiting := by
  unfold State.considerPair
  simp only [h, partner, h']
  rfl

/-- A pair check asked for: the owed list, the check queue and the electrical progress of every record. -/
structure Requested (p : Pair) (s t : State) : Prop where
  owed : t.qual.owed = (s.qual.owed ++ [p]).drop (2 - s.mu.checkQueue.length)
  queue : t.mu.checkQueue = s.mu.checkQueue ++ (s.qual.owed ++ [p]).take (2 - s.mu.checkQueue.length)
  landing : ∀ x, t.landing x = (s.landing x).map fun k => { k with
    elec := if pairsName ((s.qual.owed ++ [p]).take (2 - s.mu.checkQueue.length)) x then .queued
      else if p.force = x ∨ p.sense = x then .owed else k.elec }

theorem State.oweCheck_requests (p : Pair) (s : State) : Requested p s ((s.oweCheck p).offerOwed 2) := by
  have offered := (s.oweCheck p).offerOwed_offered 2
  have owed : (s.oweCheck p).qual.owed = s.qual.owed ++ [p] := rfl
  have mu : (s.oweCheck p).mu = s.mu := rfl
  have room : min 2 (2 - s.mu.checkQueue.length) = 2 - s.mu.checkQueue.length := by omega
  have landing (x : Carriage) : (s.oweCheck p).landing x =
      if p.force = x ∨ p.sense = x then (s.landing x).map fun l => { l with elec := .owed } else s.landing x :=
    State.landing_setElec
  refine ⟨?_, ?_, fun x => ?_⟩
  · rw [offered.owed, owed, mu, room]
  · rw [offered.mu, owed, mu, room]
  · rw [offered.landing, owed, mu, room, landing]
    by_cases named : p.force = x ∨ p.sense = x
    · rw [if_pos named]
      cases s.landing x with
      | none => rfl
      | some k =>
        simp only [if_pos named, Option.map_some]
        split <;> rfl
    · rw [if_neg named]
      refine congrArg (fun f => (s.landing x).map f) (funext fun k => ?_)
      simp only [if_neg named]
      split <;> rfl

/-- A record with another electrical progress. -/
def Landing.progressed (l : Landing) (q : ElecProgress) : Landing := { l with elec := q }

/-- The record looked at keeps all but its electrical progress, and no check of it passes or fails. -/
theorem State.considerPair_own (h : s.landing c = some l) (undecided : l.elec ∉ [.passed, .failed]) :
    ∃ q, q ∉ [ElecProgress.passed, .failed] ∧ (s.considerPair c).landing c = some (l.progressed q) := by
  have stays (t : State) (h : t = s) : ∃ q, q ∉ [ElecProgress.passed, .failed] ∧ t.landing c = some (l.progressed q) :=
    ⟨l.elec, undecided, h ▸ ‹_›⟩
  have drops (l : Landing) (undecided : l.elec ∉ [.passed, .failed]) :
      ∃ q, q ∉ [ElecProgress.passed, .failed] ∧ l.stopWaiting = l.progressed q := by
    refine ⟨_, ?_, rfl⟩
    split
    · decide
    · exact undecided
  cases partner : l.partner with
  | none => exact stays _ (State.considerPair_alone h fun d e => absurd (partner.symm.trans e) nofun)
  | some d =>
    cases other : s.landing d with
    | none => exact stays _ (State.considerPair_alone h fun x e => (Option.some.inj (partner.symm.trans e)) ▸ other)
    | some m =>
      rw [State.considerPair_eq h partner other]
      by_cases busy : (!l.sameAttempt m || l.underWay || m.underWay) = true
      · rw [if_pos busy]
        exact stays _ rfl
      · rw [if_neg busy]
        by_cases needs : (l.needs || m.needs) = true
        · rw [if_pos needs, (State.oweCheck_requests _ s).landing, h]
          refine ⟨_, ?_, rfl⟩
          split
          · decide
          · split
            · decide
            · exact undecided
        · rw [if_neg needs, State.landing_modLanding_at, State.landing_modLanding_at, if_pos rfl, h]
          obtain ⟨q, hq, once⟩ := drops l undecided
          by_cases self : c = d
          · rw [if_pos self]
            obtain ⟨r, hr, twice⟩ := drops l.stopWaiting (by rw [once]; exact hq)
            exact ⟨r, hr, congrArg some (twice.trans (by rw [once]; rfl))⟩
          · rw [if_neg self]
            exact ⟨q, hq, congrArg some once⟩

/-! ## The record opened (R66, R67) -/

/-- Nothing is decided while force is neither qualified nor unqualified and no check has passed or failed (R70). -/
theorem Landing.verdict_undecided {w : Bool} (qualified : l.force ≠ .qualified) (unqualified : l.force ≠ .unqualified)
    (elec : l.elec ∉ [.passed, .failed]) : l.verdict w = none := by
  simp only [List.mem_cons, List.not_mem_nil, or_false, not_or] at elec
  unfold Landing.verdict
  cases l.method <;> simp [qualified, unqualified, elec]

theorem State.decideLanding_waits (h : s.landing c = some l) (waits : l.verdict (s.partnerNeeds l) = none) :
    s.decideLanding (n + 1) c = s := by
  unfold State.decideLanding
  simp only [h, waits]

/-- A look at the partner that leaves the landing undecided is all that a landing's progress is. -/
theorem State.progressLanding_waits (h : s.landing c = some l) (qualified : l.force ≠ .qualified)
    (unqualified : l.force ≠ .unqualified) (elec : l.elec ∉ [.passed, .failed]) :
    s.progressLanding c = s.considerPair c := by
  obtain ⟨q, hq, own⟩ := State.considerPair_own h elec
  exact State.decideLanding_waits own (Landing.verdict_undecided qualified unqualified hq)

theorem State.newLanding_force : (s.newLanding e p.role c).force ≠ .qualified ∧
    (s.newLanding e p.role c).force ≠ .unqualified := by
  unfold State.newLanding
  dsimp only
  split <;> exact ⟨nofun, nofun⟩

theorem State.newLanding_elec : (s.newLanding e p.role c).elec =
    if (s.newLanding e p.role c).method = .force then .notUsed else .waitingPartner := rfl

theorem State.newLanding_undecided : (s.newLanding e p.role c).elec ∉ [.passed, .failed] := by
  rw [State.newLanding_elec]
  split <;> decide

theorem State.newLanding_method : (s.newLanding e p.role c).method =
    if ((partnerRole p.role).bind e.carriageOf).isSome then (s.cset c).method else .force := by
  change (methodInEffect _ _).1 = _
  unfold methodInEffect
  split
  · rfl
  · split <;> rfl

theorem State.newLanding_fallback : (s.newLanding e p.role c).fallback =
    (((partnerRole p.role).bind e.carriageOf).isNone &&
      ((s.cset c).method == .electrical || (s.cset c).method == .forceAndElectrical)) := by
  change (methodInEffect _ _).2 = _
  unfold methodInEffect
  cases (partnerRole p.role).bind e.carriageOf with
  | some d => rfl
  | none => cases (s.cset c).method <;> rfl

/-- The state with the record opened, before the look at the partner. -/
def State.recorded (e : Entry) (p : Point) (c : Carriage) (s : State) : State :=
  ((s.setCarr c .check).setLanding c (some (s.newLanding e p.role c))).modEntry e.slot fun f =>
    { f with fallback := f.fallback || (s.newLanding e p.role c).fallback }

theorem State.recorded_landing : (s.recorded e p c).landing x =
    if x = c then some (s.newLanding e p.role c) else s.landing x := State.landing_setLanding ..

theorem State.confined_recorded : Confined [.disp, .qual] (s.setCarr c .check) (s.recorded e p c) :=
  State.confined_setLanding.mono.andThen State.confined_modEntry

theorem State.openLanding_eq (served : s.servedBy c = some e) (point : ((e.pointOf c).bind fun i => e.copy.points[i]?) = some p) :
    s.openLanding c = (s.recorded e p c).considerPair c := by
  have run : s.openLanding c = (s.recorded e p c).progressLanding c := by
    have served' : (s.setCarr c .check).servedBy c = some e := served
    unfold State.openLanding
    simp only [served', point]
    rfl
  rw [run]
  exact State.progressLanding_waits (State.recorded_landing.trans (if_pos rfl)) State.newLanding_force.1
    State.newLanding_force.2 State.newLanding_undecided

/-- The look opens CHECK and changes nothing of the carriages and claims beside. -/
theorem State.openLanding_opens : Confined [.disp, .qual, .mu] (s.setCarr c .check) (s.openLanding c) := by
  cases served : s.servedBy c with
  | none =>
    have served' : (s.setCarr c .check).servedBy c = none := served
    unfold State.openLanding
    simp only [served']
    exact .refl _ _
  | some e =>
    cases point : (e.pointOf c).bind fun i => e.copy.points[i]? with
    | none =>
      have served' : (s.setCarr c .check).servedBy c = some e := served
      unfold State.openLanding
      simp only [served', point]
      exact .refl _ _
    | some p =>
      rw [State.openLanding_eq served point]
      exact State.confined_recorded.mono.andThen State.confined_considerPair

/-! ## TOUCHED -/

/-- The carriage with its answer taken and its probe down. -/
def State.touchDown (c : Carriage) (s : State) : State := (s.settle c).modCarr c fun r => { r with probeUp := false }

theorem State.confined_touchDown : Confined [.carriages] s (s.touchDown c) :=
  State.confined_settle.andThen State.confined_modCarr

theorem State.carr_touchDown : (s.touchDown c).carr c =
    { (s.carr c).stopTimer s.clock with request := none, probeUp := false } := by
  rw [State.touchDown, State.carr_modCarr_same, State.carr_settle]

theorem State.carr_touchDown_ne (h : x ≠ c) : (s.touchDown c).carr x = s.carr x := by
  rw [State.touchDown, State.carr_modCarr_ne _ _ h, State.carr_settle_ne h]

theorem execTouched_lands {depth : Nat} (state : (s.carr c).state = .descend) (awaits : (s.carr c).awaits .descend = true)
    (within : depth ≤ s.setup.zLimit) : execTouched c depth s =
      .next (if (s.carr c).ended then (s.touchDown c).enterLift c .free else (s.touchDown c).openLanding c).finish := by
  unfold execTouched
  dsimp only
  rw [if_pos ⟨state, awaits⟩]
  refine (if_neg (Nat.not_lt.2 within)).trans ?_
  by_cases ended : (s.carr c).ended = true
  · rw [if_pos ended, if_pos ended]
    rfl
  · rw [if_neg ended, if_neg ended]
    rfl

/-- An ended carriage lifts. -/
structure TouchLifts (c : Carriage) (s u : State) : Prop where
  state : (u.carr c).state = .lift
  followOn : (u.carr c).followOn = some .free
  request : (u.carr c).request = some ⟨.lift, false⟩
  landing : u.landing c = s.landing c

theorem State.touch_lifts : TouchLifts c s ((s.touchDown c).enterLift c .free) := by
  have landing : ((s.touchDown c).enterLift c .free).landing c = s.landing c :=
    (State.confined_enterLift.landing c).trans (State.confined_touchDown.landing c)
  refine ⟨?_, ?_, ?_, landing⟩
  all_goals rw [State.carr_enterLift]

/-- What TOUCHED leaves alone, whether the carriage lifts or a record is opened. -/
structure TouchKeeps (c : Carriage) (s u : State) : Prop where
  claims : u.claims = s.claims
  setup : u.setup = s.setup
  log : u.log = s.log
  probe : (u.carr c).probeUp = false
  others : ∀ x, x ≠ c → u.carr x = s.carr x

theorem State.touch_lifts_keeps : TouchKeeps c s ((s.touchDown c).enterLift c .free) where
  claims := State.confined_enterLift.claims.trans State.confined_touchDown.claims
  setup := State.confined_enterLift.setup.trans State.confined_touchDown.setup
  log := State.confined_enterLift.log.trans State.confined_touchDown.log
  probe := by rw [State.carr_enterLift]
  others x h := by rw [State.carr_enterLift_ne h, State.carr_touchDown_ne h]

theorem State.touch_opens_keeps : TouchKeeps c s ((s.touchDown c).openLanding c) where
  claims := State.openLanding_opens.claims.trans (State.confined_setCarr.claims.trans State.confined_touchDown.claims)
  setup := State.openLanding_opens.setup.trans (State.confined_setCarr.setup.trans State.confined_touchDown.setup)
  log := State.openLanding_opens.log.trans (State.confined_setCarr.log.trans State.confined_touchDown.log)
  probe := by rw [State.openLanding_opens.carr, State.carr_setCarr, State.carr_touchDown]
  others x h := by rw [State.openLanding_opens.carr, State.carr_setCarr_ne h, State.carr_touchDown_ne h]

theorem State.touch_keeps : TouchKeeps c s
    (if (s.carr c).ended then (s.touchDown c).enterLift c .free else (s.touchDown c).openLanding c) := by
  by_cases ended : (s.carr c).ended = true
  · rw [if_pos ended]
    exact State.touch_lifts_keeps
  · rw [if_neg ended]
    exact State.touch_opens_keeps

theorem State.touch_check : (((s.touchDown c).openLanding c).carr c).state = .check ∧
    (((s.touchDown c).openLanding c).carr c).request = none ∧ (((s.touchDown c).openLanding c).carr c).timer = none := by
  rw [State.openLanding_opens.carr, State.carr_setCarr, State.carr_touchDown]
  exact ⟨rfl, rfl, rfl⟩

/-! ## The record and its pair -/

/-- The point served, found by the record opened. -/
def Entry.serves (e : Entry) (c : Carriage) (n : Nat) (p : Point) : Prop :=
  e.pointOf c = some n ∧ e.copy.points[n]? = some p

theorem Entry.serves.point (h : e.serves c n p) : ((e.pointOf c).bind fun i => e.copy.points[i]?) = some p := by
  rw [h.1]
  exact h.2

theorem State.touch_opens (served : s.servedBy c = some e) (point : e.serves c n p) :
    (s.touchDown c).openLanding c = ((s.touchDown c).recorded e p c).considerPair c :=
  State.openLanding_eq served point.point

/-- The record that TOUCHED opens is the new one, its electrical progress aside. -/
theorem State.touch_record (served : s.servedBy c = some e) (point : e.serves c n p) :
    ∃ q, ((s.touchDown c).openLanding c).landing c = some ((s.newLanding e p.role c).progressed q) := by
  rw [State.touch_opens served point]
  obtain ⟨q, -, own⟩ := State.considerPair_own (s := (s.touchDown c).recorded e p c)
    (State.recorded_landing.trans (if_pos rfl)) State.newLanding_undecided
  exact ⟨q, own⟩

/-- Until the partner is down nothing is asked for. -/
theorem State.touch_alone (served : s.servedBy c = some e) (point : e.serves c n p)
    (alone : ∀ d, (partnerRole p.role).bind e.carriageOf = some d → d ≠ c ∧ s.landing d = none) :
    ((s.touchDown c).openLanding c).landing c = some (s.newLanding e p.role c) ∧
    ((s.touchDown c).openLanding c).qual.owed = s.qual.owed ∧
    ((s.touchDown c).openLanding c).mu.checkQueue = s.mu.checkQueue := by
  have own : ((s.touchDown c).recorded e p c).landing c = some (s.newLanding e p.role c) :=
    State.recorded_landing.trans (if_pos rfl)
  rw [State.touch_opens served point, State.considerPair_alone own fun d partner => ?_]
  · exact ⟨own, rfl, rfl⟩
  · obtain ⟨ne, down⟩ := alone d partner
    exact State.recorded_landing.trans ((if_neg ne).trans down)

/-- A record fresh from TOUCHED, with a partner, needs the check but for FORCE. -/
theorem State.newLanding_needs (partner : (partnerRole p.role).bind e.carriageOf = some d) :
    (s.newLanding e p.role c).needs = true ↔ (s.cset c).method ≠ .force := by
  have method : (s.newLanding e p.role c).method = (s.cset c).method := by
    rw [State.newLanding_method, partner]
    rfl
  obtain ⟨qualified, -⟩ := State.newLanding_force (s := s) (c := c) (e := e) (p := p)
  rw [Landing.needs, State.newLanding_elec, method]
  cases (s.cset c).method <;> simp [qualified]

theorem Landing.needs_iff : l.needs = true ↔ l.elec = .waitingPartner ∧ (l.method = .electrical ∨
    l.method = .forceAndElectrical ∨ (l.method = .forceOrElectrical ∧ l.force ≠ .qualified)) := by
  simp only [Landing.needs, Bool.and_eq_true, Bool.or_eq_true, beq_iff_eq, bne_iff_ne, or_assoc]

theorem Landing.underWay_iff : l.underWay = true ↔ l.elec ∈ [.owed, .queued, .running] := by
  simp only [Landing.underWay, Bool.or_eq_true, beq_iff_eq, List.mem_cons, List.not_mem_nil, or_false, or_assoc]

theorem Role.isForce_iff {r : Role} : r.isForce = true ↔ r = .forceHi ∨ r = .forceLo := by
  cases r <;> decide

/-- The partners' pair, FORCE role first. -/
def touchPair (e : Entry) (p : Point) (c d : Carriage) : Pair :=
  if p.role = .forceHi ∨ p.role = .forceLo then ⟨e.slot, c, d⟩ else ⟨e.slot, d, c⟩

theorem State.newLanding_pairWith : (s.newLanding e p.role c).pairWith c d = touchPair e p c d := by
  change (if p.role.isForce = true then (⟨e.slot, c, d⟩ : Pair) else ⟨e.slot, d, c⟩) = _
  rw [touchPair]
  simp only [Role.isForce_iff]

theorem touchPair_names : (touchPair e p c d).force = x ∨ (touchPair e p c d).sense = x ↔ c = x ∨ d = x := by
  unfold touchPair
  split
  · rfl
  · exact or_comm

/-- The partner is down in the same attempt, and no check of it is under way. -/
structure PartnerDown (s : State) (c d : Carriage) (e : Entry) (p : Point) (m : Landing) : Prop where
  partner : (partnerRole p.role).bind e.carriageOf = some d
  other : d ≠ c
  down : s.landing d = some m
  slot : m.slot = e.slot
  attempt : m.attempt = e.attempts + 1
  free : m.elec ∉ [.owed, .queued, .running]

/-- Beside the partner's open record the pair check is asked for when one of the two needs it. -/
theorem PartnerDown.considers (h : PartnerDown s c d e p m) : (s.recorded e p c).considerPair c =
    if (s.newLanding e p.role c).needs || m.needs then ((s.recorded e p c).oweCheck (touchPair e p c d)).offerOwed 2
    else ((s.recorded e p c).modLanding c Landing.stopWaiting).modLanding d Landing.stopWaiting := by
  have same : (s.newLanding e p.role c).sameAttempt m = true := by
    rw [Landing.sameAttempt, h.slot, h.attempt, Bool.and_eq_true]
    exact ⟨beq_self_eq_true _, beq_self_eq_true _⟩
  have fresh : (s.newLanding e p.role c).underWay = false := by
    rw [Landing.underWay, State.newLanding_elec]
    split <;> rfl
  have free : m.underWay = false := Bool.eq_false_iff.2 fun w => h.free (Landing.underWay_iff.1 w)
  rw [State.considerPair_eq (State.recorded_landing.trans (if_pos rfl)) h.partner
    (State.recorded_landing.trans ((if_neg h.other).trans h.down)), same, fresh, free, State.newLanding_pairWith]
  rfl

/-- The progress after the offers. -/
def offeredProgress (taken : List Pair) (x : Carriage) (q : ElecProgress) : ElecProgress :=
  if pairsName taken x then .queued else q

/-- A pair check asked for beside the partner's record. -/
theorem PartnerDown.requests (h : PartnerDown s c d e p m) (needs : (s.newLanding e p.role c).needs = true ∨ m.needs = true) :
    let owed := s.qual.owed ++ [touchPair e p c d]
    let room := 2 - s.mu.checkQueue.length
    let t := (s.recorded e p c).considerPair c
    t.qual.owed = owed.drop room ∧ t.mu.checkQueue = s.mu.checkQueue ++ owed.take room ∧
    t.landing c = some ((s.newLanding e p.role c).progressed (offeredProgress (owed.take room) c .owed)) ∧
    t.landing d = some (m.progressed (offeredProgress (owed.take room) d .owed)) ∧
    ∀ x, x ≠ c → x ≠ d → t.landing x =
      (s.landing x).map fun k => k.progressed (offeredProgress (owed.take room) x k.elec) := by
  have request := (s.recorded e p c).oweCheck_requests (touchPair e p c d)
  rw [h.considers, if_pos (by rw [Bool.or_eq_true]; exact needs)]
  refine ⟨request.owed, request.queue, ?_, ?_, fun x hc hd => ?_⟩
  · rw [request.landing, State.recorded_landing, if_pos rfl, Option.map_some, if_pos (touchPair_names.2 (.inl rfl))]
    rfl
  · rw [request.landing, State.recorded_landing, if_neg h.other, h.down, Option.map_some,
      if_pos (touchPair_names.2 (.inr rfl))]
    rfl
  · rw [request.landing, State.recorded_landing, if_neg hc]
    refine congrArg (fun f => (s.landing x).map f) (funext fun k => ?_)
    rw [if_neg fun named => (touchPair_names.1 named).elim (fun e => hc e.symm) fun e => hd e.symm]
    rfl

/-- No pair check is needed beside the partner's record: the waits for one end. -/
theorem PartnerDown.rests (h : PartnerDown s c d e p m)
    (needless : ¬ ((s.newLanding e p.role c).needs = true ∨ m.needs = true)) :
    let t := (s.recorded e p c).considerPair c
    t.qual.owed = s.qual.owed ∧ t.mu.checkQueue = s.mu.checkQueue ∧
    t.landing c = some (s.newLanding e p.role c).stopWaiting ∧ t.landing d = some m.stopWaiting ∧
    ∀ x, x ≠ c → x ≠ d → t.landing x = s.landing x := by
  rw [h.considers, if_neg (by rw [Bool.or_eq_true]; exact needless)]
  refine ⟨rfl, rfl, ?_, ?_, fun x hc hd => ?_⟩
  · rw [State.landing_modLanding_at, if_neg h.other.symm, State.landing_modLanding_at, if_pos rfl,
      State.recorded_landing, if_pos rfl]
    rfl
  · rw [State.landing_modLanding_at, if_pos rfl, State.landing_modLanding_at, if_neg h.other,
      State.recorded_landing, if_neg h.other, h.down]
    rfl
  · rw [State.landing_modLanding_at, if_neg hd, State.landing_modLanding_at, if_neg hc, State.recorded_landing, if_neg hc]

theorem State.newLanding_stops : (s.newLanding e p.role c).stopWaiting.elec = .notUsed := by
  change (if _ ∧ _ then ElecProgress.notUsed else _) = _
  rw [State.newLanding_elec]
  by_cases force : (s.newLanding e p.role c).method = .force <;> simp [force]
end
end Sys2Proof.Machine

open Sys2Proof Sys2Proof.Machine in
/-- Settles O27: the new record decides nothing by itself, so that TOUCHED is CHECK, the record, and the look at the
partner, which asks for the pair check or ends the waits for it. -/
theorem touchedOpensLanding : Obligations.TouchedOpensLanding := by
  refine ⟨fun s c depth state awaits within => ?_, fun s c d depth e n p m state awaits within goes served pointed
    point partner other down slot attempt free => ?_⟩
  · obtain ⟨claims, setup, log, probe, others⟩ := State.touch_keeps (s := s) (c := c)
    refine ⟨_, execTouched_lands state awaits within, claims, setup, log, probe, others, fun ended => ?_,
      fun goes e n p served pointed point => ?_⟩
    · rw [if_pos ended]
      obtain ⟨lift, free, request, landing⟩ := State.touch_lifts (s := s) (c := c)
      exact ⟨lift, free, request, landing⟩
    · rw [if_neg (by rw [goes]; nofun)]
      have serves : e.serves c n p := ⟨pointed, point⟩
      obtain ⟨check, request, timer⟩ := State.touch_check (s := s) (c := c)
      obtain ⟨q, record⟩ := State.touch_record served serves
      refine ⟨check, request, timer, _, record, rfl, rfl, rfl, rfl, State.newLanding_method, State.newLanding_fallback,
        rfl, fun alone => ?_⟩
      obtain ⟨own, owed, queue⟩ := State.touch_alone served serves alone
      have same := Option.some.inj (record.symm.trans own)
      rw [same]
      exact ⟨State.newLanding_elec, owed, queue⟩
  · intro needed pair owed room progress
    have touched : PartnerDown (s.touchDown c) c d e p m := ⟨partner, other, down, slot, attempt, free⟩
    have opens := State.touch_opens served ⟨pointed, point⟩
    have needs : needed ↔ ((s.touchDown c).newLanding e p.role c).needs = true ∨ m.needs = true :=
      or_congr (State.newLanding_needs (s := s.touchDown c) partner).symm Landing.needs_iff.symm
    have answers : exec (.touched c depth) s = .next ((s.touchDown c).openLanding c).finish := by
      rw [show exec (.touched c depth) s = execTouched c depth s from rfl, execTouched_lands state awaits within, goes]
      rfl
    obtain ⟨q, record⟩ := State.touch_record served ⟨pointed, point⟩
    refine ⟨_, _, answers, record, fun need => ?_, fun needless => ?_⟩
    · obtain ⟨owes, queues, own, partners, rest⟩ := touched.requests (needs.1 need)
      rw [opens] at record ⊢
      rw [Option.some.inj (record.symm.trans own)]
      exact ⟨owes, queues, rfl, partners, rest⟩
    · obtain ⟨owes, queues, own, partners, rest⟩ := touched.rests fun need => needless (needs.2 need)
      rw [opens] at record ⊢
      rw [Option.some.inj (record.symm.trans own)]
      exact ⟨owes, queues, State.newLanding_stops, partners, rest⟩
end

section
/-! PROOFS. START's order check and claim build (R36): what the spans of the answers, the silent carriages and the gaps of
a side have to be, and which lanes the build gives to whom. -/

set_option Elab.async false

namespace Sys2Proof.Machine

section
variable {s : State} {d : Side} {c x y : Carriage} {i j : Interval} {n : Nat}

/-! ## Answers and silence -/

/-- An enabled carriage of the side. -/
def State.asksOn (s : State) (d : Side) (c : Carriage) : Prop := sideOf c = d ∧ (s.cset c).enabled = true

/-- An enabled carriage of the side that answered, with its span there. -/
def State.answersOn (s : State) (d : Side) (c : Carriage) (i : Interval) : Prop :=
  s.asksOn d c ∧ ∃ p, s.run.answers.get c = some p ∧ i = s.setup.span c (s.setup.laneFor c p.x)

/-- An enabled carriage of the side that did not answer. -/
def State.silentOn (s : State) (d : Side) (c : Carriage) : Prop := s.asksOn d c ∧ s.run.answers.get c = none

/-- A lane between the answering neighbours of a carriage. -/
def State.between (s : State) (d : Side) (c : Carriage) (n : Nat) : Prop := n ≤ 127 ∧ ∀ x i, s.answersOn d x i →
  (driveNumber x < driveNumber c → i.hi < n) ∧ (driveNumber c < driveNumber x → n < i.lo)

theorem State.answersOn_iff : s.answersOn d c i ↔ sideOf c = d ∧ s.answerSpan c = some i := by
  rw [State.answersOn, State.asksOn, State.answerSpan, and_assoc]
  refine and_congr_right fun _ => ?_
  by_cases enabled : (s.cset c).enabled = true
  · rw [if_pos enabled, and_iff_right enabled]
    rw [Option.map_eq_some_iff]
    exact exists_congr fun p => and_congr_right fun _ => eq_comm
  · rw [if_neg enabled]
    exact ⟨fun h => absurd h.1 enabled, nofun⟩

theorem State.silentOn_iff : s.silentOn d c ↔ c ∈ s.enabled d ∧ s.answerSpan c = none := by
  rw [State.silentOn, State.mem_enabled, State.asksOn, State.answerSpan]
  refine and_congr_right fun ⟨_, enabled⟩ => ?_
  rw [if_pos enabled, Option.map_eq_none_iff]

theorem State.mem_enabled_answers (h : s.answerSpan c = some i) (side : sideOf c = d) : c ∈ s.enabled d :=
  State.mem_enabled.2 ⟨side, State.answerSpan_enabled (by rw [h]; rfl)⟩

theorem State.enabled_sorted (s : State) (d : Side) : (s.enabled d).Pairwise fun x y => driveNumber x < driveNumber y :=
  s.setup.enabledOn_sorted d

/-- In a field of at most 128 lanes every gantry x has one of 128 lanes. -/
theorem Setup.laneFor_le {t : Setup} {x : Int} (lanes : t.fieldLanes (sideOf c) ≤ 128) : t.laneFor c x ≤ 127 := by
  rw [Setup.laneFor, Setup.laneOf]
  rw [Setup.fieldLanes] at lanes ⊢
  split
  · omega
  · next low =>
    split
    · omega
    · next high =>
      obtain none_ | some_ := Nat.eq_zero_or_pos t.laneWidth
      · rw [none_, Nat.div_zero]
        omega
      · have lane : (x.toNat - (t.fields.get (sideOf c)).start) / t.laneWidth + 1 ≤
            ((t.fields.get (sideOf c)).stop - (t.fields.get (sideOf c)).start + t.laneWidth - 1) / t.laneWidth := by
          rw [← Nat.add_div_right _ some_]
          exact Nat.div_le_div_right (by omega)
        omega

section
variable (lanes : ∀ d, s.setup.fieldLanes d ≤ 128)
include lanes

theorem State.span_holds {p : Pos} : (s.setup.span c (s.setup.laneFor c p.x)).lo ≤ (s.setup.span c (s.setup.laneFor c p.x)).hi :=
  spanAt_nonempty (Setup.laneFor_le (lanes _))

theorem State.answerSpan_holds (h : s.answerSpan c = some i) : i.lo ≤ i.hi ∧ i.hi ≤ 127 := by
  refine (State.answerSpan_edges h).resolve_right fun ⟨past, last⟩ => ?_
  obtain ⟨-, p, -, rfl⟩ := State.answersOn_iff.2 ⟨rfl, h⟩
  have := State.span_holds lanes (c := c) (p := p)
  omega

/-! ## The order check -/

theorem State.spansRise_iff : spansRise ((s.enabled d).filterMap s.answerSpan) = true ↔
    ∀ x y i j, s.answersOn d x i → s.answersOn d y j → driveNumber x < driveNumber y → i.hi < j.lo := by
  rw [spansRise_iff_pairwise fun i hi => by
    obtain ⟨c, -, hc⟩ := List.mem_filterMap.1 hi
    exact (State.answerSpan_holds lanes hc).1]
  rw [List.pairwise_filterMap, pairwise_iff_of_sorted (State.enabled_sorted s d)]
  constructor
  · intro rises x y i j hx hy order
    obtain ⟨sx, ax⟩ := State.answersOn_iff.1 hx
    obtain ⟨sy, ay⟩ := State.answersOn_iff.1 hy
    exact rises x (State.mem_enabled_answers ax sx) y (State.mem_enabled_answers ay sy) order i ax j ay
  · intro rises x hx y hy order i ax j ay
    exact rises x y i j (State.answersOn_iff.2 ⟨(State.mem_enabled.1 hx).1, ax⟩)
      (State.answersOn_iff.2 ⟨(State.mem_enabled.1 hy).1, ay⟩) order
end

/-- No two neighbours of a list in index order are silent. -/
theorem State.twoSilent_iff {l : List Carriage} (sorted : l.Pairwise fun x y => driveNumber x < driveNumber y) :
    s.twoSilent l = false ↔ ∀ x ∈ l, ∀ y ∈ l, s.answerSpan x = none → s.answerSpan y = none →
      driveNumber x < driveNumber y → ∃ z ∈ l, driveNumber x < driveNumber z ∧ driveNumber z < driveNumber y := by
  refine ⟨fun h x hx y hy ax ay order => ?_, fun h => ?_⟩
  · obtain ⟨z, hz, -, above, below⟩ := State.answering_between h sorted hx hy order ax ay
    exact ⟨z, hz, above, below⟩
  · induction l with
    | nil => rfl
    | cons a rest ih =>
      obtain ⟨first, sorted⟩ := List.pairwise_cons.1 sorted
      cases rest with
      | nil => rfl
      | cons b rest =>
        have second := (List.pairwise_cons.1 sorted).1
        have tail := ih sorted fun x hx y hy ax ay order => by
          obtain ⟨z, hz, above, below⟩ := h x (List.mem_cons_of_mem _ hx) y (List.mem_cons_of_mem _ hy) ax ay order
          obtain rfl | hz := List.mem_cons.1 hz
          · exact absurd above (first x hx).asymm
          · exact ⟨z, hz, above, below⟩
        rw [State.twoSilent, tail, Bool.or_false, Bool.and_eq_false_iff]
        by_contra both
        obtain ⟨na, nb⟩ := not_or.1 both
        rw [Bool.not_eq_false, Option.isNone_iff_eq_none] at na nb
        obtain ⟨z, hz, above, below⟩ := h a (by simp) b (by simp) na nb (first b (by simp))
        obtain rfl | hz := List.mem_cons.1 hz
        · exact absurd above (lt_irrefl _)
        · obtain rfl | hz := List.mem_cons.1 hz
          · exact absurd below (lt_irrefl _)
          · exact absurd below (second z hz).asymm

/-! ## The gap of a silent carriage -/

theorem State.gap_low : (s.gap c).1 = 0 ∨ ∃ z i, s.answersOn (sideOf c) z i ∧ driveNumber z < driveNumber c ∧ (s.gap c).1 = i.hi + 1 := by
  unfold State.gap
  dsimp only
  cases head : ((lowerThan c).filterMap s.answerSpan).head? with
  | none => exact .inl rfl
  | some i =>
    obtain ⟨z, hz, answer⟩ := List.mem_filterMap.1 (List.mem_of_mem_head? head)
    obtain ⟨side, below⟩ := (mem_lowerThan c z).1 hz
    exact .inr ⟨z, i, State.answersOn_iff.2 ⟨side, answer⟩, below, rfl⟩

theorem State.gap_high : (s.gap c).2 = 128 ∨ ∃ z i, s.answersOn (sideOf c) z i ∧ driveNumber c < driveNumber z ∧ (s.gap c).2 = i.lo := by
  unfold State.gap
  dsimp only
  cases head : ((higherThan c).filterMap s.answerSpan).head? with
  | none => exact .inl rfl
  | some i =>
    obtain ⟨z, hz, answer⟩ := List.mem_filterMap.1 (List.mem_of_mem_head? head)
    obtain ⟨side, above⟩ := (mem_higherThan c z).1 hz
    exact .inr ⟨z, i, State.answersOn_iff.2 ⟨side, answer⟩, above, rfl⟩

section
variable (lanes : ∀ d, s.setup.fieldLanes d ≤ 128)
  (rises : ∀ x y i j, s.answersOn d x i → s.answersOn d y j → driveNumber x < driveNumber y → i.hi < j.lo)
include lanes rises

/-- Where the answers rise, the lanes between the answering neighbours are those of the gap. -/
theorem State.between_iff (side : sideOf c = d) : s.between d c n ↔ (s.gap c).1 ≤ n ∧ n < (s.gap c).2 := by
  subst side
  constructor
  · rintro ⟨last, between⟩
    refine ⟨?_, ?_⟩
    · obtain low | ⟨z, i, answers, below, low⟩ := State.gap_low (s := s) (c := c)
      · omega
      · have := (between z i answers).1 below
        omega
    · obtain high | ⟨z, i, answers, above, high⟩ := State.gap_high (s := s) (c := c)
      · omega
      · have := (between z i answers).2 above
        omega
  · rintro ⟨low, high⟩
    refine ⟨?_, fun z i answers => ⟨fun below => ?_, fun above => ?_⟩⟩
    · obtain last | ⟨z, i, answers, -, last⟩ := State.gap_high (s := s) (c := c)
      · omega
      · have := State.answerSpan_holds lanes (State.answersOn_iff.1 answers).2
        omega
    · obtain ⟨side, answer⟩ := State.answersOn_iff.1 answers
      obtain ⟨k, j, sk, ak, gap, near, -⟩ := State.gap_below side below (by rw [answer]; rfl)
      obtain rfl | near := near
      · rw [Option.some.inj (answer.symm.trans ak)]
        omega
      · have := rises z k i j answers (State.answersOn_iff.2 ⟨sk, ak⟩) near
        have := State.answerSpan_holds lanes ak
        omega
    · obtain ⟨side, answer⟩ := State.answersOn_iff.1 answers
      obtain ⟨k, j, sk, ak, gap, near, -⟩ := State.gap_above side above (by rw [answer]; rfl)
      obtain rfl | near := near
      · rw [Option.some.inj (answer.symm.trans ak)]
        omega
      · have := rises k z j i (State.answersOn_iff.2 ⟨sk, ak⟩) answers near
        have := State.answerSpan_holds lanes ak
        omega

theorem State.gapFits_iff (side : sideOf c = d) : s.gapFits c = true ↔ (∃ n, s.between d c n) ∧
    ∀ v p n, s.run.saved = some v → (v.carriages.get c).position = some p →
      (s.setup.span c (s.setup.laneFor c p.x)).lo ≤ n → n ≤ (s.setup.span c (s.setup.laneFor c p.x)).hi → s.between d c n := by
  simp only [State.between_iff lanes rises side]
  rw [State.gapFits, Bool.and_eq_true, decide_eq_true_eq]
  have holds : (s.gap c).1 < (s.gap c).2 ↔ ∃ n, (s.gap c).1 ≤ n ∧ n < (s.gap c).2 :=
    ⟨fun h => ⟨_, le_rfl, h⟩, fun ⟨n, low, high⟩ => low.trans_lt high⟩
  refine and_congr holds ?_
  have before : s.positionBefore c = s.run.saved.bind fun v => (v.carriages.get c).position := rfl
  cases position : s.positionBefore c with
  | none =>
    refine ⟨fun _ v p n saved at_ => ?_, fun _ => rfl⟩
    rw [before, saved, Option.bind_some, at_] at position
    cases position
  | some p =>
    dsimp only
    rw [Bool.and_eq_true, decide_eq_true_eq, decide_eq_true_eq]
    have span := State.span_holds lanes (c := c) (p := p)
    constructor
    · rintro ⟨low, high⟩ v q n saved at_ from_ to_
      rw [before, saved, Option.bind_some, at_] at position
      obtain rfl := Option.some.inj position
      exact ⟨low.trans from_, to_.trans_lt high⟩
    · intro all
      obtain ⟨v, saved, at_⟩ := Option.bind_eq_some_iff.1 (before.symm.trans position)
      exact ⟨(all v p _ saved at_ le_rfl span).1, (all v p _ saved at_ span le_rfl).2⟩
end

theorem State.orderOk_iff (lanes : ∀ d, s.setup.fieldLanes d ≤ 128) : s.orderOk d = true ↔
    (∀ x y i j, s.answersOn d x i → s.answersOn d y j → driveNumber x < driveNumber y → i.hi < j.lo) ∧
    (∀ x y, s.silentOn d x → s.silentOn d y → driveNumber x < driveNumber y →
      ∃ z, s.asksOn d z ∧ driveNumber x < driveNumber z ∧ driveNumber z < driveNumber y) ∧
    ∀ c, s.silentOn d c → (∃ n, s.between d c n) ∧ ∀ v p n, s.run.saved = some v → (v.carriages.get c).position = some p →
      (s.setup.span c (s.setup.laneFor c p.x)).lo ≤ n → n ≤ (s.setup.span c (s.setup.laneFor c p.x)).hi → s.between d c n := by
  rw [State.orderOk, Bool.and_eq_true, Bool.and_eq_true, State.spansRise_iff lanes, Bool.not_eq_true',
    State.twoSilent_iff (State.enabled_sorted s d), List.all_eq_true, and_assoc]
  refine and_congr_right fun rises => and_congr ⟨fun h x y sx sy order => ?_, fun h x hx y hy ax ay order => ?_⟩
    ⟨fun h c sc => ?_, fun h c hc => ?_⟩
  · obtain ⟨hx, ax⟩ := State.silentOn_iff.1 sx
    obtain ⟨hy, ay⟩ := State.silentOn_iff.1 sy
    obtain ⟨z, hz, order⟩ := h x hx y hy ax ay order
    exact ⟨z, State.mem_enabled.1 hz, order⟩
  · obtain ⟨z, hz, order⟩ := h x y (State.silentOn_iff.2 ⟨hx, ax⟩) (State.silentOn_iff.2 ⟨hy, ay⟩) order
    exact ⟨z, State.mem_enabled.2 hz, order⟩
  · obtain ⟨hc, ac⟩ := State.silentOn_iff.1 sc
    have fits := h c hc
    rw [ac] at fits
    exact (State.gapFits_iff lanes rises (State.mem_enabled.1 hc).1).1 fits
  · rw [Bool.or_eq_true]
    cases ac : s.answerSpan c with
    | some i => exact .inl rfl
    | none => exact .inr ((State.gapFits_iff lanes rises (State.mem_enabled.1 hc).1).2 (h c (State.silentOn_iff.2 ⟨hc, ac⟩)))

/-! ## The claim build -/

/-- The lanes of a build that passed the order check. -/
theorem State.builtCells_owns (h : s.orderOk d = true) : Owns (s.builtCells d) n c ↔
    c ∈ s.enabled d ∧ n < 128 ∧ (s.buildShare c).lo ≤ n ∧ n ≤ (s.buildShare c).hi := by
  have shares : s.builtCells d =
      (s.enabled d).foldl (fun t c => paint (s.buildShare c) (some c) t) (List.replicate 128 none) := by
    refine congrArg (fun f => (s.enabled d).foldl f _) (funext fun t => funext fun c => ?_)
    unfold State.buildShare
    cases s.answerSpan c <;> rfl
  rw [shares, owns_foldl_paint]
  · rw [List.length_replicate]
    refine or_iff_right fun owned => ?_
    rw [Owns, List.getElem?_replicate] at owned
    split at owned <;> cases owned
  · refine (State.enabled_sorted s d).imp_of_mem fun {x y} hx hy order a low high length other => ?_
    rw [List.length_replicate] at length
    exact absurd (State.shares_rise h hx hy order ⟨low, high⟩ other (by omega)) (lt_irrefl a)
  · intro x _ a _ _ length
    rw [List.length_replicate] at length
    rw [List.getElem?_replicate, if_pos length]

theorem State.builtCells_iff (lanes : ∀ d, s.setup.fieldLanes d ≤ 128) (h : s.orderOk d = true) :
    (s.builtCells d)[n]? = some (some c) ↔
      (∃ i, s.answersOn d c i ∧ i.lo ≤ n ∧ n ≤ i.hi) ∨ (s.silentOn d c ∧ s.between d c n) := by
  obtain ⟨rises, -, gaps⟩ := (State.orderOk_iff lanes).1 h
  refine (State.builtCells_owns h).trans ?_
  cases answer : s.answerSpan c with
  | some i =>
    have share : s.buildShare c = i := by rw [State.buildShare, answer]
    rw [share]
    constructor
    · rintro ⟨enabled, -, held⟩
      exact .inl ⟨i, State.answersOn_iff.2 ⟨(State.mem_enabled.1 enabled).1, answer⟩, held⟩
    · rintro (⟨j, answers, held⟩ | ⟨silent, -⟩)
      · obtain ⟨side, answer'⟩ := State.answersOn_iff.1 answers
        obtain rfl := Option.some.inj (answer.symm.trans answer')
        have := State.answerSpan_holds lanes answer
        exact ⟨State.mem_enabled_answers answer side, by omega, held⟩
      · cases answer.symm.trans (State.silentOn_iff.1 silent).2
  | none =>
    have share : s.buildShare c = ⟨(s.gap c).1, (s.gap c).2 - 1⟩ := by rw [State.buildShare, answer]
    rw [share]
    constructor
    · rintro ⟨enabled, -, low, high⟩
      have side := (State.mem_enabled.1 enabled).1
      have silent := State.silentOn_iff.2 ⟨enabled, answer⟩
      obtain ⟨⟨k, within⟩, -⟩ := gaps c silent
      have within := (State.between_iff lanes rises side).1 within
      refine .inr ⟨silent, (State.between_iff lanes rises side).2 ⟨low, ?_⟩⟩
      dsimp only at high
      omega
    · rintro (⟨j, answers, -⟩ | ⟨silent, between⟩)
      · cases answer.symm.trans (State.answersOn_iff.1 answers).2
      · have enabled := (State.silentOn_iff.1 silent).1
        obtain ⟨low, high⟩ := (State.between_iff lanes rises (State.mem_enabled.1 enabled).1).1 between
        have last := between.1
        exact ⟨enabled, by omega, low, by dsimp only; omega⟩
end

end Sys2Proof.Machine
end

section
/-! PROOFS. STARTING sets the carriages that have come to rest: HOMING with QUERY sent, or OFF, and what ORDER_FAULT
takes each of them back to (R61, R194, AL 16, AL 55). -/

set_option Elab.async false

namespace Sys2Proof.Machine

section
variable {s t : State} {c x : Carriage} {l : List Carriage} {v w : Saved}

/-- A carriage as START sets it. -/
def State.setRecord (s : State) (c : Carriage) : CarriageRec := { s.carr c with
  state := if (s.cset c).enabled then .homing else .off
  phase := none, purpose := none, service := none, ended := false, target := none, followOn := none
  request := if (s.cset c).enabled then some ⟨.query, false⟩ else none
  timer := if (s.cset c).enabled then some s.setup.liftMs else none
  tip := if (s.cset c).enabled && s.run.state != .halted then .bleed else .isolated }

/-! ## One carriage set -/

/-- The state with a carriage set, but for its QUERY. -/
def State.setAside (c : Carriage) (s : State) : State :=
  (((s.saveCarr c).updRun fun r => { r with unset := r.unset.filter fun d => d != c }).setCarr c
    (if (s.cset c).enabled then .homing else .off)).modCarr c fun r =>
      { r with phase := none, purpose := none, service := none, ended := false, target := none, request := none
               timer := none, followOn := none }

theorem State.setForStart_eq :
    s.setForStart c = if (s.cset c).enabled then (s.setAside c).send c .query else s.setAside c := rfl

theorem State.confined_setAside : Confined [.run, .carriages] s (s.setAside c) :=
  (((Confined.refl _ s).andThen (State.confined_updRun (f := fun r => { r with saved := r.saved.map fun v =>
    { v with carriages := v.carriages.set c (backRecord (v.carriages.get c) (s.carr c)) } }))).andThen
      State.confined_updRun).andThen State.confined_setCarr |>.andThen State.confined_modCarr

theorem State.confined_setForStart : Confined [.run, .carriages, .linkOut] s (s.setForStart c) := by
  rw [State.setForStart_eq]
  exact .ite (fun _ => State.confined_setAside.mono.andThen State.confined_send) fun _ => State.confined_setAside.mono

theorem State.setForStart_run : (s.setForStart c).run = { s.run with
    saved := s.run.saved.map fun v => { v with
      carriages := v.carriages.set c (backRecord (v.carriages.get c) (s.carr c)) }
    unset := s.run.unset.filter fun d => d != c } := by
  rw [State.setForStart_eq]
  by_cases enabled : (s.cset c).enabled = true
  · rw [if_pos enabled]
    rfl
  · rw [if_neg enabled]
    rfl

theorem State.setForStart_linkOut :
    (s.setForStart c).linkOut = if (s.cset c).enabled then s.linkOut ++ [(c, .query)] else s.linkOut := by
  rw [State.setForStart_eq]
  by_cases enabled : (s.cset c).enabled = true
  · rw [if_pos enabled, if_pos enabled]
    rfl
  · rw [if_neg enabled, if_neg enabled]
    rfl

theorem State.carr_setAside : (s.setAside c).carr c = { s.setRecord c with request := none, timer := none } := by
  have tip : (if s.run.state = .halted then Tip.isolated else tipFor (if (s.cset c).enabled then .homing else .off)) =
      if (s.cset c).enabled && s.run.state != .halted then Tip.bleed else .isolated := by
    by_cases halted : s.run.state = .halted
    · rw [if_pos halted, halted, bne_self_eq_false, Bool.and_false]
      rfl
    · rw [if_neg halted, bne_iff_ne.2 halted, Bool.and_true]
      cases (s.cset c).enabled <;> rfl
  rw [State.setAside, State.carr_modCarr_same, State.carr_setCarr]
  exact congrArg (fun q : Tip => { s.setRecord c with request := none, timer := none, tip := q }) tip

theorem State.carr_setForStart : (s.setForStart c).carr x = if x = c then s.setRecord c else s.carr x := by
  rw [State.setForStart_eq]
  by_cases here : x = c
  · subst here
    rw [if_pos rfl]
    by_cases enabled : (s.cset x).enabled = true
    · rw [if_pos enabled, State.carr_send, State.carr_setAside]
      unfold State.setRecord
      rw [enabled]
      rfl
    · rw [if_neg enabled, State.carr_setAside]
      unfold State.setRecord
      rw [Bool.eq_false_iff.2 enabled]
      rfl
  · rw [if_neg here]
    have aside : (s.setAside c).carr x = s.carr x := by
      rw [State.setAside, State.carr_modCarr_ne _ _ here, State.carr_setCarr_ne here]
      rfl
    by_cases enabled : (s.cset c).enabled = true
    · rw [if_pos enabled, State.carr_send_ne here, aside]
    · rw [if_neg enabled, aside]

theorem State.setRecord_settable : (s.setRecord c).settable = !(s.cset c).enabled := by
  unfold State.setRecord CarriageRec.settable
  cases (s.cset c).enabled <;> rfl

/-! ## All that have come to rest -/

/-- Setting the carriages of a list. -/
def State.setAll (l : List Carriage) (s : State) : State :=
  l.foldl (fun s c => if (s.carr c).settable then s.setForStart c else s) s

/-- A carriage of the list that has come to rest. -/
def State.setsOf (s : State) (l : List Carriage) (c : Carriage) : Bool := l.contains c && (s.carr c).settable

/-- What setting the carriages of a list comes to. -/
structure SetAll (s : State) (l : List Carriage) (t : State) : Prop where
  rest : Confined [.run, .carriages, .linkOut] s t
  run : t.run = { s.run with
    saved := t.run.saved, unset := s.run.unset.filter fun c => !s.setsOf l c }
  carr : ∀ c, t.carr c = if s.setsOf l c then s.setRecord c else s.carr c
  asked : ∃ asked : List Carriage, t.linkOut = s.linkOut ++ asked.map (fun c => (c, .query)) ∧ asked.Nodup ∧
    asked.Sublist l ∧ ∀ c, c ∈ asked ↔ s.setsOf l c = true ∧ (s.cset c).enabled = true
  none_ : s.run.saved = none → t.run.saved = none
  saved : ∀ v, s.run.saved = some v → ∃ w, t.run.saved = some w ∧ w.setup = v.setup ∧ w.claims = v.claims ∧
    ∀ c, w.carriages.get c = if s.setsOf l c then backRecord (v.carriages.get c) (s.carr c) else v.carriages.get c

theorem SetAll.nil : SetAll s [] s where
  rest := .refl _ s
  run := by
    have all : (s.run.unset.filter fun c => !s.setsOf [] c) = s.run.unset := List.filter_true _
    rw [all]
  carr _ := rfl
  asked := ⟨[], (List.append_nil _).symm, .nil, .refl _, fun c => ⟨nofun, fun h => by cases h.1⟩⟩
  none_ h := h
  saved v h := ⟨v, h, rfl, rfl, fun _ => rfl⟩

/-- A list that sets the same carriages. -/
theorem SetAll.congr {k : List Carriage} (h : SetAll s l t) (sub : l.Sublist k) (same : ∀ c, s.setsOf k c = s.setsOf l c) :
    SetAll s k t where
  rest := h.rest
  run := by
    have eq : s.setsOf k = s.setsOf l := funext same
    rw [eq]
    exact h.run
  carr c := by rw [same, h.carr]
  asked := by
    obtain ⟨asked, linkOut, nodup, sublist, mem⟩ := h.asked
    exact ⟨asked, linkOut, nodup, sublist.trans sub, fun c => by rw [same, mem]⟩
  none_ := h.none_
  saved v hv := by
    obtain ⟨w, hw, setup, claims, back⟩ := h.saved v hv
    exact ⟨w, hw, setup, claims, fun c => by rw [same, back]⟩

theorem State.setsOf_append (l : List Carriage) (c x : Carriage) :
    s.setsOf (l ++ [c]) x = (s.setsOf l x || (x == c && (s.carr c).settable)) := by
  unfold State.setsOf
  by_cases here : x = c
  · subst here
    simp
  · simp [here]

/-- A carriage not enabled that is set stays set as it is. -/
theorem SetAll.again (h : SetAll s l t) (sets : s.setsOf l c = true) (off : (s.cset c).enabled = false) :
    SetAll s l (t.setForStart c) := by
  have settable : (s.carr c).settable = true := (Bool.and_eq_true .. ▸ sets : _ ∧ _).2
  have record : t.carr c = s.setRecord c := (h.carr c).trans (if_pos sets)
  have cset : t.cset c = s.cset c := by rw [State.cset, State.cset, h.rest.setup]
  have same : t.setRecord c = s.setRecord c := by
    unfold State.setRecord
    rw [cset, off, record]
    unfold State.setRecord
    rw [off]
    rfl
  have unset : t.run.unset = s.run.unset.filter fun c => !s.setsOf l c := congrArg RunCtl.unset h.run
  refine ⟨h.rest.andThen State.confined_setForStart, ?_, fun x => ?_, ?_, fun none_ => ?_, fun v hv => ?_⟩
  · rw [State.setForStart_run, unset, h.run, List.filter_filter]
    dsimp only
    congr 1
    refine List.filter_congr fun x _ => ?_
    by_cases here : x = c
    · rw [here, sets, Bool.not_true, Bool.and_false]
    · rw [bne_iff_ne.2 here, Bool.true_and]
  · rw [State.carr_setForStart, same]
    by_cases here : x = c
    · rw [if_pos here, here, if_pos sets]
    · rw [if_neg here, h.carr]
  · rw [State.setForStart_linkOut, cset, off]
    exact h.asked
  · rw [State.setForStart_run, h.none_ none_]
    rfl
  · obtain ⟨w, hw, setup, claims, back⟩ := h.saved v hv
    have saved : (t.setForStart c).run.saved =
        some { w with carriages := w.carriages.set c (backRecord (w.carriages.get c) (t.carr c)) } := by
      rw [State.setForStart_run, hw]
      rfl
    refine ⟨_, saved, setup, claims, fun x => ?_⟩
    rw [Six.get_set]
    by_cases here : x = c
    · rw [if_pos here, here, backRecord_rest]
      · exact back c
      · rw [back, if_pos sets]
        exact backRecord_settable settable
    · rw [if_neg here]
      exact back x

/-- A carriage that is now set for the first time. -/
theorem SetAll.adds (h : SetAll s l t) (fresh : s.setsOf l c = false) (settable : (s.carr c).settable = true) :
    SetAll s (l ++ [c]) (t.setForStart c) := by
  have same : t.carr c = s.carr c := by
    rw [h.carr, fresh]
    rfl
  have cset : t.cset c = s.cset c := by rw [State.cset, State.cset, h.rest.setup]
  have record : t.setRecord c = s.setRecord c := by
    unfold State.setRecord
    rw [cset, same, h.rest.setup, h.run]
  have sets (x : Carriage) : s.setsOf (l ++ [c]) x = (s.setsOf l x || x == c) := by
    rw [State.setsOf_append, settable, Bool.and_true]
  have unset : t.run.unset = s.run.unset.filter fun c => !s.setsOf l c := congrArg RunCtl.unset h.run
  refine ⟨h.rest.andThen State.confined_setForStart, ?_, fun x => ?_, ?_, fun none_ => ?_, fun v hv => ?_⟩
  · rw [State.setForStart_run, unset, h.run, List.filter_filter]
    dsimp only
    congr 1
    refine List.filter_congr fun x _ => ?_
    rw [sets, Bool.not_or, Bool.and_comm]
    rfl
  · rw [State.carr_setForStart, record, sets]
    by_cases here : x = c
    · rw [if_pos here, here, beq_self_eq_true, Bool.or_true]
      rfl
    · rw [if_neg here, beq_eq_false_iff_ne.2 here, Bool.or_false, h.carr]
  · obtain ⟨asked, linkOut, nodup, sublist, mem⟩ := h.asked
    have new : c ∉ asked := fun hc => by
      have := ((mem c).1 hc).1
      rw [fresh] at this
      cases this
    rw [State.setForStart_linkOut, cset, linkOut]
    by_cases enabled : (s.cset c).enabled = true
    · rw [if_pos enabled]
      refine ⟨asked ++ [c], ?_, List.nodup_append.2 ⟨nodup, List.nodup_singleton c, ?_⟩, sublist.append (.refl _), fun x => ?_⟩
      · rw [List.map_append, List.append_assoc]
        rfl
      · intro a ha b hb e
        obtain rfl := List.mem_singleton.1 hb
        exact new (e ▸ ha)
      · rw [List.mem_append, mem, List.mem_singleton, sets, Bool.or_eq_true, beq_iff_eq]
        refine ⟨fun hx => ?_, fun ⟨set, on⟩ => ?_⟩
        · obtain ⟨set, on⟩ | rfl := hx
          · exact ⟨.inl set, on⟩
          · exact ⟨.inr rfl, enabled⟩
        · exact set.imp_left fun set => ⟨set, on⟩
    · rw [if_neg enabled]
      refine ⟨asked, rfl, nodup, sublist.trans (List.sublist_append_left ..), fun x => ?_⟩
      rw [mem, sets, Bool.or_eq_true, beq_iff_eq]
      refine ⟨fun ⟨set, on⟩ => ⟨.inl set, on⟩, fun ⟨set, on⟩ => ⟨set.resolve_right fun e => enabled (e ▸ on), on⟩⟩
  · rw [State.setForStart_run, h.none_ none_]
    rfl
  · obtain ⟨w, hw, setup, claims, back⟩ := h.saved v hv
    have saved : (t.setForStart c).run.saved =
        some { w with carriages := w.carriages.set c (backRecord (w.carriages.get c) (t.carr c)) } := by
      rw [State.setForStart_run, hw]
      rfl
    refine ⟨_, saved, setup, claims, fun x => ?_⟩
    rw [Six.get_set, sets]
    by_cases here : x = c
    · rw [if_pos here, here, beq_self_eq_true, Bool.or_true, same, back, fresh]
      rfl
    · rw [if_neg here, beq_eq_false_iff_ne.2 here, Bool.or_false]
      exact back x

theorem SetAll.snoc (h : SetAll s l t) (c : Carriage) :
    SetAll s (l ++ [c]) (if (t.carr c).settable then t.setForStart c else t) := by
  by_cases sets : s.setsOf l c = true
  · have whole : SetAll s (l ++ [c]) t := h.congr (List.sublist_append_left ..) fun x => by
      rw [State.setsOf_append]
      by_cases here : x = c
      · rw [here, sets, Bool.true_or]
      · rw [beq_eq_false_iff_ne.2 here, Bool.false_and, Bool.or_false]
    rw [h.carr, if_pos sets, State.setRecord_settable]
    cases enabled : (s.cset c).enabled with
    | true => exact whole
    | false =>
      refine whole.again ?_ enabled
      rw [State.setsOf_append, sets, Bool.true_or]
  · rw [h.carr, if_neg sets]
    by_cases settable : (s.carr c).settable = true
    · rw [if_pos settable]
      exact h.adds (Bool.eq_false_iff.2 sets) settable
    · rw [if_neg settable]
      refine h.congr (List.sublist_append_left ..) fun x => ?_
      rw [State.setsOf_append, Bool.eq_false_iff.2 settable, Bool.and_false, Bool.or_false]

theorem State.setAll_sets (l : List Carriage) (s : State) : SetAll s l (s.setAll l) := by
  induction l using List.reverseRecOn with
  | nil => exact .nil
  | append_singleton l c ih =>
    rw [State.setAll, List.foldl_append]
    exact ih.snoc c
end
end Sys2Proof.Machine
end

section
/-! PROOFS. STARTING goes on: the claim build's effect on the carriages, the refusal by ORDER_FAULT, the home batches, and
the entry to RUNNING (R36, R61, R62, R194, R195). -/

set_option Elab.async false

namespace Sys2Proof.Machine

section
variable {s t u : State} {c x : Carriage} {d : Side}

/-! ## Orders leave the window its slots -/

/-- The window has the same slots, in the same order, and no entry has come to WAITING. -/
def SlotsKept (s t : State) : Prop := ∃ g : Entry → Entry, t.disp.window = s.disp.window.map g ∧
  ∀ e, (g e).slot = e.slot ∧ ((g e).state = .waiting → e.state = .waiting)

theorem SlotsKept.of_window (h : t.disp.window = s.disp.window) : SlotsKept s t :=
  ⟨id, by rw [h, List.map_id], fun _ => ⟨rfl, id⟩⟩

theorem SlotsKept.refl (s : State) : SlotsKept s s := .of_window rfl

theorem SlotsKept.andThen (h : SlotsKept s t) (h' : SlotsKept t u) : SlotsKept s u := by
  obtain ⟨f, first, hf⟩ := h
  obtain ⟨g, second, hg⟩ := h'
  exact ⟨g ∘ f, by rw [second, first, List.map_map],
    fun e => ⟨(hg (f e)).1.trans (hf e).1, fun w => (hf e).2 ((hg (f e)).2 w)⟩⟩

theorem SlotsKept.of_confined {bs : List Block} (h : Confined bs s t) (disp : .disp ∉ bs := by decide) : SlotsKept s t :=
  .of_window (by rw [h.disp disp])

theorem SlotsKept.slots (h : SlotsKept s t) : t.disp.window.map (·.slot) = s.disp.window.map (·.slot) := by
  obtain ⟨g, window, hg⟩ := h
  rw [window, List.map_map]
  exact List.map_congr_left fun e _ => (hg e).1

theorem SlotsKept.ite {p : Prop} [Decidable p] (ht : p → SlotsKept s t) (hu : ¬ p → SlotsKept s u) :
    SlotsKept s (if p then t else u) := by
  by_cases h : p
  · rw [if_pos h]
    exact ht h
  · rw [if_neg h]
    exact hu h

theorem SlotsKept.foldl {α : Type} {f : State → α → State} (hf : ∀ s a, SlotsKept s (f s a)) (l : List α) (s : State) :
    SlotsKept s (l.foldl f s) := by
  induction l generalizing s with
  | nil => exact .refl s
  | cons a rest ih => exact (hf s a).andThen (ih _)

theorem SlotsKept.length (h : SlotsKept s t) : t.disp.window.length = s.disp.window.length := by
  rw [← List.length_map (f := (·.slot)), h.slots, List.length_map]

theorem State.slotsKept_modEntry {k : Nat} {f : Entry → Entry}
    (keeps : ∀ e, (f e).slot = e.slot ∧ ((f e).state = .waiting → e.state = .waiting)) : SlotsKept s (s.modEntry k f) := by
  refine ⟨fun e => if e.slot == k then f e else e, rfl, fun e => ?_⟩
  dsimp only
  split
  · exact keeps e
  · exact ⟨rfl, id⟩

theorem State.slotsKept_markWithdraw {k : Nat} : SlotsKept s (s.markWithdraw k) := .of_window rfl

theorem State.slotsKept_toIdle : SlotsKept s (s.toIdle c) :=
  ⟨fun e => { e with assignment := e.assignment.map fun a => if a = some c then none else a }, rfl, fun _ => ⟨rfl, id⟩⟩

theorem State.slotsKept_yieldsFailed {bad : Yield → Bool} : SlotsKept s (s.yieldsFailed bad) :=
  .foldl (fun s (e : Entry) => .ite (t := s.markWithdraw e.slot) (fun _ => .of_window rfl) fun _ => .refl s) _ s

theorem State.slotsKept_yieldArrived {k : Nat} : SlotsKept s (s.yieldArrived c k) :=
  State.slotsKept_yieldsFailed.andThen ⟨_, rfl, fun _ => ⟨rfl, id⟩⟩

theorem State.slotsKept_withdrawServed : SlotsKept s (s.withdrawServed c) := by
  unfold State.withdrawServed
  split
  · exact .ite (fun _ => State.slotsKept_markWithdraw) fun _ => .refl s
  · exact .refl s

theorem State.slotsKept_blocked : SlotsKept s (s.blocked c) := by
  have told : SlotsKept s (match (s.carr c).purpose with
    | some .step | some .scrub => s.withdrawServed c
    | some .yield => s.yieldFailed c
    | some .home | some .park | none => s) := by
    split
    · exact State.slotsKept_withdrawServed
    · exact State.slotsKept_withdrawServed
    · exact State.slotsKept_yieldsFailed
    all_goals exact .refl s
  exact told.andThen State.slotsKept_toIdle

theorem State.slotsKept_markArrived : SlotsKept s (s.markArrived c) := by
  unfold State.markArrived
  split
  · exact .refl s
  · split
    · exact .refl s
    · exact .ite (fun _ => .ite (fun _ => State.slotsKept_modEntry fun _ => ⟨rfl, nofun⟩) fun _ =>
        State.slotsKept_modEntry fun _ => ⟨rfl, id⟩) fun _ => .refl s

theorem State.slotsKept_enterDescend : SlotsKept s (s.enterDescend c) :=
  (((SlotsKept.of_confined State.confined_setCarr).andThen (.of_confined State.confined_modCarr)).andThen
    (.of_confined State.confined_send)).andThen State.slotsKept_markArrived

theorem State.slotsKept_travelDone : SlotsKept s (s.travelDone c) := by
  unfold State.travelDone
  dsimp only
  split
  · exact .ite (fun _ => State.slotsKept_toIdle) fun _ => State.slotsKept_enterDescend
  · exact .ite (fun _ => State.slotsKept_toIdle) fun _ => State.slotsKept_enterDescend
  · exact State.slotsKept_yieldArrived.andThen State.slotsKept_toIdle
  all_goals exact State.slotsKept_toIdle

theorem State.slotsKept_requestClaim {p i} : SlotsKept s (s.requestClaim c p i) := by
  unfold State.requestClaim
  split
  · exact (SlotsKept.of_confined State.confined_takeLanes).andThen (.of_confined State.confined_deliverGrant)
  · exact .of_confined State.confined_modTable
  · exact State.slotsKept_blocked
  · exact State.slotsKept_blocked

theorem State.slotsKept_claimTravel : SlotsKept s (s.claimTravel c) := by
  unfold State.claimTravel
  dsimp only
  split
  · exact State.slotsKept_requestClaim
  · exact .refl s

theorem State.slotsKept_compareTravel {p : Pos} : SlotsKept s (s.compareTravel c p) :=
  .ite (fun _ => State.slotsKept_travelDone) fun _ => .ite (fun _ => .of_confined State.confined_deliverGrant) fun _ => .refl s

theorem State.slotsKept_orderTravel {p v q} : SlotsKept s (s.orderTravel c p v q) :=
  .ite (fun _ => (((SlotsKept.of_confined State.confined_beginTravel).andThen (.of_confined State.confined_modCarr)).andThen
    State.slotsKept_compareTravel).andThen State.slotsKept_claimTravel) fun _ => .refl s

theorem State.slotsKept_batch {p} : SlotsKept s (s.batch d p) := .foldl (fun _ _ => State.slotsKept_orderTravel) _ s

theorem State.slotsKept_issueHome : SlotsKept s (s.issueHome d) :=
  .ite (fun _ => (SlotsKept.of_confined State.confined_updRun).andThen State.slotsKept_batch) fun _ => .refl s

/-! ## POSITION and LIFTED in HOMING -/

/-- A carriage as the answer to QUERY leaves it. -/
def State.answerRecord (s : State) (c : Carriage) (up : Bool) : CarriageRec := { s.carr c with
  probeUp := up, request := if up then none else some ⟨.lift, false⟩
  timer := if up then none else some s.setup.liftMs
  timerCut := if (s.carr c).timer = none then (s.carr c).timerCut else some s.clock }

/-- The state with the answer to QUERY taken. -/
def State.answerQuery (s : State) (c : Carriage) (p : Pos) (up : Bool) : State :=
  let t := ((s.settle c).modCarr c fun r => { r with probeUp := up }).updRun fun r =>
    { r with answers := r.answers.set c (some p) }
  if up then t else t.send c .lift

theorem CarriageRec.stopTimer_eq {r : CarriageRec} {n : Nat} : r.stopTimer n =
    { r with timer := none, timerCut := if r.timer = none then r.timerCut else some n } := by
  unfold CarriageRec.stopTimer
  cases r.timer <;> rfl

theorem State.carr_answerQuery {p : Pos} {up : Bool} :
    (s.answerQuery c p up).carr x = if x = c then s.answerRecord c up else s.carr x := by
  unfold State.answerQuery
  dsimp only
  by_cases here : x = c
  · subst here
    rw [if_pos rfl]
    have taken : ((s.settle x).modCarr x fun r => { r with probeUp := up }).carr x =
        { s.carr x with
          request := none, probeUp := up, timer := none
          timerCut := if (s.carr x).timer = none then (s.carr x).timerCut else some s.clock } := by
      rw [State.carr_modCarr_same, State.carr_settle, CarriageRec.stopTimer_eq]
    cases up with
    | true =>
      rw [if_pos rfl, State.confined_updRun.carr, taken]
      rfl
    | false =>
      rw [if_neg nofun, State.carr_send, State.confined_updRun.carr, taken]
      rfl
  · rw [if_neg here]
    have taken : ((s.settle c).modCarr c fun r => { r with probeUp := up }).carr x = s.carr x := by
      rw [State.carr_modCarr_ne _ _ here, State.carr_settle_ne here]
    cases up with
    | true => rw [if_pos rfl, State.confined_updRun.carr, taken]
    | false => rw [if_neg nofun, State.carr_send_ne here, State.confined_updRun.carr, taken]

theorem State.answerQuery_run {p : Pos} {up : Bool} :
    (s.answerQuery c p up).run = { s.run with answers := s.run.answers.set c (some p) } := by
  cases up <;> rfl

theorem State.answerQuery_linkOut {p : Pos} {up : Bool} :
    (s.answerQuery c p up).linkOut = if up then s.linkOut else s.linkOut ++ [(c, .lift)] := by
  cases up <;> rfl

theorem State.confined_answerQuery {p : Pos} {up : Bool} : Confined [.run, .carriages, .linkOut] s (s.answerQuery c p up) :=
  have taken : Confined [.run, .carriages, .linkOut] s (((s.settle c).modCarr c fun r => { r with probeUp := up }).updRun
      fun r => { r with answers := r.answers.set c (some p) }) :=
    (State.confined_settle.mono.andThen State.confined_modCarr).andThen State.confined_updRun
  .ite (fun _ => taken) fun _ => taken.andThen State.confined_send

theorem execPosition_homing {p : Pos} {up : Bool} (state : (s.carr c).state = .homing)
    (awaits : (s.carr c).awaits .query = true) : execPosition c p up s = .next (s.answerQuery c p up).finish := by
  unfold execPosition
  exact if_pos ⟨state, awaits⟩

/-- LIFTED in HOMING puts the probe up; with the side's claims built the carriage is IDLE. -/
def State.liftedHome (c : Carriage) (s : State) : State :=
  let t := (s.settle c).modCarr c fun r => { r with probeUp := true }
  if s.run.stage = some .homing then t.toIdle c else t

theorem execLifted_homing (state : (s.carr c).state = .homing) (awaits : (s.carr c).awaits .lift = true) :
    execLifted c s = .next (s.liftedHome c).finish := by
  unfold execLifted
  dsimp only
  rw [if_neg (by rw [state]; nofun), if_pos ⟨state, awaits⟩]
  rfl

theorem State.liftedHome_carr (state : (s.carr c).state = .homing) : ((s.liftedHome c).carr c).probeUp = true ∧
    ((s.liftedHome c).carr c).request = none ∧
    ((s.liftedHome c).carr c).state = if s.run.stage = some .homing then .idle else .homing := by
  have taken : ((s.settle c).modCarr c fun r => { r with probeUp := true }).carr c =
      { (s.carr c).stopTimer s.clock with request := none, probeUp := true } := by
    rw [State.carr_modCarr_same, State.carr_settle]
  unfold State.liftedHome
  dsimp only
  by_cases stage : s.run.stage = some .homing
  · rw [if_pos stage, if_pos stage, State.carr_toIdle, taken]
    exact ⟨rfl, rfl, rfl⟩
  · rw [if_neg stage, if_neg stage, taken]
    exact ⟨rfl, rfl, state⟩

theorem State.confined_liftedHome : Confined [.carriages, .disp] s (s.liftedHome c) :=
  have taken : Confined [.carriages, .disp] s ((s.settle c).modCarr c fun r => { r with probeUp := true }) :=
    State.confined_settle.mono.andThen State.confined_modCarr
  .ite (fun _ => taken.andThen State.confined_toIdle) fun _ => taken

/-! ## The claim build and the carriages -/

/-- A carriage at the claim build: an answer is its position, and HOMING with nothing outstanding is IDLE. -/
def State.buildCarr (c : Carriage) (s : State) : State :=
  match s.run.answers.get c with
  | some p =>
    let s := s.modCarr c fun r => { r with position := some p }
    if (s.carr c).state = .homing ∧ (s.carr c).request = none then s.toIdle c else s
  | none => s

theorem State.buildClaims_eq : s.buildClaims =
    (allCarriages.foldl (fun s c => s.buildCarr c)
      (s.updClaims fun _ => ⟨⟨s.builtCells .top, []⟩, ⟨s.builtCells .bottom, []⟩⟩)).updRun fun r =>
        { r with saved := none, stage := some .homing, homeIssued := .both false } := rfl

theorem State.confined_buildCarr : Confined [.carriages, .disp] s (s.buildCarr c) := by
  unfold State.buildCarr
  cases s.run.answers.get c with
  | none => exact .refl _ s
  | some p => exact .ite (fun _ => State.confined_modCarr.mono.andThen State.confined_toIdle) fun _ => State.confined_modCarr.mono

theorem State.carr_buildCarr_ne (h : x ≠ c) : (s.buildCarr c).carr x = s.carr x := by
  unfold State.buildCarr
  cases s.run.answers.get c with
  | none => rfl
  | some p =>
    dsimp only
    have moved : (s.modCarr c fun r => { r with position := some p }).carr x = s.carr x := State.carr_modCarr_ne _ _ h
    split
    · rw [State.carr_toIdle_ne h, moved]
    · exact moved

/-- What the claim build makes of a carriage. -/
structure Built (c : Carriage) (s u : State) : Prop where
  silent : s.run.answers.get c = none → u.carr c = s.carr c
  answers : ∀ p, s.run.answers.get c = some p → (u.carr c).position = some p ∧ (u.carr c).request = (s.carr c).request ∧
    (u.carr c).state = if (s.carr c).state = .homing ∧ (s.carr c).request = none then .idle else (s.carr c).state

theorem Built.same (h : Built c s t) (carr : u.carr c = t.carr c) : Built c s u :=
  ⟨fun a => by rw [carr, h.silent a], fun p a => by rw [carr]; exact h.answers p a⟩

theorem State.buildCarr_built (carr : t.carr c = s.carr c) (run : t.run = s.run) : Built c s (t.buildCarr c) := by
  constructor
  · intro a
    unfold State.buildCarr
    rw [run, a]
    exact carr
  · intro p a
    have moved : (t.modCarr c fun r => { r with position := some p }).carr c = { s.carr c with position := some p } := by
      rw [State.carr_modCarr_same, carr]
    unfold State.buildCarr
    rw [run, a]
    dsimp only
    rw [moved]
    by_cases home : (s.carr c).state = .homing ∧ (s.carr c).request = none
    · rw [if_pos home, if_pos home, State.carr_toIdle, moved]
      exact ⟨rfl, rfl, rfl⟩
    · rw [if_neg home, if_neg home, moved]
      exact ⟨rfl, rfl, rfl⟩

theorem State.buildAll_built (l : List Carriage) (nodup : l.Nodup) (carr : t.carr c = s.carr c) (run : t.run = s.run) :
    c ∈ l → Built c s (l.foldl (fun s c => s.buildCarr c) t) := by
  have after (l : List Carriage) (t : State) (h : Built c s t) (hc : c ∉ l) :
      Built c s (l.foldl (fun s c => s.buildCarr c) t) := by
    induction l generalizing t with
    | nil => exact h
    | cons x rest ih =>
      exact ih _ (h.same (State.carr_buildCarr_ne fun e => hc (e ▸ List.mem_cons_self))) fun hr => hc (List.mem_cons_of_mem _ hr)
  induction l generalizing t with
  | nil => nofun
  | cons x rest ih =>
    obtain ⟨fresh, nodup⟩ := List.nodup_cons.1 nodup
    intro hc
    by_cases e : c = x
    · subst e
      exact after rest _ (State.buildCarr_built carr run) fresh
    · exact ih nodup ((State.carr_buildCarr_ne e).trans carr) (State.confined_buildCarr.run.trans run)
        ((List.mem_cons.1 hc).resolve_left e)

theorem State.confined_buildAll {l : List Carriage} : Confined [.carriages, .disp] s (l.foldl (fun s c => s.buildCarr c) s) :=
  .foldl (fun _ _ => State.confined_buildCarr) l s

theorem State.buildClaims_built : Built c s s.buildClaims := by
  rw [State.buildClaims_eq]
  have all := State.buildAll_built (s := s)
    (t := s.updClaims fun _ => ⟨⟨s.builtCells .top, []⟩, ⟨s.builtCells .bottom, []⟩⟩) allCarriages (by decide) rfl rfl
    (mem_allCarriages c)
  exact all.same (State.confined_updRun.carr c)

theorem State.buildClaims_run :
    s.buildClaims.run = { s.run with saved := none, stage := some .homing, homeIssued := .both false } := by
  rw [State.buildClaims_eq, State.updRun_run, State.confined_buildAll.run]
  rfl

theorem State.confined_buildClaims : Confined [.claims, .carriages, .disp, .run] s s.buildClaims :=
  (State.confined_updClaims.mono.andThen State.confined_buildAll).andThen State.confined_updRun

theorem State.buildClaims_table : s.buildClaims.table d = ⟨s.builtCells d, []⟩ := by
  have claims : s.buildClaims.claims = ⟨⟨s.builtCells .top, []⟩, ⟨s.builtCells .bottom, []⟩⟩ := by
    rw [State.buildClaims_eq, State.confined_updRun.claims, State.confined_buildAll.claims]
    rfl
  rw [State.table, claims]
  cases d <;> rfl

/-! ## START refused by ORDER_FAULT -/

theorem State.goBack_run : s.goBack.run = { s.run with
    ret := none, origin := none, saved := none, stage := none, held := none, unset := []
    answers := .all none, homeIssued := .both false
    state := match s.run.ret with
      | some q => q.run
      | none => .idle } := by
  unfold State.goBack
  dsimp only
  exact (State.setRun_run _).trans rfl

/-- A carriage as ORDER_FAULT brings it back. -/
def State.backCarr (s : State) (v : Saved) (c : Carriage) : CarriageRec := { v.carriages.get c with
  probeUp := (s.carr c).probeUp
  timerCut := if (s.carr c).timer = none then (s.carr c).timerCut else some s.clock }

/-- The state with what a START saved put back, before the controller goes back. -/
def State.putBack (s : State) (v : Saved) : State :=
  (((s.updRun fun r => { r with orderFault := true, last := .refused }).updSetup fun _ => v.setup).updClaims fun _ =>
    v.claims).updCarriages fun _ => ⟨s.backCarr v .t1, s.backCarr v .t2, s.backCarr v .t3, s.backCarr v .t4,
      s.backCarr v .b1, s.backCarr v .b2⟩

theorem State.refuseOrder_eq {v : Saved} (saved : s.run.saved = some v) : s.refuseOrder = (s.putBack v).goBack := by
  have cut (c : Carriage) : ({ v.carriages.get c with
      probeUp := (s.carr c).probeUp, timerCut := ((s.carr c).stopTimer s.clock).timerCut } : CarriageRec) = s.backCarr v c := by
    rw [CarriageRec.stopTimer_eq]
    rfl
  unfold State.refuseOrder
  dsimp only
  rw [show (s.updRun fun r => { r with orderFault := true, last := .refused }).run.saved = some v from saved]
  dsimp only
  unfold State.putBack
  simp only [← cut]
  rfl

theorem State.putBack_carr {v : Saved} : (s.putBack v).carr c = s.backCarr v c := by cases c <;> rfl

theorem State.refuseOrder_run {v : Saved} (saved : s.run.saved = some v) : s.refuseOrder.run = { s.run with
    orderFault := true, last := .refused
    ret := none, origin := none, saved := none, stage := none, held := none, unset := []
    answers := .all none, homeIssued := .both false
    state := if s.run.ret = some .stopped then .stopped else .idle } := by
  rw [State.refuseOrder_eq saved, State.goBack_run]
  have state : (match s.run.ret with
      | some q => q.run
      | none => RunState.idle) = if s.run.ret = some .stopped then .stopped else .idle := by
    cases s.run.ret with
    | none => rfl
    | some q => cases q <;> rfl
  exact congrArg (fun q => { s.run with
    orderFault := true, last := .refused
    ret := none, origin := none, saved := none, stage := none, held := none, unset := []
    answers := .all none, homeIssued := .both false, state := q }) state

/-! ## The home batches -/

theorem State.issueHome_due (stage : s.run.stage = some .homing) (fresh : s.run.homeIssued.get d = false)
    (home : ∀ c, sideOf c = d → (s.carr c).state ≠ .homing) : s.issueHome d =
      (s.updRun fun r => { r with homeIssued := r.homeIssued.set d true }).batch d .home := by
  refine if_pos ⟨stage, by rw [fresh]; nofun, fun any => ?_⟩
  obtain ⟨c, hc, at_⟩ := List.any_eq_true.1 any
  exact home c ((mem_carriagesOf c d).1 hc) (beq_iff_eq.1 at_)

theorem State.issueHome_not (h : ¬ (s.run.stage = some .homing ∧ s.run.homeIssued.get d = false ∧
    ∀ c, sideOf c = d → (s.carr c).state ≠ .homing)) : s.issueHome d = s := by
  refine if_neg fun ⟨stage, fresh, home⟩ => h ⟨stage, Bool.eq_false_iff.2 fresh, fun c hc at_ => home ?_⟩
  exact List.any_eq_true.2 ⟨c, (mem_carriagesOf c d).2 hc, beq_iff_eq.2 at_⟩

theorem State.issueHome_other (h : s.run.stage ≠ some .homing) : s.issueHome d = s :=
  State.issueHome_not fun due => h due.1

theorem State.confined_issueHome : Confined [.claims, .carriages, .linkOut, .disp, .run] s (s.issueHome d) :=
  .ite (fun _ => State.confined_updRun.mono.andThen State.confined_batch) fun _ => .refl _ s

/-- A home batch changes of the controller the mark that it was issued. -/
theorem State.issueHome_run : ∃ h, (s.issueHome d).run = { s.run with homeIssued := h } := by
  unfold State.issueHome
  by_cases due : s.run.stage = some .homing ∧ ¬ s.run.homeIssued.get d = true ∧ ¬ s.anyIn d .homing = true
  · rw [if_pos due, State.confined_batch.run]
    exact ⟨_, rfl⟩
  · rw [if_neg due]
    exact ⟨_, rfl⟩

/-- The batches of both sides. -/
def State.issueHomes (s : State) : State := (s.issueHome .top).issueHome .bottom

theorem State.issueHomes_run : ∃ h, s.issueHomes.run = { s.run with homeIssued := h } := by
  obtain ⟨h, first⟩ := State.issueHome_run (s := s) (d := .top)
  obtain ⟨h', second⟩ := State.issueHome_run (s := s.issueHome .top) (d := .bottom)
  exact ⟨h', by rw [State.issueHomes, second, first]⟩

theorem State.confined_issueHomes : Confined [.claims, .carriages, .linkOut, .disp, .run] s s.issueHomes :=
  State.confined_issueHome.andThen State.confined_issueHome

theorem State.issueHomes_other (h : s.run.stage ≠ some .homing) : s.issueHomes = s := by
  rw [State.issueHomes, State.issueHome_other h, State.issueHome_other h]

/-! ## How far STARTING goes -/

/-- STARTING is done. -/
def State.homed (s : State) : Prop := s.run.homeIssued = .both true ∧
  ∀ c, (s.cset c).enabled = true → (s.carr c).state ≠ .homing ∧ (s.carr c).state ≠ .travel

/-- The end of STARTING, once every carriage is home. -/
def State.homeEnds (s : State) : State :=
  if s.run.stage = some .homing ∧ s.run.homeIssued.top ∧ s.run.homeIssued.bottom ∧
      (allCarriages.all fun c =>
        !(s.cset c).enabled || !((s.carr c).state == .homing || (s.carr c).state == .travel)) then
    s.endStarting
  else s

/-- The answers are taken: the claims are built, or START is refused. -/
def State.takeAnswers (s : State) : State :=
  if s.setRested.allAnswered then
    if s.setRested.orderOk .top && s.setRested.orderOk .bottom then s.setRested.buildClaims else s.setRested.refuseOrder
  else s.setRested

theorem State.startLevel_eq :
    s.startLevel = (if s.run.stage = some .answers then s.takeAnswers else s).issueHomes.homeEnds := rfl

theorem State.homeEnds_other (h : s.run.stage ≠ some .homing) : s.homeEnds = s := if_neg fun g => h g.1

theorem State.homeEnds_homing (stage : s.run.stage = some .homing) :
    (¬ s.homed → s.homeEnds = s) ∧ (s.homed → s.homeEnds = s.endStarting) := by
  have done : (s.run.stage = some .homing ∧ s.run.homeIssued.top = true ∧ s.run.homeIssued.bottom = true ∧
      (allCarriages.all fun c =>
        !(s.cset c).enabled || !((s.carr c).state == .homing || (s.carr c).state == .travel)) = true) ↔ s.homed := by
    rw [and_iff_right stage, ← and_assoc, List.all_eq_true]
    refine and_congr ⟨fun ⟨top, bottom⟩ => ?_, fun both => ?_⟩ ⟨fun h c on => ?_, fun h c _ => ?_⟩
    · cases both : s.run.homeIssued with
      | mk a b =>
        rw [both] at top bottom
        obtain rfl : a = true := top
        obtain rfl : b = true := bottom
        rfl
    · rw [both]
      exact ⟨rfl, rfl⟩
    · simpa [on] using h c (mem_allCarriages c)
    · cases on : (s.cset c).enabled with
      | false => rfl
      | true => simpa using h c on
  exact ⟨fun h => if_neg fun g => h (done.1 g), fun h => if_pos (done.2 h)⟩

/-- The stage of the home batches. -/
theorem State.startLevel_homing (stage : s.run.stage = some .homing) :
    (¬ s.issueHomes.homed → s.startLevel = s.issueHomes) ∧
    (s.issueHomes.homed → s.startLevel = s.issueHomes.endStarting) := by
  have same : s.issueHomes.run.stage = some .homing := by
    obtain ⟨h, run⟩ := State.issueHomes_run (s := s)
    rw [run]
    exact stage
  rw [State.startLevel_eq, if_neg (by rw [stage]; nofun)]
  exact State.homeEnds_homing same

/-- In no stage of its own STARTING has nothing to do. -/
theorem State.startLevel_other (answers : s.run.stage ≠ some .answers) (homing : s.run.stage ≠ some .homing) :
    s.startLevel = s := by
  rw [State.startLevel_eq, if_neg answers, State.issueHomes_other homing, State.homeEnds_other homing]

theorem State.allAnswered_iff : s.allAnswered = true ↔ s.run.unset = [] ∧
    ∀ c, (s.cset c).enabled = true → s.run.answers.get c ≠ none ∨ (s.carr c).state = .fault := by
  rw [State.allAnswered, Bool.and_eq_true, List.isEmpty_iff, List.all_eq_true]
  refine and_congr_right fun _ => ⟨fun h c on => ?_, fun h c _ => ?_⟩
  · simpa [on, Option.isSome_iff_ne_none] using h c (mem_allCarriages c)
  · cases on : (s.cset c).enabled with
    | false => rfl
    | true => simpa [Option.isSome_iff_ne_none] using h c on

theorem State.setRested_sets : SetAll s s.run.unset s.setRested := State.setAll_sets _ _

/-- The stage of the answers. -/
theorem State.startLevel_answers (stage : s.run.stage = some .answers) :
    (s.setRested.allAnswered = false → s.startLevel = s.setRested) ∧
    (s.setRested.allAnswered = true → s.startLevel =
      if s.setRested.orderOk .top && s.setRested.orderOk .bottom then s.setRested.buildClaims.startLevel
      else s.setRested.refuseOrder) := by
  have same : s.setRested.run.stage = some .answers := by
    rw [State.setRested_sets.run]
    exact stage
  have rests {t : State} (h : t.run.stage ≠ some .homing) : t.issueHomes.homeEnds = t := by
    rw [State.issueHomes_other h, State.homeEnds_other h]
  rw [State.startLevel_eq, if_pos stage]
  refine ⟨fun waits => ?_, fun all => ?_⟩
  · rw [State.takeAnswers, waits]
    exact rests (by rw [if_neg nofun, same]; nofun)
  · rw [State.takeAnswers, all, if_pos rfl]
    by_cases pass : (s.setRested.orderOk .top && s.setRested.orderOk .bottom) = true
    · rw [if_pos pass, if_pos pass, State.startLevel_eq, if_neg (by rw [State.buildClaims_run]; nofun)]
    · rw [if_neg pass, if_neg pass]
      refine rests ?_
      unfold State.refuseOrder
      dsimp only
      split
      · rw [State.goBack_run]
        nofun
      · rw [State.goBack_run]
        nofun

/-! ## The entry to RUNNING -/

/-- The log and the chain as STARTING hands them to RUNNING. -/
def State.handLog (s : State) : State :=
  match s.run.held, s.run.origin with
    | some v, some .fromIdle => s.freshLog v
    | some v, _ => s.keepLog v
    | none, _ => s

/-- The steps that waited are tested again after a START from STOPPED. -/
def State.handReach (s : State) : State := if s.run.origin = some .fromStopped then s.markReach else s

theorem State.endStarting_eq : s.endStarting =
    ((((s.handLog.handReach.updRun fun r =>
      { r with chainBreak := false, origin := none, ret := none, stage := none, held := none, answers := .all none
               homeIssued := .both false }).updFetch fun f => { f with broken := false }).setRun
        .running).updateRefill).markScan := rfl

theorem State.confined_handLog : Confined [.log, .fetch, .hostMem] s s.handLog := by
  have fresh (v : StationValues) : Confined [.log, .fetch, .hostMem] s (s.freshLog v) :=
    ((State.confined_updLog.mono.andThen State.confined_updFetch).andThen State.confined_writeStation).andThen
      State.confined_writeStation
  have keeps (v : StationValues) : Confined [.log, .fetch, .hostMem] s (s.keepLog v) :=
    State.confined_updLog.mono.andThen State.confined_updFetch
  unfold State.handLog
  split
  · exact fresh _
  · exact keeps _
  · exact .refl _ s

theorem State.confined_handReach : Confined [.disp] s s.handReach :=
  .ite (fun _ => State.confined_markReach) fun _ => .refl _ s

theorem State.confined_endStarting : Confined [.log, .fetch, .hostMem, .disp, .run] s s.endStarting :=
  (((((State.confined_handLog.mono.andThen State.confined_handReach).andThen State.confined_updRun).andThen
    State.confined_updFetch).andThen State.confined_setRun).andThen State.confined_updateRefill).andThen
      State.confined_markScan

theorem State.endStarting_run : s.endStarting.run = { s.run with
    chainBreak := false, origin := none, ret := none, stage := none, held := none, answers := .all none
    homeIssued := .both false, state := .running } := by
  rw [State.endStarting_eq, State.confined_markScan.run, State.confined_updateRefill.run, State.setRun_run,
    State.confined_updFetch.run, State.updRun_run, State.confined_handReach.run, State.confined_handLog.run]

theorem State.endStarting_log : s.endStarting.log = s.handLog.log := by
  rw [State.endStarting_eq, State.confined_markScan.log, State.confined_updateRefill.log, State.confined_setRun.log,
    State.confined_updFetch.log, State.confined_updRun.log, State.confined_handReach.log]

theorem State.handReach_window : s.handReach.disp.window = s.disp.window := by
  unfold State.handReach
  split <;> rfl

theorem State.endStarting_disp : s.endStarting.disp = { s.handReach.disp with scan := true } := by
  have reach : s.handLog.handReach.disp = s.handReach.disp := by
    unfold State.handReach
    rw [State.confined_handLog.run]
    split
    · change { s.handLog.disp with reach := true } = { s.disp with reach := true }
      rw [State.confined_handLog.disp]
    · exact State.confined_handLog.disp
  rw [State.endStarting_eq]
  change { (State.updateRefill _).disp with scan := true } = _
  rw [State.confined_updateRefill.disp, State.confined_setRun.disp, State.confined_updFetch.disp,
    State.confined_updRun.disp, reach]

/-- What a hand-over leaves of the Fetcher. -/
theorem State.handLog_fetch : s.handLog.fetch.reading = s.fetch.reading ∧ s.handLog.fetch.refill = s.fetch.refill := by
  unfold State.handLog
  split
  · exact ⟨rfl, rfl⟩
  · exact ⟨rfl, rfl⟩
  · exact ⟨rfl, rfl⟩

theorem State.endStarting_fetch : s.endStarting.fetch = { s.handLog.fetch with
    broken := false, waiting := false
    refill :=
      let n := s.disp.window.length + (if ∃ g, s.fetch.reading = some ⟨.record, false, g⟩ then 1 else 0)
      if n < 12 then true else if 16 ≤ n then false else s.fetch.refill } := by
  obtain ⟨reading, refill⟩ := State.handLog_fetch (s := s)
  have fetch (t : State) (h : t.fetch = s.handLog.fetch) : ((t.updFetch fun f => { f with broken := false }).setRun .running).fetch =
      { s.handLog.fetch with broken := false, waiting := false } := by
    rw [State.setRun_fetch]
    change { t.fetch with broken := false, waiting := false } = _
    rw [h]
  rw [State.endStarting_eq, State.confined_markScan.fetch, State.updateRefill_fetch, State.occupied_eq, fetch,
    State.confined_setRun.disp, State.confined_updFetch.disp, State.confined_updRun.disp, State.handReach_window,
    State.confined_handLog.disp]
  · dsimp only
    rw [reading, refill]
  · rw [State.confined_updRun.fetch, State.confined_handReach.fetch]

/-! ## The Station Block of a fresh log -/

/-- Two offsets into the Station Block are two addresses. -/
theorem station_apart {p : Word64} {a b : Nat} (ha : a < 2 ^ 32) (hb : b < 2 ^ 32) (h : a ≠ b) :
    (p + BitVec.ofNat 64 a).toNat ≠ (p + BitVec.ofNat 64 b).toNat := by
  have hp := p.isLt
  simp only [BitVec.toNat_add, BitVec.toNat_ofNat, ne_eq]
  omega

theorem State.hostByte_writeZero {o j : Nat} (hj : j < 4) :
    (s.writeStation o 0).hostByte (s.station + BitVec.ofNat 64 (o + j)).toNat = some 0 := by
  have byte := State.hostByte_writeStation (s := s) (o := o) (w := 0) hj
  rw [BitVec.ofNat_add, ← BitVec.add_assoc]
  exact byte.trans (congrArg some (by simp))

theorem State.hostByte_setRun {q : RunState} {o j : Nat} (ho : o ∈ [0x24, 0x28]) (hj : j < 4) :
    (s.setRun q).hostByte (s.station + BitVec.ofNat 64 (o + j)).toNat =
      s.hostByte (s.station + BitVec.ofNat 64 (o + j)).toNat := by
  simp only [List.mem_cons, List.not_mem_nil, or_false] at ho
  unfold State.setRun
  dsimp only
  split
  · exact State.hostByte_writeStation_ne fun i hi => station_apart (by omega) (by omega) (by omega)
  · rfl

/-- The published count and the retired sequence of a fresh log are 0 in the Station Block. -/
theorem State.freshLog_bytes {v : StationValues} {o j : Nat} (ho : o ∈ [0x24, 0x28]) (hj : j < 4) :
    (s.freshLog v).hostByte (s.station + BitVec.ofNat 64 (o + j)).toNat = some 0 := by
  unfold State.freshLog
  dsimp only
  generalize h : ((s.updLog fun l =>
    { l with published := 0, widx := 0, drained := 0, notified := 0, room := .ready, reread := false, results := []
             dropped := 0, base := v.base, capacity := v.capacity, notify := v.notify, started := true }).updFetch fun f =>
    { f with pos := some ⟨v.head, 0, .steps, 0, .header⟩, expected := none, next := none, retire := []
             retiredSeq := 0, hold := none, pollMs := v.pollMs }) = t
  have station : t.station = s.station := by
    rw [← h]
    rfl
  rw [← station]
  simp only [List.mem_cons, List.not_mem_nil, or_false] at ho
  obtain rfl | rfl := ho
  · have apart := State.hostByte_writeStation_ne (s := t.writeStation 0x24 0) (o := 0x28) (v := 0)
      (a := (t.station + BitVec.ofNat 64 (0x24 + j)).toNat) fun i hi => station_apart (by omega) (by omega) (by omega)
    rw [apart]
    exact State.hostByte_writeZero hj
  · exact State.hostByte_writeZero (s := t.writeStation 0x24 0) hj

theorem State.endStarting_bytes {o j : Nat} (ho : o ∈ [0x24, 0x28]) (hj : j < 4) :
    s.endStarting.hostByte (s.station + BitVec.ofNat 64 (o + j)).toNat =
      s.handLog.hostByte (s.station + BitVec.ofNat 64 (o + j)).toNat := by
  rw [State.endStarting_eq]
  generalize h : ((s.handLog.handReach.updRun fun r =>
      { r with chainBreak := false, origin := none, ret := none, stage := none, held := none, answers := .all none
               homeIssued := .both false }).updFetch fun f => { f with broken := false }) = t
  have rest : Confined [.log, .fetch, .hostMem, .disp, .run] s t := by
    rw [← h]
    exact ((State.confined_handLog.mono.andThen State.confined_handReach).andThen State.confined_updRun).andThen
      State.confined_updFetch
  have station : t.station = s.station := State.station_congr (by rw [rest.regs])
  have mem : t.hostMem = s.handLog.hostMem := by
    rw [← h, State.confined_updFetch.hostMem, State.confined_updRun.hostMem, State.confined_handReach.hostMem]
  have byte := State.hostByte_setRun (s := t) (q := .running) ho hj
  rw [station] at byte
  refine Eq.trans ?_ (byte.trans ?_)
  · rw [State.hostByte, State.hostByte, State.confined_markScan.hostMem, State.confined_updateRefill.hostMem]
  · rw [State.hostByte, State.hostByte, mem]
end
end Sys2Proof.Machine
end

section
/-! PROOFS. O30: STARTING from the answers to the entry to RUNNING. -/

set_option Elab.async false

namespace Sys2Proof.Machine

section
variable {s u v : State} {d : Side} {w : StationValues}

/-- A carriage of the unset list is set when it has come to rest. -/
theorem State.setsOf_unset {c : Carriage} (h : c ∈ s.run.unset) : s.setsOf s.run.unset c = (s.carr c).settable := by
  rw [State.setsOf, List.contains_iff_mem.2 h, Bool.true_and]

theorem State.setRested_run : s.setRested.run = { s.run with
    saved := s.setRested.run.saved, unset := s.run.unset.filter fun c => !(s.carr c).settable } := by
  have same : (s.run.unset.filter fun c => !s.setsOf s.run.unset c) = s.run.unset.filter fun c => !(s.carr c).settable :=
    List.filter_congr fun c hc => by rw [State.setsOf_unset hc]
  rw [← same]
  exact State.setRested_sets.run

theorem backRecord_eq {b r : CarriageRec} {set : Bool} : (if set then backRecord b r else b) =
    if set && !b.settable then { r with position := b.position } else b := by
  unfold backRecord
  cases set <;> cases b.settable <;> rfl

/-- The log handed over by a START from IDLE, and what it leaves of the Fetcher. -/
structure HandsFresh (s u : State) (w : StationValues) : Prop where
  log : u.log = { s.log with
    published := 0, widx := 0, drained := 0, notified := 0, room := .ready, reread := false, results := []
    dropped := 0, base := w.base, capacity := w.capacity, notify := w.notify, started := true }
  fetch : u.fetch.pos = some ⟨w.head, 0, .steps, 0, .header⟩ ∧ u.fetch.expected = none ∧ u.fetch.retire = [] ∧
    u.fetch.retiredSeq = 0 ∧ u.fetch.pollMs = w.pollMs
  bytes : ∀ o ∈ [0x24, 0x28], ∀ j < 4, u.hostByte (s.station + BitVec.ofNat 64 (o + j)).toNat = some 0

theorem State.endStarting_fresh (held : s.run.held = some w) (origin : s.run.origin = some .fromIdle) :
    HandsFresh s s.endStarting w := by
  have hands : s.handLog = s.freshLog w := by
    unfold State.handLog
    rw [held, origin]
  refine ⟨?_, ?_, fun o ho j hj => ?_⟩
  · rw [State.endStarting_log, hands]
    rfl
  · rw [State.endStarting_fetch, hands]
    exact ⟨rfl, rfl, rfl, rfl, rfl⟩
  · rw [State.endStarting_bytes ho hj, hands]
    exact State.freshLog_bytes ho hj

/-- The log handed over by a START from STOPPED. -/
structure HandsKept (s u : State) (w : StationValues) : Prop where
  reach : u.disp.reach = true
  log : u.log = { s.log with notify := w.notify }
  fetch : u.fetch.pollMs = w.pollMs ∧ u.fetch.pos = s.fetch.pos ∧ u.fetch.expected = s.fetch.expected ∧
    u.fetch.retire = s.fetch.retire

theorem State.endStarting_kept (held : s.run.held = some w) (origin : s.run.origin = some .fromStopped) :
    HandsKept s s.endStarting w := by
  have hands : s.handLog = s.keepLog w := by
    unfold State.handLog
    rw [held, origin]
  refine ⟨?_, ?_, ?_⟩
  · rw [State.endStarting_disp, State.handReach, if_pos origin]
    rfl
  · rw [State.endStarting_log, hands]
    rfl
  · rw [State.endStarting_fetch, hands]
    exact ⟨rfl, rfl, rfl, rfl⟩
end

end Sys2Proof.Machine

open Sys2Proof Sys2Proof.Machine in
/-- Settles O30: the answers one by one, the order check and the build by the gaps of the silent carriages, and the stages
of STARTING up to the hand-over of the log. -/
theorem homingAnswers : Obligations.HomingAnswers := by
  refine ⟨fun s c p up state awaits => ?_, fun s => ?_, fun s c state awaits => ?_, fun s lanes d => ?_,
    fun s answers homing => State.startLevel_other answers homing, fun s stage => ?_, fun s => ?_, fun s v saved => ?_,
    fun s d => ?_, fun s stage => ?_⟩
  · exact ⟨_, execPosition_homing state awaits, State.confined_answerQuery.eq_mix, State.answerQuery_run,
      State.answerQuery_linkOut, fun x => State.carr_answerQuery⟩
  · intro atRest sets asks
    have all := State.setRested_sets (s := s)
    obtain ⟨asked, linkOut, nodup, sublist, mem⟩ := all.asked
    refine ⟨_, asked, rfl, all.rest.eq_mix, State.setRested_run, all.carr, linkOut, nodup, sublist, mem, all.none_, fun v hv => ?_⟩
    obtain ⟨w, hw, setup, claims, back⟩ := all.saved v hv
    exact ⟨w, hw, setup, claims, fun c => (back c).trans backRecord_eq⟩
  · obtain ⟨probe, request, stage⟩ := State.liftedHome_carr state
    exact ⟨_, execLifted_homing state awaits, probe, request, stage, State.confined_liftedHome.claims⟩
  · intro asked answered silent between
    refine ⟨State.orderOk_iff lanes, fun ok c n => ?_⟩
    rw [State.buildClaims_table]
    exact State.builtCells_iff lanes ok
  · intro v answered pass
    have cset (c : Carriage) : v.cset c = s.cset c := by rw [State.cset, State.cset, State.setRested_sets.rest.setup]
    have answers : v.run.answers = s.run.answers := by rw [State.setRested_sets.run]
    have all : v.allAnswered = true ↔ answered := by
      rw [State.allAnswered_iff]
      simp only [cset, answers]
      rfl
    obtain ⟨waits, goes⟩ := State.startLevel_answers stage
    exact ⟨fun h => waits (Bool.eq_false_iff.2 fun a => h (all.1 a)), fun h => goes (all.2 h)⟩
  · intro u
    have run := State.buildClaims_run (s := s)
    refine ⟨fun d => ?_, by rw [run], by rw [run], by rw [run], State.confined_buildClaims.setup,
      State.confined_buildClaims.linkOut, fun c => ?_⟩
    · rw [State.buildClaims_table]
    · obtain ⟨silent, answers⟩ := State.buildClaims_built (s := s) (c := c)
      exact ⟨silent, answers⟩
  · intro u
    have run := State.refuseOrder_run saved
    have back : u = (s.putBack v).goBack := State.refuseOrder_eq saved
    refine ⟨by rw [run], by rw [run], by rw [run], by rw [run], ?_, ?_, ?_, ?_, ?_, fun c => ?_⟩
    · rw [back, State.confined_goBack.setup]
      rfl
    · rw [back, State.confined_goBack.claims]
      rfl
    · rw [back, State.confined_goBack.log]
      rfl
    · rw [back, State.confined_goBack.disp]
      rfl
    · rw [back, State.confined_goBack.linkOut]
      rfl
    · rw [back, State.confined_goBack.carr, State.putBack_carr]
      rfl
  · intro due
    exact ⟨fun ⟨stage, fresh, home⟩ => State.issueHome_due stage fresh home, State.issueHome_not⟩
  · intro v
    have homes : v = s.issueHomes := rfl
    clear_value v
    subst homes
    intro finished
    have rest := State.confined_issueHomes (s := s)
    obtain ⟨h, run⟩ := State.issueHomes_run (s := s)
    have done : s.issueHomes.homed ↔ finished := by
      unfold State.homed
      simp only [State.cset, rest.setup]
      rfl
    obtain ⟨waits, goes⟩ := State.startLevel_homing stage
    refine ⟨fun h => waits fun g => h (done.1 g), fun fin => ?_⟩
    intro u
    have ends : u = s.issueHomes.endStarting := goes (done.2 fin)
    clear_value u
    subst ends
    have finalRun := State.endStarting_run (s := s.issueHomes)
    have disp := State.endStarting_disp (s := s.issueHomes)
    have fetch := State.endStarting_fetch (s := s.issueHomes)
    have length : s.issueHomes.disp.window.length = s.disp.window.length :=
      (State.slotsKept_issueHome.andThen State.slotsKept_issueHome : SlotsKept s s.issueHomes).length
    have station : s.issueHomes.station = s.station := State.station_congr (by rw [rest.regs])
    refine ⟨by rw [finalRun], by rw [finalRun], by rw [fetch], by rw [finalRun], by rw [finalRun], by rw [finalRun],
      by rw [disp], ?_, State.confined_endStarting.claims, State.confined_endStarting.carriages,
      State.confined_endStarting.linkOut, State.confined_endStarting.setup.trans rest.setup, ?_, fun w held origin => ?_,
      fun w held origin => ?_⟩
    · rw [disp]
      exact State.handReach_window
    · intro n
      rw [fetch, length, rest.fetch]
    · obtain ⟨log, ⟨pos, expected, retire, retiredSeq, pollMs⟩, bytes⟩ :=
        State.endStarting_fresh (s := s.issueHomes) (w := w) (by rw [run]; exact held) (by rw [run]; exact origin)
      rw [rest.log] at log
      rw [station] at bytes
      exact ⟨log, pos, expected, retire, retiredSeq, pollMs, bytes⟩
    · obtain ⟨reach, log, pollMs, pos, expected, retire⟩ :=
        State.endStarting_kept (s := s.issueHomes) (w := w) (by rw [run]; exact held) (by rw [run]; exact origin)
      rw [rest.log] at log
      rw [rest.fetch] at pos expected retire
      exact ⟨reach, log, pollMs, pos, expected, retire⟩
end

section
/-! PROOFS. The parks of STOP, ABORT and BOARD_END, their batches, and the ends of a drain and of an abort (R38, R123, R167,
R196, R197, AL 24, AL 28, AL 55). -/

set_option Elab.async false

namespace Sys2Proof.Machine

section
variable {s t : State} {c x y : Carriage} {d : Side} {l : List Carriage} {lane : Carriage → Nat}

/-! ## The order of a batch -/

/-- Carriages listed with their target lanes, in the order of their orders: right-movers, left-movers, the others. -/
def State.moveOrder (s : State) (l : List Carriage) (lane : Carriage → Nat) : List Carriage :=
  (l.filter fun c => s.laneNow c < lane c).reverse ++ (l.filter fun c => lane c < s.laneNow c) ++
    l.filter fun c => lane c == s.laneNow c

theorem State.batchOrder_map : s.batchOrder (l.map fun c => (c, lane c)) = s.moveOrder l lane := by
  simp [State.batchOrder, State.moveOrder, List.filter_map, Function.comp_def, List.map_reverse]

theorem State.mem_moveOrder : c ∈ s.moveOrder l lane ↔ c ∈ l := by
  simp only [State.moveOrder, List.mem_append, List.mem_reverse, List.mem_filter, decide_eq_true_eq, beq_iff_eq,
    ← and_or_left, and_iff_left_iff_imp]
  omega

/-- How a carriage stands to one that comes later in a batch. -/
def State.ordersBefore (s : State) (lane : Carriage → Nat) (x y : Carriage) : Prop :=
  (s.laneNow x < lane x → lane y ≤ s.laneNow y ∨ driveNumber y < driveNumber x) ∧
  (lane x < s.laneNow x → lane y ≤ s.laneNow y ∧ (lane y < s.laneNow y → driveNumber x < driveNumber y)) ∧
  (lane x = s.laneNow x → lane y = s.laneNow y ∧ driveNumber x < driveNumber y)

theorem State.moveOrder_pairwise (sorted : l.Pairwise fun x y => driveNumber x < driveNumber y) :
    (s.moveOrder l lane).Pairwise (s.ordersBefore lane) := by
  have right : (l.filter fun c => s.laneNow c < lane c).reverse.Pairwise (s.ordersBefore lane) := by
    refine List.pairwise_reverse.2 ((sorted.filter _).imp_of_mem fun {x y} hx hy order => ?_)
    have movesX : s.laneNow x < lane x := by simpa using (List.mem_filter.1 hx).2
    have movesY : s.laneNow y < lane y := by simpa using (List.mem_filter.1 hy).2
    exact ⟨fun _ => .inr order, fun h => by omega, fun h => by omega⟩
  have left : (l.filter fun c => lane c < s.laneNow c).Pairwise (s.ordersBefore lane) := by
    refine (sorted.filter _).imp_of_mem fun {x y} hx hy order => ?_
    have movesX : lane x < s.laneNow x := by simpa using (List.mem_filter.1 hx).2
    have movesY : lane y < s.laneNow y := by simpa using (List.mem_filter.1 hy).2
    exact ⟨fun h => by omega, fun _ => ⟨movesY.le, fun _ => order⟩, fun h => by omega⟩
  have stays : (l.filter fun c => lane c == s.laneNow c).Pairwise (s.ordersBefore lane) := by
    refine (sorted.filter _).imp_of_mem fun {x y} hx hy order => ?_
    have movesX : lane x = s.laneNow x := by simpa using (List.mem_filter.1 hx).2
    have movesY : lane y = s.laneNow y := by simpa using (List.mem_filter.1 hy).2
    exact ⟨fun h => by omega, fun h => by omega, fun _ => ⟨movesY, order⟩⟩
  refine List.pairwise_append.2 ⟨List.pairwise_append.2 ⟨right, left, fun x hx y hy => ?_⟩, stays, fun x hx y hy => ?_⟩
  · have movesX : s.laneNow x < lane x := by simpa using (List.mem_filter.1 (List.mem_reverse.1 hx)).2
    have movesY : lane y < s.laneNow y := by simpa using (List.mem_filter.1 hy).2
    exact ⟨fun _ => .inl movesY.le, fun h => by omega, fun h => by omega⟩
  · have movesY : lane y = s.laneNow y := by simpa using (List.mem_filter.1 hy).2
    have movesX : s.laneNow x < lane x ∨ lane x < s.laneNow x := by
      obtain hx | hx := List.mem_append.1 hx
      · exact .inl (by simpa using (List.mem_filter.1 (List.mem_reverse.1 hx)).2)
      · exact .inr (by simpa using (List.mem_filter.1 hx).2)
    exact ⟨fun _ => .inl movesY.le, fun _ => ⟨movesY.le, fun h => by omega⟩, fun h => by omega⟩

theorem State.moveOrder_nodup (sorted : l.Pairwise fun x y => driveNumber x < driveNumber y) :
    (s.moveOrder l lane).Nodup := by
  have nodup : l.Nodup := sorted.imp fun h e => absurd (congrArg driveNumber e) h.ne
  refine List.nodup_append.2 ⟨List.nodup_append.2 ⟨List.nodup_reverse.2 (nodup.filter _), nodup.filter _, ?_⟩,
    nodup.filter _, ?_⟩
  · intro x hx y hy e
    have right : s.laneNow x < lane x := by simpa using (List.mem_filter.1 (List.mem_reverse.1 hx)).2
    have left : lane y < s.laneNow y := by simpa using (List.mem_filter.1 hy).2
    subst e
    omega
  · intro x hx y hy e
    have stays : lane y = s.laneNow y := by simpa using (List.mem_filter.1 hy).2
    subst e
    obtain hx | hx := List.mem_append.1 hx
    · have : s.laneNow x < lane x := by simpa using (List.mem_filter.1 (List.mem_reverse.1 hx)).2
      omega
    · have : lane x < s.laneNow x := by simpa using (List.mem_filter.1 hx).2
      omega

/-- The carriages of a side that stand IDLE. -/
def State.idleOn (s : State) (d : Side) : List Carriage := (carriagesOf d).filter fun c => (s.carr c).state == .idle

theorem State.idleOn_sorted : (s.idleOn d).Pairwise fun x y => driveNumber x < driveNumber y :=
  (carriagesOf_sorted d).filter _

theorem State.mem_idleOn : c ∈ s.idleOn d ↔ sideOf c = d ∧ (s.carr c).state = .idle := by
  rw [State.idleOn, List.mem_filter, mem_carriagesOf, beq_iff_eq]

/-- The park positions are those of the setup, whatever the orders before have moved. -/
theorem State.parkAll_setup {purpose : Purpose} (l : List Carriage) (h : t.setup = s.setup) :
    l.foldl (fun u c => u.orderTravel c purpose none (u.parkPos c)) t =
      l.foldl (fun u c => u.orderTravel c purpose none (s.parkPos c)) t := by
  induction l generalizing t with
  | nil => rfl
  | cons c rest ih =>
    have park : t.parkPos c = s.parkPos c := by rw [State.parkPos, State.parkPos, State.cset, State.cset, h]
    rw [List.foldl_cons, List.foldl_cons, park]
    exact ih (State.confined_orderTravel.setup.trans h)

theorem State.batch_eq {purpose : Purpose} : s.batch d purpose =
    (s.moveOrder (s.idleOn d) fun c => s.setup.laneFor c (s.cset c).parkX).foldl
      (fun u c => u.orderTravel c purpose none (s.parkPos c)) s := by
  have order : s.batch d purpose = (s.moveOrder (s.idleOn d) fun c => s.setup.laneFor c (s.cset c).parkX).foldl
      (fun u c => u.orderTravel c purpose none (u.parkPos c)) s :=
    congrArg (fun l => List.foldl (fun u c => State.orderTravel c purpose none (State.parkPos u c) u) s l)
      (State.batchOrder_map (s := s) (l := s.idleOn d) (lane := fun c => s.setup.laneFor c (s.cset c).parkX))
  rw [order, State.parkAll_setup _ rfl]

/-! ## Parks -/

/-- The carriages in service of a side are IDLE. -/
def State.restsOn (s : State) (d : Side) : Prop :=
  ∀ c, sideOf c = d → (s.carr c).inService = true → (s.carr c).state = .idle

theorem State.sideIdle_iff : s.sideIdle d = true ↔ s.restsOn d := by
  rw [State.sideIdle, State.inService, List.all_eq_true]
  refine forall_congr' fun c => ?_
  rw [List.mem_filter, mem_carriagesOf, and_imp, beq_iff_eq]

theorem State.anyTravel_iff : ¬ s.anyIn d .travel = true ↔ ∀ c, sideOf c = d → (s.carr c).state ≠ .travel := by
  rw [State.anyIn, List.any_eq_true, not_exists]
  refine forall_congr' fun c => ?_
  rw [mem_carriagesOf, not_and, beq_iff_eq]

theorem State.runPark_not (h : ¬ (s.run.runPark.get d = .due ∧ s.run.framePark.get d = .none ∧ s.restsOn d)) :
    s.runPark d = s := if_neg fun ⟨due, none_, idle⟩ => h ⟨due, none_, State.sideIdle_iff.1 idle⟩

theorem State.runPark_due (h : s.run.runPark.get d = .due ∧ s.run.framePark.get d = .none ∧ s.restsOn d) : s.runPark d =
    (s.updRun fun r => { r with runPark := r.runPark.set d .issued }).batch d .park :=
  if_pos ⟨h.1, h.2.1, State.sideIdle_iff.2 h.2.2⟩

theorem State.runPark_run : ∃ p, (s.runPark d).run = { s.run with runPark := p } := by
  by_cases due : s.run.runPark.get d = .due ∧ s.run.framePark.get d = .none ∧ s.restsOn d
  · rw [State.runPark_due due, State.confined_batch.run]
    exact ⟨_, rfl⟩
  · rw [State.runPark_not due]
    exact ⟨_, rfl⟩

/-- The parks of both sides, the top side first. -/
def State.runParks (s : State) : State := (s.runPark .top).runPark .bottom

theorem State.confined_runParks : Confined [.claims, .carriages, .linkOut, .disp, .run] s s.runParks :=
  State.confined_runPark.andThen State.confined_runPark

theorem State.runParks_run : ∃ p, s.runParks.run = { s.run with runPark := p } := by
  obtain ⟨p, first⟩ := State.runPark_run (s := s) (d := .top)
  obtain ⟨q, second⟩ := State.runPark_run (s := s.runPark .top) (d := .bottom)
  exact ⟨q, by rw [State.runParks, second, first]⟩

/-- A park of a frame marked over. -/
def State.parkOver (d : Side) (s : State) : State := s.updRun fun r => { r with framePark := r.framePark.set d .none }

/-- A park of a frame that is due is issued once the side rests. -/
def State.issueFramePark (d : Side) (s : State) : State :=
  if s.run.framePark.get d = .due ∧ s.sideIdle d then
    (s.updRun fun r => { r with framePark := r.framePark.set d .issued }).batch d .park
  else s

/-- A park of a frame that is issued is over once nothing of the side travels. -/
def State.endFramePark (d : Side) (s : State) : State :=
  if s.run.framePark.get d = .issued ∧ ¬ s.anyIn d .travel then s.parkOver d else s

theorem State.framePark_eq : s.framePark d = (s.issueFramePark d).endFramePark d := rfl

theorem State.framePark_stays (h : ¬ (s.run.framePark.get d = .due ∧ s.restsOn d)) : s.framePark d = s.endFramePark d := by
  have stays : s.issueFramePark d = s := if_neg fun ⟨due, idle⟩ => h ⟨due, State.sideIdle_iff.1 idle⟩
  rw [State.framePark_eq, stays]

theorem State.framePark_due (h : s.run.framePark.get d = .due) (idle : s.restsOn d) : s.framePark d =
    ((s.updRun fun r => { r with framePark := r.framePark.set d .issued }).batch d .park).endFramePark d := by
  have issues : s.issueFramePark d = (s.updRun fun r => { r with framePark := r.framePark.set d .issued }).batch d .park :=
    if_pos ⟨h, State.sideIdle_iff.2 idle⟩
  rw [State.framePark_eq, issues]

theorem State.endFramePark_over (h : s.run.framePark.get d = .issued) (still : ∀ c, sideOf c = d → (s.carr c).state ≠ .travel) :
    s.endFramePark d = s.parkOver d := if_pos ⟨h, State.anyTravel_iff.2 still⟩

theorem State.endFramePark_stays
    (h : ¬ (s.run.framePark.get d = .issued ∧ ∀ c, sideOf c = d → (s.carr c).state ≠ .travel)) : s.endFramePark d = s :=
  if_neg fun ⟨issued, still⟩ => h ⟨issued, State.anyTravel_iff.1 still⟩

/-! ## The ends of a drain and of an abort -/

/-- Both parks are issued, nothing travels, and the Fetcher reads nothing. -/
def State.atRest (s : State) : Prop := s.runParks.run.runPark = .both .issued ∧
  (∀ c, (s.runParks.carr c).state ≠ .travel) ∧ s.fetch.reading = none

theorem State.parked_iff : (s.parked .top = true ∧ s.parked .bottom = true) ↔
    s.run.runPark = .both .issued ∧ ∀ c, (s.carr c).state ≠ .travel := by
  have one (d : Side) : s.parked d = true ↔
      s.run.runPark.get d = .issued ∧ ∀ c, sideOf c = d → (s.carr c).state ≠ .travel := by
    rw [State.parked, Bool.and_eq_true, beq_iff_eq, Bool.not_eq_true', ← Bool.not_eq_true, State.anyTravel_iff]
  rw [one, one]
  constructor
  · rintro ⟨⟨top, stillTop⟩, bottom, stillBottom⟩
    refine ⟨?_, fun c => ?_⟩
    · cases parks : s.run.runPark with
      | mk a b =>
        rw [parks] at top bottom
        obtain rfl : a = .issued := top
        obtain rfl : b = .issued := bottom
        rfl
    · cases side : sideOf c with
      | top => exact stillTop c side
      | bottom => exact stillBottom c side
  · rintro ⟨parks, still⟩
    rw [parks]
    exact ⟨⟨rfl, fun c _ => still c⟩, rfl, fun c _ => still c⟩

theorem State.atRest_iff : s.atRest ↔
    s.runParks.parked .top = true ∧ s.runParks.parked .bottom = true ∧ s.runParks.fetch.reading = none := by
  rw [← and_assoc, State.parked_iff, State.confined_runParks.fetch, and_assoc]
  rfl

theorem State.quiet_iff : s.quiet = true ↔
    ∀ e ∈ s.disp.window, e.state = .waiting ∨ e.state = .held ∨ e.state = .done := by
  rw [State.quiet, List.all_eq_true]
  refine forall_congr' fun e => forall_congr' fun _ => ?_
  cases e.state <;> decide

/-- What ends a drain or an abort: the parks are over, the controller state is taken, and a CALIBRATE pending follows. -/
structure Ends (s : State) (q : RunState) (r : ReturnState) (u : State) : Prop where
  state : u.run.state = if s.run.pendingCal = true then .calibrating else q
  mu : u.mu = { s.mu with calOrder := s.mu.calOrder || s.run.pendingCal }
  calibrates : s.run.pendingCal = true → u.run.ret = some r ∧ u.run.pendingCal = false
  runPark : u.run.runPark = .both .none
  rest : Confined [.run, .fetch, .hostMem, .regs, .mu] s.runParks u

theorem State.calibratePending_ends {q : RunState} {r : ReturnState} (state : t.run.state = q)
    (runPark : t.run.runPark = .both .none) (pending : t.run.pendingCal = s.run.pendingCal) (mu : t.mu = s.mu)
    (rest : Confined [.run, .fetch, .hostMem, .regs] s.runParks t) : Ends s q r (t.calibratePending r) := by
  have after : Confined [.run, .fetch, .hostMem, .regs, .mu] s.runParks (t.calibratePending r) :=
    rest.mono.andThen State.confined_calibratePending
  cases due : s.run.pendingCal with
  | true =>
    rw [due] at pending
    have run : (t.calibratePending r).run = { t.run with pendingCal := false, ret := some r, state := .calibrating } := by
      rw [State.calibratePending_due pending, State.setRun_run]
      rfl
    refine ⟨by rw [run, due]; rfl, ?_, fun _ => by rw [run]; exact ⟨rfl, rfl⟩, by rw [run]; exact runPark, after⟩
    rw [State.calibratePending_due pending, State.confined_setRun.mu, due, Bool.or_true, ← mu]
    rfl
  | false =>
    rw [due] at pending
    rw [State.calibratePending_none pending]
    refine ⟨by rw [state, due]; rfl, by rw [mu, due, Bool.or_false], fun h => ?_, runPark, rest.mono⟩
    rw [due] at h
    cases h

/-- The parks over and the controller state taken. -/
def State.restIn (s : State) (q : RunState) : State := (s.runParks.updRun fun r => { r with runPark := .both .none }).setRun q

theorem State.restIn_run {q : RunState} : (s.restIn q).run = { s.run with runPark := .both .none, state := q } := by
  obtain ⟨p, run⟩ := State.runParks_run (s := s)
  rw [State.restIn, State.setRun_run, State.updRun_run, run]

theorem State.confined_restIn {q : RunState} : Confined [.run, .fetch, .hostMem] s.runParks (s.restIn q) :=
  State.confined_updRun.mono.andThen State.confined_setRun

theorem State.drainLevel_eq : s.drainLevel = if s.run.state = .draining ∧ s.quiet = true then
    (if s.runParks.parked .top = true ∧ s.runParks.parked .bottom = true ∧ s.runParks.fetch.reading = none then
      ((s.restIn .stopped).raise .stopped).calibratePending .stopped else s.runParks) else s := rfl

theorem State.abortLevel_eq : s.abortLevel = if s.run.state = .aborting then
    (if s.runParks.parked .top = true ∧ s.runParks.parked .bottom = true ∧ s.runParks.abortLogged = true ∧
        s.runParks.fetch.reading = none then
      (s.restIn .idle).calibratePending .idle else s.runParks) else s := rfl

theorem State.drainLevel_idle (h : s.run.state ≠ .draining ∨ ¬ s.quiet = true) : s.drainLevel = s := by
  rw [State.drainLevel_eq]
  exact if_neg fun ⟨state, quiet⟩ => h.elim (fun other => other state) fun busy => busy quiet

theorem State.drainLevel_waits (state : s.run.state = .draining) (quiet : s.quiet = true) (h : ¬ s.atRest) :
    s.drainLevel = s.runParks := by
  rw [State.drainLevel_eq, if_pos ⟨state, quiet⟩]
  exact if_neg fun g => h (State.atRest_iff.2 g)

theorem State.drainLevel_ends (state : s.run.state = .draining) (quiet : s.quiet = true) (h : s.atRest) :
    Ends s .stopped .stopped s.drainLevel ∧ s.drainLevel.regs = { s.regs with intStatus := s.regs.intStatus ||| 16 } := by
  rw [State.drainLevel_eq, if_pos ⟨state, quiet⟩, if_pos (State.atRest_iff.1 h)]
  have run : ((s.restIn .stopped).raise .stopped).run = { s.run with runPark := .both .none, state := .stopped } :=
    State.restIn_run
  refine ⟨State.calibratePending_ends (by rw [run]) (by rw [run]) (by rw [run]) ?_
    (State.confined_restIn.mono.andThen State.confined_raise), ?_⟩
  · exact State.confined_raise.mu.trans (State.confined_restIn.mu.trans State.confined_runParks.mu)
  · rw [State.confined_calibratePending.regs]
    change { (s.restIn .stopped).regs with intStatus := (s.restIn .stopped).regs.intStatus ||| causeBit .stopped } = _
    rw [State.confined_restIn.regs, State.confined_runParks.regs]
    rfl

theorem State.abortLevel_idle (h : s.run.state ≠ .aborting) : s.abortLevel = s := by
  rw [State.abortLevel_eq]
  exact if_neg h

/-- Nothing of the log is due or in progress. -/
theorem State.abortLogged_iff : s.runParks.abortLogged = true ↔ s.log.writing = none ∧ s.frame.abortDiscards = none := by
  rw [State.abortLogged, Bool.and_eq_true, Option.isNone_iff_eq_none, Option.isNone_iff_eq_none,
    State.confined_runParks.log, State.confined_runParks.frame]

theorem State.abortEnds_iff : s.atRest ∧ s.log.writing = none ∧ s.frame.abortDiscards = none ↔
    s.runParks.parked .top = true ∧ s.runParks.parked .bottom = true ∧ s.runParks.abortLogged = true ∧
      s.runParks.fetch.reading = none := by
  rw [State.atRest_iff, State.abortLogged_iff]
  tauto

theorem State.abortLevel_waits (state : s.run.state = .aborting)
    (h : ¬ (s.atRest ∧ s.log.writing = none ∧ s.frame.abortDiscards = none)) : s.abortLevel = s.runParks := by
  rw [State.abortLevel_eq, if_pos state]
  exact if_neg fun g => h (State.abortEnds_iff.2 g)

theorem State.abortLevel_ends (state : s.run.state = .aborting)
    (h : s.atRest ∧ s.log.writing = none ∧ s.frame.abortDiscards = none) :
    Ends s .idle .idle s.abortLevel ∧ s.abortLevel.regs = s.regs := by
  rw [State.abortLevel_eq, if_pos state, if_pos (State.abortEnds_iff.1 h)]
  have run := State.restIn_run (s := s) (q := .idle)
  refine ⟨State.calibratePending_ends (by rw [run]) (by rw [run]) (by rw [run]) ?_ State.confined_restIn.mono, ?_⟩
  · exact State.confined_restIn.mu.trans State.confined_runParks.mu
  · rw [State.confined_calibratePending.regs, State.confined_restIn.regs, State.confined_runParks.regs]

/-! ## A FRAME_END written -/

theorem State.frameEndWritten_hold : s.frameEndWritten.fetch.hold =
    if s.fetch.hold = some .frameEnd then (if s.parksAtEnd then some .park else none) else s.fetch.hold := by
  have closed : s.closeFrame.fetch.hold =
      if s.fetch.hold = some .frameEnd then (if s.parksAtEnd then some .park else none) else s.fetch.hold := by
    unfold State.closeFrame
    cases s.parksAtEnd <;> rfl
  rw [State.confined_frameEnd.fetch]
  unfold State.settleFrame
  split
  · rw [State.owesLess_fetch, closed]
  · exact closed

theorem State.frameEndWritten_pos : s.frameEndWritten.fetch.pos = s.fetch.pos := by
  rw [State.confined_frameEnd.fetch, State.settleFrame_fetch]

theorem State.orderPendingCal_framePark : s.orderPendingCal.run.framePark = s.run.framePark := by
  unfold State.orderPendingCal
  split <;> rfl

theorem State.frameEndWritten_framePark : s.frameEndWritten.run.framePark =
    if s.parksAtEnd then .both .due else s.run.framePark := by
  have closed : s.closeFrame.run.framePark = if s.parksAtEnd then .both .due else s.run.framePark := by
    unfold State.closeFrame
    cases s.parksAtEnd <;> rfl
  have settled : s.settleFrame.run = s.closeFrame.run := by
    unfold State.settleFrame
    split
    · exact State.confined_owesLess.run
    · rfl
  rw [State.frameEndWritten_eq]
  split
  · rw [State.orderPendingCal_framePark, settled, closed]
  · rw [settled, closed]

theorem State.parksAtEnd_iff : s.parksAtEnd = true ↔
    s.frame.parkOnClose = true ∧ s.frame.abortDiscards = none ∧ s.run.state ∈ [.running, .draining] := by
  rw [State.parksAtEnd, Bool.and_eq_true, Bool.and_eq_true, Option.isNone_iff_eq_none, State.parksNow_iff, and_assoc]
end

end Sys2Proof.Machine

open Sys2Proof Sys2Proof.Machine in
/-- Settles O16: the parks and the ends of a drain and of an abort, each by what it waits for; a batch is the side's idle
carriages in three runs by the way they move. -/
theorem stopDrains : Obligations.StopDrains := by
  refine ⟨fun s running => ?_, fun s => rfl, fun s d => ⟨State.runPark_not, State.runPark_due⟩, fun s => rfl,
    fun s bytes writing => ?_, fun s d => ?_, fun s => ⟨fun hold parks => if_pos ⟨hold, parks⟩, fun h => ?_⟩,
    fun s p a pos phase next => ⟨fun holds => ?_, fun free => ?_⟩, fun s => ?_, fun s => ?_, fun s d purpose => ?_⟩
  · refine ⟨(s.setLast .accepted).beginDrain, ?_, ?_⟩
    · change execStop s = _
      unfold execStop
      rw [running]
    · conv_lhs => rw [State.beginDrain, State.setRun_eq]
      rfl
  · intro parks
    have parksIff := State.parksAtEnd_iff (s := s.writeHost (s.log.base + BitVec.ofNat 64 (32 * s.log.widx)) bytes)
    refine ⟨((s.writeHost (s.log.base + BitVec.ofNat 64 (32 * s.log.widx)) bytes).frameEndWritten).updLog fun l =>
      { l with writing := some ⟨.frameEnd, bytes, .publish⟩ }, ?_, ?_, fun hold => ?_, fun other => ?_,
      State.frameEndWritten_pos⟩
    · change execEntryWritten s = _
      unfold execEntryWritten
      simp only [writing]
      rfl
    · refine State.frameEndWritten_framePark.trans (if_congr parksIff rfl rfl)
    · refine State.frameEndWritten_hold.trans ((if_pos hold).trans (if_congr parksIff rfl rfl))
    · exact State.frameEndWritten_hold.trans (if_neg other)
  · intro idle still done
    refine ⟨fun h => ?_, fun issued rests => ?_, fun due rests => ?_⟩
    · obtain none_ | ⟨due, busy⟩ | ⟨issued, travels⟩ := h
      · rw [State.framePark_stays fun g => by rw [none_] at g; cases g.1]
        exact State.endFramePark_stays fun g => by rw [none_] at g; cases g.1
      · rw [State.framePark_stays fun g => busy g.2]
        exact State.endFramePark_stays fun g => by rw [due] at g; cases g.1
      · rw [State.framePark_stays fun g => by rw [issued] at g; cases g.1]
        exact State.endFramePark_stays fun g => travels g.2
    · rw [State.framePark_stays fun g => by rw [issued] at g; cases g.1]
      exact State.endFramePark_over issued rests
    · intro u
      have issued : u.run.framePark.get d = .issued := by
        rw [State.confined_batch.run]
        cases d <;> rfl
      rw [State.framePark_due due rests]
      exact ⟨fun over_ => State.endFramePark_over issued over_, fun travels => State.endFramePark_stays fun g => travels g.2⟩
  · exact if_neg fun ⟨hold, parks⟩ => h.elim (fun g => g hold) fun g => g parks
  · refine State.leaveHold_same fun q hq _ => .inl holds
  · exact State.leaveHold_goes pos phase free next
  · intro parks finished quiet logged calibrate
    have quietIff : s.quiet = true ↔ quiet := State.quiet_iff
    refine ⟨fun h => State.drainLevel_idle (h.imp_right fun busy q => busy (quietIff.1 q)),
      fun state still wants => State.drainLevel_waits state (quietIff.2 still) wants, fun state still fin => ?_,
      State.abortLevel_idle, fun state wants => State.abortLevel_waits state wants, fun state fin log => ?_⟩
    · obtain ⟨⟨run, mu, calibrates, runPark, rest⟩, regs⟩ := State.drainLevel_ends state (quietIff.2 still) fin
      exact ⟨run, mu, calibrates, regs, runPark, rest.linkOut, rest.carriages, rest.claims, rest.disp,
        rest.setup.trans State.confined_runParks.setup, rest.log.trans State.confined_runParks.log⟩
    · obtain ⟨⟨run, mu, calibrates, runPark, rest⟩, regs⟩ := State.abortLevel_ends state ⟨fin, log⟩
      exact ⟨run, mu, calibrates, runPark, regs, rest.linkOut, rest.carriages, rest.claims, rest.disp,
        rest.setup.trans State.confined_runParks.setup, rest.log.trans State.confined_runParks.log⟩
  · intro parks parking
    have tried : s.runParks.run.state = s.run.state := by
      obtain ⟨p, run⟩ := State.runParks_run (s := s)
      rw [run]
    have travels : parking → ¬ s.atRest := fun h g => h.elim (fun p => p g.1) fun ⟨c, t⟩ => g.2.1 c t
    refine ⟨fun h => ?_, fun h => ?_⟩
    · by_cases goes : s.run.state = .draining ∧ s.quiet = true
      · rw [State.drainLevel_waits goes.1 goes.2, tried]
        obtain other | ⟨e, he, busy⟩ | reads | park := h
        · exact absurd goes.1 other
        · refine absurd (State.quiet_iff.1 goes.2 e he) fun rests => busy ?_
          simpa using rests
        · exact fun g => reads g.2.2
        · exact travels park
      · rw [State.drainLevel_idle (not_and_or.1 goes)]
    · by_cases goes : s.run.state = .aborting
      · rw [State.abortLevel_waits goes, tried]
        rintro ⟨rests, written, discards⟩
        obtain other | writes | owes | reads | park := h
        · exact other goes
        · exact writes written
        · exact owes discards
        · exact reads rests.2.2
        · exact travels park rests
      · rw [State.abortLevel_idle goes]
  · intro target lane
    exact ⟨_, State.moveOrder_nodup State.idleOn_sorted, fun c => State.mem_moveOrder.trans State.mem_idleOn,
      State.moveOrder_pairwise State.idleOn_sorted, State.batch_eq⟩
end

section
/-! PROOFS. The dispatch scan: which entries are eligible, what a dispatch records, and how walks follow on each other
(R80, R83 to R87, R92). -/

set_option Elab.async false

namespace Sys2Proof.Machine

section
variable {s t u : State} {e f : Entry} {older younger l : List Entry}

/-! ## Eligibility (R80, R83, R87) -/

theorem Entry.inFlight_iff : e.inFlight = true ↔ e.dispatchTime ≠ none ∧ e.state ≠ .waiting := by
  rw [Entry.inFlight, Bool.and_eq_true, Option.isSome_iff_ne_none, bne_iff_ne]

theorem Entry.completed_iff : e.completed = true ↔ e.state = .held ∨ e.state = .done := by
  rw [Entry.completed, Bool.or_eq_true, beq_iff_eq, beq_iff_eq]

theorem sharesNet_iff {a b : StepCopy} : sharesNet a b = true ↔ ∃ p ∈ a.points, ∃ q ∈ b.points, p.net = q.net := by
  rw [sharesNet, List.any_eq_true]
  constructor
  · rintro ⟨n, hn, shared⟩
    obtain ⟨p, hp, rfl⟩ := StepCopy.mem_nets.1 hn
    obtain ⟨q, hq, same⟩ := StepCopy.mem_nets.1 (List.contains_iff_mem.1 shared)
    exact ⟨p, hp, q, hq, same.symm⟩
  · rintro ⟨p, hp, q, hq, same⟩
    exact ⟨p.net, StepCopy.mem_nets.2 ⟨p, hp, rfl⟩, List.contains_iff_mem.2 (StepCopy.mem_nets.2 ⟨q, hq, same.symm⟩)⟩

theorem State.eligible_iff : s.eligible older e = true ↔ s.run.state = .running ∧ e.state = .waiting ∧
    (s.disp.window.countP fun o => o.inFlight) < 3 ∧
    (∀ o ∈ older, o.state = .waiting → o.overtake < 8 ∧ o.copy.barrier = false) ∧
    (e.copy.barrier = true → ∀ o ∈ older, o.state = .held ∨ o.state = .done) ∧
    (e.copy.skipIfNetFailed = true → ∀ o ∈ older, (∃ p ∈ o.copy.points, ∃ q ∈ e.copy.points, p.net = q.net) →
      o.state ≠ .waiting ∧ o.inFlight = false) := by
  have capped : (older.all fun o => !(o.state == .waiting && decide (8 ≤ o.overtake))) = true ↔
      ∀ o ∈ older, o.state = .waiting → o.overtake < 8 := by
    rw [List.all_eq_true]
    exact forall₂_congr fun o _ => by simp [imp_iff_not_or]
  have barred : (older.all fun o => !(o.state == .waiting && o.copy.barrier)) = true ↔
      ∀ o ∈ older, o.state = .waiting → o.copy.barrier = false := by
    rw [List.all_eq_true]
    exact forall₂_congr fun o _ => by simp [imp_iff_not_or]
  have alone : (older.all fun o => !((o.state == .waiting || o.inFlight) && sharesNet o.copy e.copy)) = true ↔
      ∀ o ∈ older, (∃ p ∈ o.copy.points, ∃ q ∈ e.copy.points, p.net = q.net) → o.state ≠ .waiting ∧ o.inFlight = false := by
    rw [List.all_eq_true]
    refine forall₂_congr fun o _ => ?_
    rw [← sharesNet_iff, Bool.not_eq_true', Bool.and_eq_false_iff, Bool.or_eq_false_iff, beq_eq_false_iff_ne]
    cases sharesNet o.copy e.copy <;> simp
  have counted : s.inFlightCount = s.disp.window.countP fun o => o.inFlight := List.countP_eq_length_filter.symm
  have both : (∀ o ∈ older, o.state = .waiting → o.overtake < 8 ∧ o.copy.barrier = false) ↔
      (∀ o ∈ older, o.state = .waiting → o.overtake < 8) ∧ ∀ o ∈ older, o.state = .waiting → o.copy.barrier = false :=
    ⟨fun h => ⟨fun o ho w => (h o ho w).1, fun o ho w => (h o ho w).2⟩, fun h o ho w => ⟨h.1 o ho w, h.2 o ho w⟩⟩
  rw [both, ← capped, ← barred, ← alone, State.eligible, counted]
  simp only [Bool.and_eq_true, Bool.or_eq_true, Bool.not_eq_true', beq_iff_eq, decide_eq_true_eq, List.all_eq_true,
    Entry.completed_iff, and_assoc, ← Bool.not_eq_true, ← imp_iff_not_or]
  rfl

theorem State.skips_iff : s.skips e = true ↔
    e.copy.skipIfNetFailed = true ∧ ∃ p ∈ e.copy.points, (s.nets.get p.net).verdict = .fail := by
  rw [State.skips, Bool.and_eq_true, List.any_eq_true]
  refine and_congr_right fun _ => ⟨fun ⟨n, hn, fails⟩ => ?_, fun ⟨p, hp, fails⟩ => ?_⟩
  · obtain ⟨p, hp, rfl⟩ := StepCopy.mem_nets.1 hn
    exact ⟨p, hp, beq_iff_eq.1 fails⟩
  · exact ⟨p.net, StepCopy.mem_nets.2 ⟨p, hp, rfl⟩, beq_iff_eq.2 fails⟩

theorem State.scanEntry_ineligible (h : ¬ s.eligible older e = true) : s.scanEntry older e = none := if_neg h

theorem State.scanEntry_skips (h : s.eligible older e = true) (skips : s.skips e = true) :
    s.scanEntry older e = some (s.endWaiting e.slot (e.skippedOutcome s.clock)) := by
  rw [State.scanEntry, if_pos h, if_pos skips]

theorem State.scanEntry_dispatches {a b : Choice} (h : s.eligible older e = true) (skips : ¬ s.skips e = true)
    (top : s.choose .top (e.copy.pointsOn .top) = some a) (bottom : s.choose .bottom (e.copy.pointsOn .bottom) = some b) :
    s.scanEntry older e = some (s.dispatch e a b) := by
  rw [State.scanEntry, if_pos h, if_neg skips, top, bottom]

theorem State.scanEntry_passes {d : Side} (skips : ¬ s.skips e = true)
    (none_ : s.choose d (e.copy.pointsOn d) = none) : s.scanEntry older e = none := by
  unfold State.scanEntry
  rw [if_neg skips]
  by_cases h : s.eligible older e = true
  · rw [if_pos h]
    cases d with
    | top => rw [none_]
    | bottom =>
      rw [none_]
      cases s.choose .top (e.copy.pointsOn .top) <;> rfl
  · rw [if_neg h]

/-! ## What a choice gives (R88, R91) -/

theorem Setup.targetLanes_length {t : Setup} {p : List Point} {a : List Carriage} {l : List (Carriage × Nat)}
    (h : t.targetLanes p a = some l) : l.length = p.length := by
  induction p generalizing a l with
  | nil =>
    rw [Setup.targetLanes.eq_def] at h
    cases h
    rfl
  | cons q rest ih =>
    cases a with
    | nil => cases h
    | cons c cs =>
      rw [Setup.targetLanes] at h
      split at h
      · obtain ⟨m, hm, rfl⟩ := Option.map_eq_some_iff.1 h
        rw [List.length_cons, List.length_cons, ih hm]
      · cases h

/-- A choice made is one of the choices of the assignments. -/
theorem State.choose_some {d : Side} {p : List Point} {h : Choice} (some_ : s.choose d p = some h) :
    ∃ a ∈ injections p (s.inService d), s.choiceOf d p a = some h := by
  have fold (l : List (List Carriage)) (init : Option Choice)
      (res : l.foldl (fun b a => betterOf b (s.choiceOf d p a)) init = some h) :
      init = some h ∨ ∃ a ∈ l, s.choiceOf d p a = some h := by
    induction l generalizing init with
    | nil => exact .inl res
    | cons a rest ih =>
      obtain first | ⟨b, hb, is⟩ := ih _ res
      · have from_ : betterOf init (s.choiceOf d p a) = init ∨ betterOf init (s.choiceOf d p a) = s.choiceOf d p a := by
          cases init with
          | none => exact .inr rfl
          | some i =>
            cases s.choiceOf d p a with
            | none => exact .inl rfl
            | some j =>
              rw [betterOf]
              split
              · exact .inr rfl
              · exact .inl rfl
        obtain same | same := from_
        · exact .inl (same ▸ first)
        · exact .inr ⟨a, List.mem_cons_self, same ▸ first⟩
      · exact .inr ⟨b, List.mem_cons_of_mem _ hb, is⟩
  exact (fold _ none some_).resolve_left nofun

theorem State.choiceOf_lanes {d : Side} {p : List Point} {a : List Carriage} {h : Choice}
    (some_ : s.choiceOf d p a = some h) : s.setup.targetLanes p a = some h.lanes := by
  obtain ⟨l, lanes, rest⟩ := Option.bind_eq_some_iff.1 some_
  obtain ⟨y, -, rfl⟩ := Option.map_eq_some_iff.1 rest
  exact lanes

theorem State.choose_length {d : Side} {p : List Point} {h : Choice} (some_ : s.choose d p = some h) :
    h.lanes.length = p.length := by
  obtain ⟨a, -, is⟩ := State.choose_some some_
  exact Setup.targetLanes_length (State.choiceOf_lanes is)

/-! ## What a dispatch records (R85, R92) -/

/-- The carriages of a merged assignment that serve the points of a side. -/
def servesOn (p : List Point) (m : List (Option Carriage)) (d : Side) : List Carriage :=
  (p.zip m).filterMap fun q => if q.1.side = d then q.2 else none

theorem servesOn_here {p : List Point} {m : List (Option Carriage)} {d : Side} {q : Point} {c : Carriage} (h : q.side = d) :
    servesOn (q :: p) (some c :: m) d = c :: servesOn p m d := by
  simp [servesOn, h]

theorem servesOn_other {p : List Point} {m : List (Option Carriage)} {d : Side} {q : Point} {c : Option Carriage}
    (h : q.side ≠ d) : servesOn (q :: p) (c :: m) d = servesOn p m d := by
  simp [servesOn, h]

/-- A merge of as many carriages of each side as it has points. -/
theorem mergeSides_merges {p : List Point} {a b : List Carriage} (top : a.length = (p.filter fun q => q.side == .top).length)
    (bottom : b.length = (p.filter fun q => q.side == .bottom).length) :
    (mergeSides p a b).length = p.length ∧ none ∉ mergeSides p a b ∧
      servesOn p (mergeSides p a b) .top = a ∧ servesOn p (mergeSides p a b) .bottom = b := by
  induction p generalizing a b with
  | nil =>
    obtain rfl := List.length_eq_zero_iff.1 top
    obtain rfl := List.length_eq_zero_iff.1 bottom
    exact ⟨rfl, nofun, rfl, rfl⟩
  | cons q rest ih =>
    cases side : q.side with
    | top =>
      rw [List.filter_cons_of_pos (by rw [side]; rfl)] at top
      rw [List.filter_cons_of_neg (by rw [side]; nofun)] at bottom
      obtain ⟨c, cs, rfl⟩ : ∃ c cs, a = c :: cs := List.exists_cons_of_length_eq_add_one top
      obtain ⟨length, full, onTop, onBottom⟩ := ih (Nat.succ.inj top) bottom
      have step : mergeSides (q :: rest) (c :: cs) b = some c :: mergeSides rest cs b := by
        rw [mergeSides.eq_def]
        simp only [side]
      rw [step, servesOn_here side, servesOn_other (by rw [side]; nofun), onTop, onBottom, List.length_cons, length]
      exact ⟨rfl, fun h => (List.mem_cons.1 h).elim nofun full, rfl, rfl⟩
    | bottom =>
      rw [List.filter_cons_of_neg (by rw [side]; nofun)] at top
      rw [List.filter_cons_of_pos (by rw [side]; rfl)] at bottom
      obtain ⟨c, cs, rfl⟩ : ∃ c cs, b = c :: cs := List.exists_cons_of_length_eq_add_one bottom
      obtain ⟨length, full, onTop, onBottom⟩ := ih top (Nat.succ.inj bottom)
      have step : mergeSides (q :: rest) a (c :: cs) = some c :: mergeSides rest a cs := by
        rw [mergeSides.eq_def]
        simp only [side]
      rw [step, servesOn_here side, servesOn_other (by rw [side]; nofun), onTop, onBottom, List.length_cons, length]
      exact ⟨rfl, fun h => (List.mem_cons.1 h).elim nofun full, rfl, rfl⟩

/-- An older entry as a dispatch leaves it. -/
def Entry.overtaken (o : Entry) : Entry :=
  if o.state = .waiting then { o with overtake := min 8 (o.overtake + 1) } else o

theorem Entry.overtaken_slot : e.overtaken.slot = e.slot := by
  unfold Entry.overtaken
  split <;> rfl

theorem Entry.overtaken_state : e.overtaken.state = e.state := by
  unfold Entry.overtaken
  split <;> rfl

theorem raiseOlder_split (fresh : ∀ o ∈ older, o.slot ≠ e.slot) :
    raiseOlder e.slot (older ++ e :: younger) = older.map Entry.overtaken ++ e :: younger := by
  induction older with
  | nil => exact if_pos rfl
  | cons o rest ih =>
    rw [List.cons_append, raiseOlder, if_neg (fresh o List.mem_cons_self), ih fun x hx => fresh x (List.mem_cons_of_mem _ hx)]
    rfl

/-- The entry that a dispatch makes of a step. -/
def Entry.dispatched (e : Entry) (m : List (Option Carriage)) (yields : List Yield) (clock : Nat) : Entry := { e with
  state := .moving, assignment := m, lastCarriages := m, yields := yields
  arrived := List.replicate e.copy.points.length false, ready := List.replicate e.copy.points.length false
  dispatchTime := some (e.dispatchTime.getD clock) }

/-- The window of a split in which one entry alone is changed. -/
theorem map_split {g : Entry → Entry} (fresh : ∀ o ∈ older ++ younger, o.slot ≠ e.slot) :
    (older ++ e :: younger).map (fun f => if f.slot == e.slot then g f else f) = older ++ g e :: younger := by
  have same (l : List Entry) (h : ∀ o ∈ l, o.slot ≠ e.slot) : l.map (fun f => if f.slot == e.slot then g f else f) = l :=
    (List.map_congr_left fun f hf => if_neg (by rw [beq_iff_eq]; exact h f hf)).trans (List.map_id _)
  rw [List.map_append, List.map_cons, same older fun o ho => fresh o (List.mem_append_left _ ho),
    same younger fun o ho => fresh o (List.mem_append_right _ ho), if_pos (beq_self_eq_true _)]

/-- The state in which a dispatch gives its orders. -/
def State.dispatchWindow (s : State) (older younger : List Entry) (f : Entry) : State :=
  { s with disp := { s.disp with window := older.map Entry.overtaken ++ f :: younger } }

theorem State.dispatch_eq {a b : Choice} (window : s.disp.window = older ++ e :: younger)
    (fresh : ∀ o ∈ older ++ younger, o.slot ≠ e.slot) :
    let m := mergeSides e.copy.points (a.lanes.map (·.1)) (b.lanes.map (·.1))
    s.dispatch e a b = ((s.dispatchWindow older younger (e.dispatched m
        ((a.yields ++ b.yields).map fun q => ⟨q.1, q.2, false⟩) s.clock)).issueOrders { e with assignment := m } a).issueOrders
      { e with assignment := m } b := by
  intro m
  have raised : raiseOlder e.slot s.disp.window = older.map Entry.overtaken ++ e :: younger := by
    rw [window]
    exact raiseOlder_split fun o ho => fresh o (List.mem_append_left _ ho)
  have fresh' : ∀ o ∈ older.map Entry.overtaken ++ younger, o.slot ≠ e.slot := fun o ho => by
    obtain ho | ho := List.mem_append.1 ho
    · obtain ⟨x, hx, rfl⟩ := List.mem_map.1 ho
      rw [Entry.overtaken_slot]
      exact fresh x (List.mem_append_left _ hx)
    · exact fresh o (List.mem_append_right _ ho)
  have recorded : (s.updDisp fun d => { d with window := raiseOlder e.slot d.window }).modEntry e.slot
      (fun f => f.dispatched m ((a.yields ++ b.yields).map fun q => ⟨q.1, q.2, false⟩) s.clock) =
      s.dispatchWindow older younger (e.dispatched m ((a.yields ++ b.yields).map fun q => ⟨q.1, q.2, false⟩) s.clock) := by
    have changed := map_split (g := fun f => f.dispatched m ((a.yields ++ b.yields).map fun q => ⟨q.1, q.2, false⟩) s.clock)
      fresh'
    rw [State.dispatchWindow, ← changed, ← raised]
    rfl
  rw [← recorded]
  rfl
end
end Sys2Proof.Machine
end

section
/-! PROOFS. The walks of a scan, the rounds of the Dispatcher, and the orders of a dispatch (R30, R49, R84, R92, AL 32). -/

set_option Elab.async false

namespace Sys2Proof.Machine

section
variable {s t u : State} {e f : Entry} {older younger l pre : List Entry} {c x : Carriage}

/-! ## Walks (R84) -/

theorem State.walk_iff : s.walk pre l = some u ↔ ∃ older e younger, l = older ++ e :: younger ∧
    s.scanEntry (pre ++ older) e = some u ∧ ∀ o x y, older = o ++ x :: y → s.scanEntry (pre ++ o) x = none := by
  induction l generalizing pre with
  | nil => exact ⟨nofun, fun ⟨o, e, y, h, _⟩ => absurd h (by simp)⟩
  | cons e rest ih =>
    rw [State.walk]
    cases here : s.scanEntry pre e with
    | some v =>
      dsimp only
      constructor
      · intro same
        obtain rfl := Option.some.inj same
        exact ⟨[], e, rest, rfl, by rw [List.append_nil]; exact here, fun o x y h => absurd h (by simp)⟩
      · rintro ⟨older, f, younger, split, acts, none_⟩
        cases older with
        | nil =>
          obtain ⟨rfl, -⟩ := List.cons.inj split
          rw [List.append_nil, here] at acts
          exact acts
        | cons x more =>
          obtain ⟨rfl, -⟩ := List.cons.inj split
          have := none_ [] e more rfl
          rw [List.append_nil, here] at this
          cases this
    | none =>
      dsimp only
      rw [ih]
      constructor
      · rintro ⟨older, f, younger, rfl, acts, none_⟩
        refine ⟨e :: older, f, younger, rfl, by rw [← acts, List.append_assoc]; rfl, fun o x y h => ?_⟩
        cases o with
        | nil =>
          obtain ⟨rfl, -⟩ := List.cons.inj h
          rw [List.append_nil]
          exact here
        | cons z more =>
          obtain ⟨rfl, tail⟩ := List.cons.inj h
          have := none_ more x y tail
          rwa [List.append_assoc] at this
      · rintro ⟨older, f, younger, split, acts, none_⟩
        cases older with
        | nil =>
          obtain ⟨rfl, -⟩ := List.cons.inj split
          rw [List.append_nil, here] at acts
          cases acts
        | cons x more =>
          obtain ⟨rfl, tail⟩ := List.cons.inj split
          refine ⟨more, f, younger, tail, by rw [List.append_assoc]; exact acts, fun o x y h => ?_⟩
          rw [List.append_assoc]
          exact none_ (e :: o) x y (by rw [h]; rfl)

/-! ## Each walk takes a step out of WAITING (AL 32) -/

/-- The entries in WAITING. -/
def State.waits (s : State) : Nat := s.disp.window.countP fun e => e.state == .waiting

theorem countP_map_le {g : Entry → Entry} (h : ∀ e, (g e).state = .waiting → e.state = .waiting) :
    (l.map g).countP (fun e => e.state == .waiting) ≤ l.countP fun e => e.state == .waiting := by
  rw [List.countP_map]
  refine List.countP_mono_left fun e _ w => ?_
  exact beq_iff_eq.2 (h e (beq_iff_eq.1 w))

theorem SlotsKept.waits (h : SlotsKept s t) : t.waits ≤ s.waits := by
  obtain ⟨g, window, hg⟩ := h
  rw [State.waits, window]
  exact countP_map_le fun e => (hg e).2

theorem State.slotsKept_issueOrders {h : Choice} : SlotsKept s (s.issueOrders e h) := by
  have yields (l : List Carriage) (s : State) : SlotsKept s (l.foldl (fun s c => match laneIn h.yields c with
      | some k => s.orderTravel c .yield none ⟨s.setup.lanePos (sideOf c) k, (s.carr c).pos.y⟩
      | none => s) s) :=
    .foldl (fun s c => by
      cases laneIn h.yields c with
      | none => exact .refl s
      | some k => exact State.slotsKept_orderTravel) l s
  have steps (l : List Carriage) (s : State) : SlotsKept s (l.foldl (fun s c =>
      match (e.pointOf c).bind fun i => e.copy.points[i]? with
      | some p => s.orderTravel c .step (some ⟨e.slot, p.role⟩) (s.setup.target c p.at_)
      | none => s) s) :=
    .foldl (fun s c => by
      cases (e.pointOf c).bind fun i => e.copy.points[i]? with
      | none => exact .refl s
      | some p => exact State.slotsKept_orderTravel) l s
  exact (yields _ _).andThen (steps _ _)

/-- What acting on an entry leaves: the slots, and one entry fewer in WAITING. -/
structure Acted (s u : State) : Prop where
  slots : u.disp.window.map (·.slot) = s.disp.window.map (·.slot)
  waits : u.waits < s.waits

/-- A window in which one WAITING entry has left WAITING and no other has come to it. -/
theorem Acted.of_split {g : Entry → Entry} (window : s.disp.window = older ++ e :: younger) (waiting : e.state = .waiting)
    (changed : t.disp.window = older.map g ++ f :: younger) (hg : ∀ o, (g o).slot = o.slot ∧ (g o).state = o.state)
    (slot : f.slot = e.slot) (left : f.state ≠ .waiting) (kept : SlotsKept t u) : Acted s u := by
  refine ⟨kept.slots.trans ?_, kept.waits.trans_lt ?_⟩
  · rw [window, changed, List.map_append, List.map_append, List.map_map, List.map_cons, List.map_cons, slot]
    exact congrArg (· ++ _) (List.map_congr_left fun o _ => (hg o).1)
  · have before := countP_map_le (l := older) (g := g) fun o w => (hg o).2 ▸ w
    have out : (f.state == .waiting) = false := beq_eq_false_iff_ne.2 left
    rw [State.waits, State.waits, window, changed, List.countP_append, List.countP_append, List.countP_cons, List.countP_cons,
      waiting, out]
    simp only [beq_self_eq_true, if_true, Bool.false_eq_true, if_false]
    omega

theorem State.entry_split (window : s.disp.window = older ++ e :: younger) (fresh : ∀ o ∈ older ++ younger, o.slot ≠ e.slot) :
    s.entry e.slot = some e := by
  change s.disp.window.find? _ = _
  rw [window, List.find?_append]
  have none_ : older.find? (fun f => f.slot == e.slot) = none :=
    List.find?_eq_none.2 fun f hf h => fresh f (List.mem_append_left _ hf) (beq_iff_eq.1 h)
  rw [none_, List.find?_cons_of_pos (p := fun f : Entry => f.slot == e.slot) (beq_self_eq_true e.slot)]
  rfl

/-- A skipped step leaves the net records, and so all but the window and the log. -/
theorem State.endWaiting_skipped {k : Nat} {o : Outcome} (he : s.entry k = some e) (ho : o.verdict = .skipped) :
    s.endWaiting k o = { s with disp := (s.endWaiting k o).disp, log := (s.endWaiting k o).log } := by
  rw [State.endWaiting_eq he, State.offerResult_eq, ho]
  rfl

theorem State.skip_acts (window : s.disp.window = older ++ e :: younger) (fresh : ∀ o ∈ older ++ younger, o.slot ≠ e.slot)
    (waiting : e.state = .waiting) {o : Outcome} : Acted s (s.endWaiting e.slot o) := by
  have there : s.entry e.slot = some e := State.entry_split window fresh
  have ended : (s.endWaiting e.slot o).disp.window = older.map id ++ e.ended o :: younger := by
    rw [State.endWaiting_window there, window, List.map_id]
    exact map_split fresh
  exact .of_split window waiting ended (fun _ => ⟨rfl, rfl⟩) rfl nofun (.refl _)

theorem State.dispatch_acts (window : s.disp.window = older ++ e :: younger) (fresh : ∀ o ∈ older ++ younger, o.slot ≠ e.slot)
    (waiting : e.state = .waiting) {a b : Choice} : Acted s (s.dispatch e a b) := by
  rw [State.dispatch_eq window fresh]
  generalize mergeSides e.copy.points (a.lanes.map (·.1)) (b.lanes.map (·.1)) = m
  generalize (a.yields ++ b.yields).map (fun q => (⟨q.1, q.2, false⟩ : Yield)) = y
  have left : (e.dispatched m y s.clock).state ≠ .waiting := nofun
  exact .of_split (t := s.dispatchWindow older younger (e.dispatched m y s.clock)) (g := Entry.overtaken) window waiting rfl
    (fun _ => ⟨Entry.overtaken_slot, Entry.overtaken_state⟩) rfl left
    (State.slotsKept_issueOrders.andThen State.slotsKept_issueOrders)

/-- An entry's slot is its own. -/
theorem slots_fresh (nodup : ((older ++ e :: younger).map (·.slot)).Nodup) : ∀ o ∈ older ++ younger, o.slot ≠ e.slot := by
  rw [List.map_append, List.map_cons, List.nodup_append, List.nodup_cons] at nodup
  obtain ⟨-, ⟨out, -⟩, apart⟩ := nodup
  intro o ho same
  obtain ho | ho := List.mem_append.1 ho
  · exact apart _ (List.mem_map_of_mem ho) _ List.mem_cons_self same
  · exact out (same ▸ List.mem_map_of_mem ho)

theorem State.walk_acts (nodup : (s.disp.window.map (·.slot)).Nodup) (h : s.walk [] s.disp.window = some u) : Acted s u := by
  obtain ⟨older, e, younger, window, acts, -⟩ := State.walk_iff.1 h
  have fresh := slots_fresh (window ▸ nodup)
  have eligible : s.eligible ([] ++ older) e = true := by
    by_contra no
    rw [State.scanEntry_ineligible no] at acts
    cases acts
  have waiting := (State.eligible_iff.1 eligible).2.1
  by_cases skips : s.skips e = true
  · rw [State.scanEntry_skips eligible skips] at acts
    obtain rfl := Option.some.inj acts
    exact State.skip_acts window fresh waiting
  · cases top : s.choose .top (e.copy.pointsOn .top) with
    | none =>
      rw [State.scanEntry_passes skips top] at acts
      cases acts
    | some a =>
      cases bottom : s.choose .bottom (e.copy.pointsOn .bottom) with
      | none =>
        rw [State.scanEntry_passes skips bottom] at acts
        cases acts
      | some b =>
        rw [State.scanEntry_dispatches eligible skips top bottom] at acts
        obtain rfl := Option.some.inj acts
        exact State.dispatch_acts window fresh waiting

theorem State.scan_some {n : Nat} (h : s.walk [] s.disp.window = some u) : s.scan (n + 1) = u.scan n := by
  rw [State.scan, h]

theorem State.scan_none {n : Nat} (h : s.walk [] s.disp.window = none) : s.scan n = s := by
  cases n with
  | zero => rfl
  | succ n => rw [State.scan, h]

/-- With fuel above the entries in WAITING a scan goes on until a walk finds nothing, and more fuel changes nothing. -/
theorem State.scan_ends {n : Nat} (nodup : (s.disp.window.map (·.slot)).Nodup) (fuel : s.waits < n) :
    (s.scan n).walk [] (s.scan n).disp.window = none ∧ ∀ m, n ≤ m → s.scan m = s.scan n := by
  induction n generalizing s with
  | zero => exact absurd fuel (Nat.not_lt_zero _)
  | succ n ih =>
    cases walk : s.walk [] s.disp.window with
    | none =>
      rw [State.scan_none walk]
      exact ⟨walk, fun m _ => State.scan_none walk⟩
    | some v =>
      obtain ⟨slots, waits⟩ := State.walk_acts nodup walk
      obtain ⟨ends, more⟩ := ih (s := v) (by rw [slots]; exact nodup) (by omega)
      rw [State.scan_some walk]
      refine ⟨ends, fun m hm => ?_⟩
      obtain ⟨k, rfl⟩ := Nat.exists_eq_add_of_le' (Nat.one_le_of_lt hm)
      rw [State.scan_some walk]
      exact more k (by omega)

/-! ## The Dispatcher's rounds (R84, R97) -/

theorem Entry.serving_none : e.serving = [] ↔ ∀ c, some c ∉ e.assignment := by
  rw [Entry.serving, List.filterMap_eq_nil_iff]
  exact ⟨fun h c hc => Option.some_ne_none c (h _ hc), fun h a ha => Option.eq_none_iff_forall_ne_some.2 fun c e => h c (e ▸ ha)⟩

/-- With no LIFTING step out of service, HELD has nothing to take. -/
theorem State.holdLifted_same (h : ∀ e ∈ s.disp.window, e.state = .lifting → ∃ c, some c ∈ e.assignment) :
    s.holdLifted = s := by
  have fold (l : List Entry) : l.foldl (fun s e =>
      match s.entry e.slot with
      | some e => if e.state = .lifting ∧ e.serving = [] then s.enterHeld e.slot else s
      | none => s) s = s := by
    induction l with
    | nil => rfl
    | cons e rest ih =>
      rw [List.foldl_cons]
      cases there : s.entry e.slot with
      | none => exact ih
      | some f =>
        have stays : ¬ (f.state = .lifting ∧ f.serving = []) := fun ⟨lifts, out⟩ => by
          obtain ⟨c, hc⟩ := h f (State.entry_mem there) lifts
          exact Entry.serving_none.1 out c hc
        dsimp only
        rw [if_neg stays]
        exact ih
  exact fold _

/-- The withdrawals of a round. -/
def State.roundWithdraw (s : State) : State :=
  s.disp.withdraw.foldl (fun s k => s.withdrawStep k) (s.updDisp fun d => { d with withdraw := [] })

/-- The reachability test of a round. -/
def State.roundReach (s : State) : State :=
  if s.disp.reach then (s.updDisp fun d => { d with reach := false }).testAllReach
  else s.updDisp fun d => { d with reach := false }

/-- The scan of a round. -/
def State.roundScan (s : State) : State :=
  if s.disp.scan then (s.updDisp fun d => { d with scan := false }).scan 17
  else s.updDisp fun d => { d with scan := false }

theorem State.dispatchRound_eq : s.dispatchRound = s.holdLifted.roundWithdraw.roundReach.holdLifted.roundScan := rfl

theorem State.roundWithdraw_none (h : s.disp.withdraw = []) : s.roundWithdraw = s := by
  rw [State.roundWithdraw, h]
  change { s with disp := { s.disp with withdraw := [] } } = s
  rw [← h]

theorem State.roundReach_none (h : s.disp.reach = false) : s.roundReach = s := by
  rw [State.roundReach, if_neg (by rw [h]; nofun)]
  change { s with disp := { s.disp with reach := false } } = s
  rw [← h]

theorem State.dispatchRound_scan (scan : s.disp.scan = true) (withdraw : s.disp.withdraw = []) (reach : s.disp.reach = false)
    (serves : ∀ e ∈ s.disp.window, e.state = .lifting → ∃ c, some c ∈ e.assignment) :
    s.dispatchRound = State.scan 17 { s with disp := { s.disp with scan := false } } := by
  have held := State.holdLifted_same serves
  rw [State.dispatchRound_eq, held, State.roundWithdraw_none withdraw, State.roundReach_none reach, held, State.roundScan,
    if_pos scan]
  rfl

theorem State.dispatchRounds_iterate (n : Nat) (s : State) : ∃ k, s.dispatchRounds n = State.dispatchRound^[k] s := by
  induction n generalizing s with
  | zero => exact ⟨0, rfl⟩
  | succ n ih =>
    rw [State.dispatchRounds]
    split
    · obtain ⟨k, iter⟩ := ih s.dispatchRound
      exact ⟨k + 1, iter⟩
    · exact ⟨0, rfl⟩

theorem State.dispatchRounds_done {n : Nat} (h : s.dispatchOwed = false) : s.dispatchRounds n = s := by
  cases n with
  | zero => rfl
  | succ n => rw [State.dispatchRounds, if_neg (by rw [h]; nofun)]

theorem State.dispatcherStage_scan (scan : s.disp.scan = true) : s.dispatcherStage = s.dispatchRound.dispatchRounds 63 := by
  have owed : s.dispatchOwed = true := by rw [State.dispatchOwed, scan, Bool.or_true, Bool.true_or]
  rw [State.dispatcherStage, State.dispatchRounds, if_pos owed]

/-! ## An order (R49) -/

/-- A carriage that an order sets out. -/
def State.ordered (s : State) (c : Carriage) (q : Purpose) (v : Option Service) (p : Pos) : State :=
  (s.beginTravel c q p).modCarr c fun r =>
    { r with ended := false, service := v, scrubIndex := if v.isSome then 0 else r.scrubIndex }

section
variable {q : Purpose} {v : Option Service} {p : Pos}

theorem State.carr_ordered : (s.ordered c q v p).carr x = if x = c then { s.carr c with
    state := .travel, phase := some .claimWait, purpose := some q, target := some p, followOn := none, ended := false
    service := v, scrubIndex := if v = none then (s.carr c).scrubIndex else 0
    tip := if s.run.state = .halted then .isolated else .bleed } else s.carr x := by
  by_cases here : x = c
  · subst here
    rw [if_pos rfl, State.ordered, State.carr_modCarr_same, State.beginTravel, State.carr_modCarr_same, State.carr_setCarr]
    cases v <;> rfl
  · rw [if_neg here, State.ordered, State.carr_modCarr_ne _ _ here, State.beginTravel, State.carr_modCarr_ne _ _ here,
      State.carr_setCarr_ne here]

theorem State.confined_ordered : Confined [.carriages] s (s.ordered c q v p) :=
  State.confined_beginTravel.andThen State.confined_modCarr

theorem State.claimTravel_other (h : ¬ ((s.carr c).state = .travel ∧ (s.carr c).phase = some .claimWait)) :
    s.claimTravel c = s := by
  unfold State.claimTravel
  dsimp only
  split
  · next state phase _ _ => exact absurd ⟨state, phase⟩ h
  · rfl

/-- A travel that is done is no travel. -/
theorem State.travelDone_notTravel : ((s.travelDone c).carr c).state ≠ .travel := by
  unfold State.travelDone
  dsimp only
  have idle (t : State) : ((t.toIdle c).carr c).state ≠ .travel := by
    rw [State.carr_toIdle]
    nofun
  have lands : ((s.enterDescend c).carr c).state ≠ .travel := by
    rw [State.carr_enterDescend]
    nofun
  split
  · split
    · exact idle _
    · exact lands
  · split
    · exact idle _
    · exact lands
  all_goals exact idle _

theorem State.orderTravel_idle (idle : (s.carr c).state = .idle) : s.orderTravel c q v p =
    if (s.carr c).position = some p then (s.ordered c q v p).travelDone c
    else if s.setup.laneFor c p.x = s.laneNow c then (s.ordered c q v p).deliverGrant c
    else (s.ordered c q v p).requestClaim c q (s.setup.sweep c (s.laneNow c) (s.setup.laneFor c p.x)) := by
  have order : s.orderTravel c q v p = ((s.ordered c q v p).compareTravel c p).claimTravel c := if_pos idle
  have record := State.carr_ordered (s := s) (c := c) (x := c) (q := q) (v := v) (p := p)
  rw [if_pos rfl] at record
  have setup : (s.ordered c q v p).setup = s.setup := State.confined_ordered.setup
  have lane : (s.ordered c q v p).laneNow c = s.laneNow c := by
    rw [State.laneNow, State.laneNow, setup, CarriageRec.pos, record]
    rfl
  rw [order, State.compareTravel, setup, lane, record]
  dsimp only
  by_cases there : (s.carr c).position = some p
  · rw [if_pos there, if_pos there]
    exact State.claimTravel_other fun h => State.travelDone_notTravel h.1
  · rw [if_neg there, if_neg there]
    by_cases same : s.setup.laneFor c p.x = s.laneNow c
    · rw [if_pos same, if_pos same]
      refine State.claimTravel_other fun h => ?_
      have target : ((s.ordered c q v p).carr c).target = some p := by rw [record]
      rw [State.carr_deliverGrant target] at h
      cases h.2
    · rw [if_neg same, if_neg same, State.claimTravel, record, lane, setup]
end

/-! ## The orders of a dispatch (R30, R92) -/

section
variable {q : List (Carriage × Nat)} {k : Nat}

theorem laneIn_mem (h : laneIn q c = some k) : (c, k) ∈ q := by
  obtain ⟨p, found, rfl⟩ := Option.map_eq_some_iff.1 h
  have here := List.find?_some found
  rw [beq_iff_eq] at here
  subst here
  exact List.mem_of_find?_eq_some found

theorem laneIn_isSome : (laneIn q c).isSome = true ↔ c ∈ q.map (·.1) := by
  rw [laneIn, Option.isSome_map, List.find?_isSome, List.mem_map]
  exact exists_congr fun p => and_congr_right fun _ => beq_iff_eq

theorem laneIn_eq (nodup : (q.map (·.1)).Nodup) (h : (c, k) ∈ q) : laneIn q c = some k := by
  obtain ⟨m, found⟩ := Option.isSome_iff_exists.1 (laneIn_isSome.2 (List.mem_map_of_mem (f := (·.1)) h))
  have unique := List.inj_on_of_nodup_map nodup h (laneIn_mem found) rfl
  rw [found, (Prod.mk.inj unique).2]

/-- The carriages of a list of carriages with lanes, in the order in which they are sent. -/
def State.sendOrder (s : State) (q : List (Carriage × Nat)) : List Carriage :=
  s.moveOrder ((carriagesOf .top ++ carriagesOf .bottom).filter fun c => (laneIn q c).isSome) fun c => (laneIn q c).getD 0

theorem State.batchOrder_laneIn : s.batchOrder ((carriagesOf .top ++ carriagesOf .bottom).filterMap fun c =>
    (laneIn q c).map fun k => (c, k)) = s.sendOrder q := by
  have listed (l : List Carriage) : (l.filterMap fun c => (laneIn q c).map fun k => (c, k)) =
      (l.filter fun c => (laneIn q c).isSome).map fun c => (c, (laneIn q c).getD 0) := by
    induction l with
    | nil => rfl
    | cons c rest ih =>
      cases lane : laneIn q c with
      | none => rw [List.filterMap_cons_none (by rw [lane]; rfl), List.filter_cons_of_neg (by rw [lane]; nofun), ih]
      | some k =>
        rw [List.filterMap_cons_some (b := (c, k)) (by rw [lane]; rfl), List.filter_cons_of_pos (by rw [lane]; rfl), ih,
          List.map_cons, lane]
        rfl
  rw [listed, State.batchOrder_map]
  rfl

theorem sendOrder_sorted : ((carriagesOf .top ++ carriagesOf .bottom).filter fun c => (laneIn q c).isSome).Pairwise
    fun x y => driveNumber x < driveNumber y := by
  have all : (carriagesOf .top ++ carriagesOf .bottom).Pairwise fun x y => driveNumber x < driveNumber y := by decide
  exact all.filter _

/-- How the orders of one side stand to each other. -/
structure SendsInOrder (s : State) (q : List (Carriage × Nat)) (l : List Carriage) : Prop where
  nodup : l.Nodup
  mem : ∀ c, c ∈ l ↔ c ∈ q.map (·.1)
  order : l.Pairwise fun x y => ∀ m n, (x, m) ∈ q → (y, n) ∈ q →
    (s.laneNow x < m → n ≤ s.laneNow y ∨ driveNumber y < driveNumber x) ∧
    (m < s.laneNow x → n ≤ s.laneNow y ∧ (n < s.laneNow y → driveNumber x < driveNumber y)) ∧
    (m = s.laneNow x → n = s.laneNow y)

theorem State.sendOrder_sends (nodup : (q.map (·.1)).Nodup) : SendsInOrder s q (s.sendOrder q) where
  nodup := State.moveOrder_nodup sendOrder_sorted
  mem c := by
    have all : c ∈ carriagesOf .top ++ carriagesOf .bottom := by cases c <;> decide
    rw [State.sendOrder, State.mem_moveOrder, List.mem_filter, and_iff_right all, laneIn_isSome]
  order := (State.moveOrder_pairwise sendOrder_sorted).imp fun {x y} before m n hx hy => by
    obtain ⟨right, left, stays⟩ := before
    dsimp only at right left stays
    rw [laneIn_eq nodup hx, laneIn_eq nodup hy] at right left stays
    exact ⟨right, left, fun h => (stays h).1⟩

theorem State.issueOrders_eq {h : Choice} {lane : Carriage → Nat} {point : Carriage → Point}
    (yields : (h.yields.map (·.1)).Nodup) (lanes : ∀ q ∈ h.yields, lane q.1 = q.2)
    (points : ∀ q ∈ h.lanes, ∃ n, e.pointOf q.1 = some n ∧ e.copy.points[n]? = some (point q.1)) : s.issueOrders e h =
      (s.sendOrder h.lanes).foldl (fun u c => u.orderTravel c .step (some ⟨e.slot, (point c).role⟩)
          (s.setup.target c (point c).at_))
        ((s.sendOrder h.yields).foldl (fun u c => u.orderTravel c .yield none
          ⟨s.setup.lanePos (sideOf c) (lane c), (u.carr c).pos.y⟩) s) := by
  have yieldAll (l : List Carriage) (hl : ∀ c ∈ l, c ∈ h.yields.map (·.1)) (u : State) (setup : u.setup = s.setup) :
      (l.foldl (fun s c => match laneIn h.yields c with
        | some k => s.orderTravel c .yield none ⟨s.setup.lanePos (sideOf c) k, (s.carr c).pos.y⟩
        | none => s) u) = l.foldl (fun u c => u.orderTravel c .yield none
          ⟨s.setup.lanePos (sideOf c) (lane c), (u.carr c).pos.y⟩) u ∧
      (l.foldl (fun u c => u.orderTravel c .yield none
          ⟨s.setup.lanePos (sideOf c) (lane c), (u.carr c).pos.y⟩) u).setup = s.setup := by
    induction l generalizing u with
    | nil => exact ⟨rfl, setup⟩
    | cons c rest ih =>
      obtain ⟨k, found⟩ := Option.isSome_iff_exists.1 (laneIn_isSome.2 (hl c List.mem_cons_self))
      have same := lanes _ (laneIn_mem found)
      rw [List.foldl_cons, List.foldl_cons, found]
      dsimp only at same ⊢
      rw [setup, ← same]
      exact ih (fun x hx => hl x (List.mem_cons_of_mem _ hx)) _ (State.confined_orderTravel.setup.trans setup)
  have stepAll (l : List Carriage) (hl : ∀ c ∈ l, c ∈ h.lanes.map (·.1)) (u : State) (setup : u.setup = s.setup) :
      (l.foldl (fun s c => match (e.pointOf c).bind fun i => e.copy.points[i]? with
        | some p => s.orderTravel c .step (some ⟨e.slot, p.role⟩) (s.setup.target c p.at_)
        | none => s) u) = l.foldl (fun u c => u.orderTravel c .step (some ⟨e.slot, (point c).role⟩)
          (s.setup.target c (point c).at_)) u := by
    induction l generalizing u with
    | nil => rfl
    | cons c rest ih =>
      obtain ⟨q, hq, rfl⟩ := List.mem_map.1 (hl c List.mem_cons_self)
      obtain ⟨n, served, at_⟩ := points q hq
      have found : ((e.pointOf q.1).bind fun i => e.copy.points[i]?) = some (point q.1) := by
        rw [served]
        exact at_
      rw [List.foldl_cons, List.foldl_cons, found]
      dsimp only
      rw [setup]
      exact ih (fun x hx => hl x (List.mem_cons_of_mem _ hx)) _ (State.confined_orderTravel.setup.trans setup)
  have memYields : ∀ c ∈ s.sendOrder h.yields, c ∈ h.yields.map (·.1) := fun c =>
    ((State.sendOrder_sends yields).mem c).1
  have memLanes : ∀ c ∈ s.sendOrder h.lanes, c ∈ h.lanes.map (·.1) := fun c hc => by
    rw [State.sendOrder, State.mem_moveOrder, List.mem_filter] at hc
    exact laneIn_isSome.1 hc.2
  unfold State.issueOrders
  dsimp only
  rw [State.batchOrder_laneIn, State.batchOrder_laneIn]
  obtain ⟨yieldsEq, setup⟩ := yieldAll _ memYields s rfl
  rw [← stepAll _ memLanes _ setup, ← yieldsEq] <;> rfl
end
end
end Sys2Proof.Machine

open Sys2Proof Sys2Proof.Machine in
/-- Settles O58: a scan entry by entry and walk by walk; each walk that acts takes a step out of WAITING, so that the fuel of
the scan is enough. -/
theorem dispatchScan : Obligations.DispatchScan := by
  refine ⟨fun e => Entry.inFlight_iff, fun s older e => ?_, fun s older younger e window fresh => ⟨?_, fun a b top bottom => ?_⟩,
    fun s e h lane point yields lanes laneOf points => ?_, fun s c q v p => ⟨fun busy => if_neg busy, fun idle => ?_⟩,
    fun s scan withdraw reach serves => ?_, fun s u => State.walk_iff, fun s length nodup => ?_⟩
  · intro joined eligible skipped
    have can : s.eligible older e = true ↔ eligible := State.eligible_iff
    have skips : s.skips e = true ↔ skipped := State.skips_iff
    exact ⟨fun no => State.scanEntry_ineligible fun h => no (can.1 h),
      fun yes skip => State.scanEntry_skips (can.2 yes) (skips.2 skip),
      fun yes go a b top bottom => State.scanEntry_dispatches (can.2 yes) (fun h => go (skips.1 h)) top bottom,
      fun _ go ⟨d, none_⟩ => State.scanEntry_passes (fun h => go (skips.1 h)) none_⟩
  · intro o u
    have there : s.entry e.slot = some e := State.entry_split window fresh
    refine ⟨rfl, rfl, rfl, rfl, List.map_const' .., ?_, ?_, ?_⟩
    · exact State.endWaiting_skipped there rfl
    · change (s.endWaiting e.slot o).disp.scan = true
      rw [State.endWaiting_eq there]
      rfl
    · change (s.endWaiting e.slot o).disp.window = _
      rw [State.endWaiting_window there, window]
      exact map_split fresh
  · have merged := mergeSides_merges (p := e.copy.points) (a := a.lanes.map (·.1)) (b := b.lanes.map (·.1))
      ((List.length_map _).trans (State.choose_length top)) ((List.length_map _).trans (State.choose_length bottom))
    obtain ⟨count, full, onTop, onBottom⟩ := merged
    exact ⟨_, count, full, ⟨onTop, onBottom⟩, State.dispatch_eq window fresh⟩
  · intro ordered
    obtain ⟨nodup, mem, order⟩ := State.sendOrder_sends (s := s) yields
    obtain ⟨nodup', mem', order'⟩ := State.sendOrder_sends (s := s) lanes
    exact ⟨s.sendOrder h.yields, s.sendOrder h.lanes, ⟨nodup, mem, order⟩, ⟨nodup', mem', order'⟩,
      State.issueOrders_eq yields laneOf points⟩
  · exact ⟨s.ordered c q v p, State.confined_ordered.eq_mix, fun x => State.carr_ordered, State.orderTravel_idle idle⟩
  · intro u
    have round : s.dispatchRound = u := State.dispatchRound_scan scan withdraw reach serves
    have stage := State.dispatcherStage_scan scan
    rw [round] at stage
    refine ⟨round, fun done => ?_, fun _ => ?_⟩
    · rw [stage, State.dispatchRounds_done done]
    · rw [stage]
      exact State.dispatchRounds_iterate 63 u
  · intro u
    have fuel : s.waits < 17 := by
      have := List.countP_le_length (l := s.disp.window) (p := fun e : Entry => e.state == .waiting)
      rw [State.waits]
      omega
    refine ⟨(State.scan_ends nodup fuel).1, fun none_ => State.scan_none none_, fun v some_ => ?_⟩
    obtain ⟨slots, waits⟩ := State.walk_acts nodup some_
    have ends := State.scan_ends (s := v) (n := 16) (by rw [slots]; exact nodup) (by omega)
    exact (State.scan_some some_).trans (ends.2 17 (by omega)).symm
end

section
/-! PROOFS. The reachability test: the assignments it searches, and the greedy packing of a side's carriages, which finds
lanes for all of them exactly where there are some (R81). -/

set_option Elab.async false

namespace Sys2Proof.Machine

section
variable {s t : State} {d : Side} {c x : Carriage} {p : List Point} {a : List Carriage} {l : List (Carriage × Nat)}

/-! ## The assignments (R88) -/

theorem mem_injections {free : List Carriage} :
    a ∈ injections p free ↔ a.length = p.length ∧ a.Nodup ∧ ∀ c ∈ a, c ∈ free := by
  induction p generalizing a free with
  | nil =>
    rw [injections, List.mem_singleton, List.length_nil, List.length_eq_zero_iff]
    refine ⟨?_, fun h => h.1⟩
    rintro rfl
    exact ⟨rfl, .nil, nofun⟩
  | cons q rest ih =>
    rw [injections, List.mem_flatMap]
    constructor
    · rintro ⟨c, hc, ha⟩
      obtain ⟨r, hr, rfl⟩ := List.mem_map.1 ha
      obtain ⟨length, nodup, mem⟩ := ih.1 hr
      have inFree (x : Carriage) (hx : x ∈ r) : x ∈ free ∧ x ≠ c := by
        simpa [List.mem_filter] using mem x hx
      refine ⟨by rw [List.length_cons, List.length_cons, length], List.nodup_cons.2 ⟨fun h => (inFree c h).2 rfl, nodup⟩, ?_⟩
      intro x hx
      obtain rfl | hx := List.mem_cons.1 hx
      · exact hc
      · exact (inFree x hx).1
    · rintro ⟨length, nodup, mem⟩
      obtain ⟨c, r, rfl⟩ := List.exists_cons_of_length_eq_add_one length
      obtain ⟨out, nodup⟩ := List.nodup_cons.1 nodup
      refine ⟨c, mem c List.mem_cons_self, List.mem_map.2 ⟨r, ih.2 ⟨Nat.succ.inj length, nodup, fun x hx => ?_⟩, rfl⟩⟩
      rw [List.mem_filter]
      exact ⟨mem x (List.mem_cons_of_mem _ hx), bne_iff_ne.2 fun e => out (e ▸ hx)⟩

theorem State.mem_inService : c ∈ s.inService d ↔ sideOf c = d ∧ (s.carr c).inService = true := by
  rw [State.inService, List.mem_filter, mem_carriagesOf]

/-- Points and carriages place by place. -/
def PlaceByPlace (p : List Point) (a : List Carriage) (P : Point → Carriage → Prop) : Prop :=
  ∀ (n : Nat) (q : Point) (c : Carriage), p[n]? = some q → a[n]? = some c → P q c

theorem placeByPlace_nil {P : Point → Carriage → Prop} : PlaceByPlace p [] P := fun n q c _ h => by
  rw [List.getElem?_nil] at h
  cases h

theorem placeByPlace_cons {q : Point} {P : Point → Carriage → Prop} :
    PlaceByPlace (q :: p) (c :: a) P ↔ P q c ∧ PlaceByPlace p a P := by
  refine ⟨fun h => ⟨h 0 q c rfl rfl, fun n => h (n + 1)⟩, fun ⟨first, rest⟩ n => ?_⟩
  cases n with
  | zero =>
    intro q' c' hq hc
    obtain rfl := Option.some.inj hq
    obtain rfl := Option.some.inj hc
    exact first
  | succ n => exact rest n

/-- A point in field for its carriage. -/
def State.fieldOk (s : State) (q : Point) (c : Carriage) : Prop := s.setup.inField c q.at_ = true

/-- A lane is that of a carriage's target. -/
def State.laneOk (s : State) (lane : Carriage → Nat) (q : Point) (c : Carriage) : Prop :=
  lane c = s.setup.laneFor c (q.at_.x - (s.cset c).tipOffset)

/-- Where every target is in field, an assignment has its targets' lanes, and else none. -/
theorem State.targetLanes_iff (length : a.length = p.length) {lane : Carriage → Nat} (lanes : PlaceByPlace p a (s.laneOk lane)) :
    (PlaceByPlace p a s.fieldOk → s.setup.targetLanes p a = some (a.map fun c => (c, lane c))) ∧
    (¬ PlaceByPlace p a s.fieldOk → s.setup.targetLanes p a = none) := by
  induction p generalizing a with
  | nil =>
    obtain rfl := List.length_eq_zero_iff.1 length
    exact ⟨fun _ => rfl, fun h => absurd placeByPlace_nil h⟩
  | cons q rest ih =>
    obtain ⟨c, r, rfl⟩ := List.exists_cons_of_length_eq_add_one length
    obtain ⟨first, lanes⟩ := placeByPlace_cons.1 lanes
    obtain ⟨goes, fails⟩ := ih (Nat.succ.inj length) lanes
    have target : s.setup.laneFor c (s.setup.target c q.at_).x = lane c := first.symm
    rw [placeByPlace_cons, Setup.targetLanes, target]
    refine ⟨fun ⟨here, tail⟩ => ?_, fun h => ?_⟩
    · rw [goes tail]
      exact if_pos here
    · by_cases here : s.fieldOk q c
      · rw [fails fun tail => h ⟨here, tail⟩]
        exact if_pos here
      · exact if_neg here

/-- The lanes of an assignment's targets. -/
theorem State.exists_lanes (s : State) (nodup : a.Nodup) : ∃ lane, PlaceByPlace p a (s.laneOk lane) := by
  induction a generalizing p with
  | nil => exact ⟨fun _ => 0, placeByPlace_nil⟩
  | cons c r ih =>
    obtain ⟨out, nodup⟩ := List.nodup_cons.1 nodup
    cases p with
    | nil => exact ⟨fun _ => 0, fun n q c h => by rw [List.getElem?_nil] at h; cases h⟩
    | cons q rest =>
      obtain ⟨lane, lanes⟩ := ih (p := rest) nodup
      refine ⟨Function.update lane c (s.setup.laneFor c (q.at_.x - (s.cset c).tipOffset)), placeByPlace_cons.2 ⟨?_, ?_⟩⟩
      · exact Function.update_self ..
      · intro n q' x hq hx
        have ne : x ≠ c := fun e => out (e ▸ List.mem_of_getElem? hx)
        rw [State.laneOk, Function.update_of_ne ne]
        exact lanes n q' x hq hx

theorem laneIn_map {lane : Carriage → Nat} : laneIn (a.map fun c => (c, lane c)) c = if c ∈ a then some (lane c) else none := by
  induction a with
  | nil => rfl
  | cons x rest ih =>
    by_cases here : x = c
    · subst here
      rw [if_pos List.mem_cons_self]
      simp [laneIn]
    · have tail : laneIn ((x :: rest).map fun c => (c, lane c)) c = laneIn (rest.map fun c => (c, lane c)) c := by
        simp [laneIn, here]
      rw [tail, ih]
      simp [Ne.symm here]

/-! ## The packing of a side (R81) -/

/-- A lane that the packing may give a carriage. -/
def State.laneFree (s : State) (d : Side) (l : List (Carriage × Nat)) (c : Carriage) (k : Nat) : Prop :=
  match laneIn l c with
  | some j => k = j
  | none => k < s.setup.fieldLanes d

/-- The span of a carriage at its lane. -/
def State.spanOf (s : State) (lane : Carriage → Nat) (c : Carriage) : Interval := s.setup.span c (lane c)

/-- A carriage in FAULT with its frozen claim. -/
def State.frozen (s : State) (f : Carriage) (k : Interval) : Prop := (s.carr f).state = .fault ∧ s.claimOf f = some k

/-- How a carriage stands to one of higher index: spans rise, and clear the frozen claims. -/
def State.clears (s : State) (lane : Carriage → Nat) (x y : Carriage) : Prop :=
  ((s.carr x).inService = true → (s.carr y).inService = true → (s.spanOf lane x).hi < (s.spanOf lane y).lo) ∧
  (∀ k, s.frozen y k → (s.carr x).inService = true → (s.spanOf lane x).hi < k.lo) ∧
  (∀ k, s.frozen x k → (s.carr y).inService = true → k.hi < (s.spanOf lane y).lo)

/-- Lanes for the carriages of a list, above what is placed and frozen already. -/
structure State.Lanes (s : State) (d : Side) (l : List (Carriage × Nat)) (lane : Carriage → Nat) (cs : List Carriage)
    (placed low : Nat) : Prop where
  free : ∀ c ∈ cs, (s.carr c).inService = true → s.laneFree d l c (lane c)
  above : ∀ c ∈ cs, (s.carr c).inService = true → placed ≤ (s.spanOf lane c).lo ∧ low ≤ (s.spanOf lane c).lo
  frozen : ∀ f ∈ cs, ∀ k, s.frozen f k → placed ≤ k.lo
  clear : cs.Pairwise (s.clears lane)

variable {lane : Carriage → Nat} {cs : List Carriage} {placed low : Nat}

/-- A carriage that is neither in service nor holds a frozen claim asks for nothing. -/
theorem State.Lanes.skip (out : (s.carr c).inService = false) (none_ : ∀ k, ¬ s.frozen c k) :
    s.Lanes d l lane (c :: cs) placed low ↔ s.Lanes d l lane cs placed low := by
  have noService : ¬ (s.carr c).inService = true := by rw [out]; nofun
  constructor
  · rintro ⟨free, above, frozen, clear⟩
    exact ⟨fun x hx => free x (List.mem_cons_of_mem _ hx), fun x hx => above x (List.mem_cons_of_mem _ hx),
      fun x hx => frozen x (List.mem_cons_of_mem _ hx), (List.pairwise_cons.1 clear).2⟩
  · rintro ⟨free, above, frozen, clear⟩
    refine ⟨fun x hx on => ?_, fun x hx on => ?_, fun x hx k f => ?_, List.pairwise_cons.2 ⟨fun y hy => ?_, clear⟩⟩
    · obtain rfl | hx := List.mem_cons.1 hx
      · exact absurd on noService
      · exact free x hx on
    · obtain rfl | hx := List.mem_cons.1 hx
      · exact absurd on noService
      · exact above x hx on
    · obtain rfl | hx := List.mem_cons.1 hx
      · exact absurd f (none_ k)
      · exact frozen x hx k f
    · exact ⟨fun on => absurd on noService, fun k f on => absurd on noService, fun k f => absurd f (none_ k)⟩

/-- A frozen claim lies above what is placed, and all that follows lies above it. -/
theorem State.Lanes.freeze {k : Interval} (f : s.frozen c k) : s.Lanes d l lane (c :: cs) placed low ↔
    placed ≤ k.lo ∧ s.Lanes d l lane cs placed (max low (k.hi + 1)) := by
  have noService : ¬ (s.carr c).inService = true := by
    rw [CarriageRec.inService, f.1]
    decide
  have only {j : Interval} (g : s.frozen c j) : j = k := Option.some.inj (g.2.symm.trans f.2)
  constructor
  · rintro ⟨free, above, frozen, clear⟩
    obtain ⟨first, clear⟩ := List.pairwise_cons.1 clear
    refine ⟨frozen c List.mem_cons_self k f, fun x hx => free x (List.mem_cons_of_mem _ hx), fun x hx on => ?_,
      fun x hx => frozen x (List.mem_cons_of_mem _ hx), clear⟩
    obtain ⟨overPlaced, overLow⟩ := above x (List.mem_cons_of_mem _ hx) on
    exact ⟨overPlaced, max_le overLow ((first x hx).2.2 k f on)⟩
  · rintro ⟨here, free, above, frozen, clear⟩
    refine ⟨fun x hx on => ?_, fun x hx on => ?_, fun x hx j g => ?_, List.pairwise_cons.2 ⟨fun y hy => ?_, clear⟩⟩
    · obtain rfl | hx := List.mem_cons.1 hx
      · exact absurd on noService
      · exact free x hx on
    · obtain rfl | hx := List.mem_cons.1 hx
      · exact absurd on noService
      · obtain ⟨overPlaced, overLow⟩ := above x hx on
        exact ⟨overPlaced, (le_max_left ..).trans overLow⟩
    · obtain rfl | hx := List.mem_cons.1 hx
      · rw [only g]
        exact here
      · exact frozen x hx j g
    · refine ⟨fun on => absurd on noService, fun j g on => absurd on noService, fun j g on => ?_⟩
      rw [only g]
      exact (le_max_right ..).trans (above y hy on).2

/-- A carriage in service takes its lane above what is placed and frozen, and is then placed itself. -/
theorem State.Lanes.place (on : (s.carr c).inService = true) (holds : s.laneFree d l c (lane c) → (s.spanOf lane c).lo ≤ (s.spanOf lane c).hi) :
    s.Lanes d l lane (c :: cs) placed low ↔ s.laneFree d l c (lane c) ∧ max placed low ≤ (s.spanOf lane c).lo ∧
      s.Lanes d l lane cs ((s.spanOf lane c).hi + 1) low := by
  have noFault {k : Interval} : ¬ s.frozen c k := fun f => by
    rw [CarriageRec.inService, f.1] at on
    exact absurd on (by decide)
  constructor
  · rintro ⟨free, above, frozen, clear⟩
    obtain ⟨first, clear⟩ := List.pairwise_cons.1 clear
    obtain ⟨overPlaced, overLow⟩ := above c List.mem_cons_self on
    refine ⟨free c List.mem_cons_self on, max_le overPlaced overLow, fun x hx => free x (List.mem_cons_of_mem _ hx),
      fun x hx onX => ⟨(first x hx).1 on onX, (above x (List.mem_cons_of_mem _ hx) onX).2⟩,
      fun x hx k f => (first x hx).2.1 k f on, clear⟩
  · rintro ⟨here, over_, free, above, frozen, clear⟩
    have nonempty := holds here
    obtain ⟨overPlaced, overLow⟩ := max_le_iff.1 over_
    refine ⟨fun x hx onX => ?_, fun x hx onX => ?_, fun x hx k f => ?_, List.pairwise_cons.2 ⟨fun y hy => ?_, clear⟩⟩
    · obtain rfl | hx := List.mem_cons.1 hx
      · exact here
      · exact free x hx onX
    · obtain rfl | hx := List.mem_cons.1 hx
      · exact ⟨overPlaced, overLow⟩
      · have := above x hx onX
        exact ⟨by omega, this.2⟩
    · obtain rfl | hx := List.mem_cons.1 hx
      · exact absurd f noFault
      · have := frozen x hx k f
        omega
    · exact ⟨fun _ onY => (above y hy onY).1, fun k f _ => frozen y hy k f, fun k f => absurd f noFault⟩

/-! ## The packing as it runs -/

theorem State.packs_skip (out : (s.carr c).inService = false) (none_ : ∀ k, ¬ s.frozen c k) :
    s.packs d l (c :: cs) placed low = s.packs d l cs placed low := by
  rw [State.packs.eq_def]
  dsimp only
  cases state : (s.carr c).state with
  | off => rfl
  | fault =>
    cases claim : s.claimOf c with
    | none => rfl
    | some k => exact absurd ⟨state, claim⟩ (none_ k)
  | _ =>
    rw [CarriageRec.inService, state] at out
    cases out

theorem State.packs_freeze {k : Interval} (f : s.frozen c k) : s.packs d l (c :: cs) placed low =
    (decide (placed ≤ k.lo) && s.packs d l cs placed (max low (k.hi + 1))) := by
  rw [State.packs.eq_def]
  simp only [f.1, f.2]

theorem State.packs_place {k : Nat} (on : (s.carr c).inService = true)
    (takes : (laneIn l c).getD (lowestLane (s.cset c).guard (max placed low)) = k) : s.packs d l (c :: cs) placed low =
      (((laneIn l c).isSome || decide (k < s.setup.fieldLanes d)) &&
        (decide (max placed low ≤ (s.setup.span c k).lo) && s.packs d l cs ((s.setup.span c k).hi + 1) low)) := by
  rw [State.packs.eq_def]
  dsimp only
  cases state : (s.carr c).state with
  | off =>
    rw [CarriageRec.inService, state] at on
    cases on
  | fault =>
    rw [CarriageRec.inService, state] at on
    cases on
  | _ =>
    cases lane : laneIn l c with
    | none =>
      rw [lane] at takes
      obtain rfl : lowestLane (s.cset c).guard (max placed low) = k := takes
      rfl
    | some j =>
      rw [lane] at takes
      obtain rfl : j = k := takes
      rfl

/-- No lane whose span lies at or above a lane is below the lowest one, and that one's span does lie there. -/
theorem lowestLane_le {g b k : Nat} (h : b ≤ (spanAt g k).lo) : lowestLane g b ≤ k := by
  unfold lowestLane
  simp only [spanAt] at h
  split <;> omega

theorem lowestLane_lo {g b : Nat} : b ≤ (spanAt g (lowestLane g b)).lo := by
  unfold lowestLane
  simp only [spanAt]
  split <;> omega

theorem spanAt_hi_mono {g j k : Nat} (h : j ≤ k) : (spanAt g j).hi ≤ (spanAt g k).hi := by
  simp only [spanAt]
  omega

/-- What is placed and frozen may lie lower. -/
theorem State.Lanes.mono {placed' : Nat} (h : s.Lanes d l lane cs placed low) (le : placed' ≤ placed) :
    s.Lanes d l lane cs placed' low :=
  ⟨h.free, fun c hc on => ⟨le.trans (h.above c hc on).1, (h.above c hc on).2⟩, fun f hf k g => le.trans (h.frozen f hf k g),
    h.clear⟩

/-- Lanes of other carriages do not matter. -/
theorem State.Lanes.update {k : Nat} (h : s.Lanes d l lane cs placed low) (out : c ∉ cs) :
    s.Lanes d l (Function.update lane c k) cs placed low := by
  have same (x : Carriage) (hx : x ∈ cs) : Function.update lane c k x = lane x :=
    Function.update_of_ne (fun e : x = c => out (e ▸ hx)) ..
  have span (x : Carriage) (hx : x ∈ cs) : s.spanOf (Function.update lane c k) x = s.spanOf lane x := by
    rw [State.spanOf, State.spanOf, same x hx]
  refine ⟨fun x hx => by rw [same x hx]; exact h.free x hx, fun x hx => by rw [span x hx]; exact h.above x hx, h.frozen, ?_⟩
  refine h.clear.imp_of_mem fun {x y} hx hy clears => ?_
  unfold State.clears
  rw [span x hx, span y hy]
  exact clears

theorem State.laneFree_iff {k : Nat} (h : laneIn l c = none) : s.laneFree d l c k ↔ k < s.setup.fieldLanes d := by
  rw [State.laneFree, h]

theorem State.laneFree_some {j k : Nat} (h : laneIn l c = some j) : s.laneFree d l c k ↔ k = j := by
  rw [State.laneFree, h]

/-- The packing finds lanes for the carriages of a list exactly where there are some. -/
theorem State.packs_iff (lanes : s.setup.fieldLanes d ≤ 128) (held : ∀ c k, laneIn l c = some k → k ≤ 127) (nodup : cs.Nodup) :
    s.packs d l cs placed low = true ↔ ∃ lane, s.Lanes d l lane cs placed low := by
  have holds (lane : Carriage → Nat) (c : Carriage) (h : s.laneFree d l c (lane c)) :
      (s.spanOf lane c).lo ≤ (s.spanOf lane c).hi := by
    refine spanAt_nonempty ?_
    cases takes : laneIn l c with
    | none =>
      have := (State.laneFree_iff takes).1 h
      omega
    | some j =>
      rw [(State.laneFree_some takes).1 h]
      exact held c j takes
  induction cs generalizing placed low with
  | nil => exact ⟨fun _ => ⟨fun _ => 0, nofun, nofun, nofun, .nil⟩, fun _ => rfl⟩
  | cons c rest ih =>
    obtain ⟨out, nodup⟩ := List.nodup_cons.1 nodup
    have tail (placed low : Nat) : s.packs d l rest placed low = true ↔ ∃ lane, s.Lanes d l lane rest placed low := ih nodup
    by_cases on : (s.carr c).inService = true
    · rw [State.packs_place on rfl, Bool.and_eq_true, Bool.or_eq_true, Bool.and_eq_true, decide_eq_true_eq, decide_eq_true_eq,
        tail]
      cases takes : laneIn l c with
      | some j =>
        rw [Option.getD_some]
        constructor
        · rintro ⟨-, over_, lane, rests⟩
          have here : Function.update lane c j c = j := Function.update_self ..
          refine ⟨Function.update lane c j, (State.Lanes.place on (holds _ c)).2 ⟨(State.laneFree_some takes).2 here, ?_⟩⟩
          rw [State.spanOf, here]
          exact ⟨over_, rests.update out⟩
        · rintro ⟨lane, all⟩
          obtain ⟨free, over_, rests⟩ := (State.Lanes.place on (holds lane c)).1 all
          have here := (State.laneFree_some takes).1 free
          rw [State.spanOf, here] at over_ rests
          exact ⟨.inl rfl, over_, lane, rests⟩
      | none =>
        rw [Option.getD_none]
        constructor
        · rintro ⟨inField, over_, lane, rests⟩
          have here : Function.update lane c (lowestLane (s.cset c).guard (max placed low)) c =
            lowestLane (s.cset c).guard (max placed low) := Function.update_self ..
          refine ⟨Function.update lane c (lowestLane (s.cset c).guard (max placed low)),
            (State.Lanes.place on (holds _ c)).2 ⟨(State.laneFree_iff takes).2 ?_, ?_⟩⟩
          · rw [here]
            exact inField.resolve_left nofun
          · rw [State.spanOf, here]
            exact ⟨over_, rests.update out⟩
        · rintro ⟨lane, all⟩
          obtain ⟨free, over_, rests⟩ := (State.Lanes.place on (holds lane c)).1 all
          have lowest : lowestLane (s.cset c).guard (max placed low) ≤ lane c := lowestLane_le over_
          have inField := (State.laneFree_iff takes).1 free
          refine ⟨.inr (by omega), lowestLane_lo, lane, rests.mono ?_⟩
          exact Nat.succ_le_succ (spanAt_hi_mono lowest)
    · have off := Bool.eq_false_iff.2 on
      by_cases frozen : ∃ k, s.frozen c k
      · obtain ⟨k, f⟩ := frozen
        rw [State.packs_freeze f, Bool.and_eq_true, decide_eq_true_eq, tail]
        simp only [State.Lanes.freeze f, exists_and_left]
      · have none_ := not_exists.1 frozen
        rw [State.packs_skip off none_, tail]
        simp only [State.Lanes.skip off none_]

/-! ## The test of a side (R81) -/

/-- Lanes for every carriage in service of a side, as R81 words it, with those of an assignment given. -/
structure State.Reaches (s : State) (d : Side) (p : List Point) (a : List Carriage) (lane : Carriage → Nat) : Prop where
  targets : ∀ (n : Nat) (q : Point) (c : Carriage), p[n]? = some q → a[n]? = some c → s.fieldOk q c ∧ s.laneOk lane q c
  others : ∀ c, sideOf c = d → (s.carr c).inService = true → c ∉ a → lane c < s.setup.fieldLanes d
  rise : ∀ x y, sideOf x = d → sideOf y = d → (s.carr x).inService = true → (s.carr y).inService = true →
    driveNumber x < driveNumber y → (s.spanOf lane x).hi < (s.spanOf lane y).lo
  frozen : ∀ f k x, sideOf f = d → (s.carr f).state = .fault → s.claimOf f = some k → sideOf x = d →
    (s.carr x).inService = true → (driveNumber x < driveNumber f → (s.spanOf lane x).hi < k.lo) ∧
      (driveNumber f < driveNumber x → k.hi < (s.spanOf lane x).lo)

/-- Lanes that agree on an assignment give the same targets. -/
theorem targets_congr {lane' : Carriage → Nat} (length : a.length = p.length) (h : PlaceByPlace p a (s.laneOk lane))
    (h' : PlaceByPlace p a (s.laneOk lane')) : ∀ c ∈ a, lane c = lane' c := fun c hc => by
  obtain ⟨n, hn, rfl⟩ := List.mem_iff_getElem.1 hc
  have hp : n < p.length := length ▸ hn
  have first := h n p[n] a[n] (List.getElem?_eq_getElem hp) (List.getElem?_eq_getElem hn)
  have second := h' n p[n] a[n] (List.getElem?_eq_getElem hp) (List.getElem?_eq_getElem hn)
  exact first.trans second.symm

/-- The lanes of a packing of the whole side are those of R81. -/
theorem State.lanes_reaches {target : Carriage → Nat} (length : a.length = p.length) (serves : ∀ c ∈ a, c ∈ s.inService d)
    (fields : PlaceByPlace p a s.fieldOk) (targets : PlaceByPlace p a (s.laneOk target)) :
    s.Lanes d (a.map fun c => (c, target c)) lane (carriagesOf d) 0 0 ↔ s.Reaches d p a lane := by
  have pairs := pairwise_iff_of_sorted (R := s.clears lane) (carriagesOf_sorted d)
  have clears : (carriagesOf d).Pairwise (s.clears lane) ↔ ∀ x y, sideOf x = d → sideOf y = d →
      driveNumber x < driveNumber y → s.clears lane x y := by
    rw [pairs]
    simp only [mem_carriagesOf]
    exact ⟨fun h x y hx hy => h x hx y hy, fun h x hx y hy => h x y hx hy⟩
  constructor
  · rintro ⟨free, -, -, clear⟩
    rw [clears] at clear
    have assigned (c : Carriage) (hc : c ∈ a) : lane c = target c := by
      obtain ⟨side, on⟩ := State.mem_inService.1 (serves c hc)
      exact (State.laneFree_some (laneIn_map.trans (if_pos hc))).1 (free c ((mem_carriagesOf c d).2 side) on)
    refine ⟨fun n q c hq hc => ⟨fields n q c hq hc, ?_⟩, fun c side on out => ?_, fun x y hx hy onX onY order =>
      (clear x y hx hy order).1 onX onY, fun f k x hf fault claim hx on => ⟨fun order => ?_, fun order => ?_⟩⟩
    · rw [State.laneOk, assigned c (List.mem_of_getElem? hc)]
      exact targets n q c hq hc
    · exact (State.laneFree_iff (laneIn_map.trans (if_neg out))).1 (free c ((mem_carriagesOf c d).2 side) on)
    · exact (clear x f hx hf order).2.1 k ⟨fault, claim⟩ on
    · exact (clear f x hf hx order).2.2 k ⟨fault, claim⟩ on
  · rintro ⟨given, others, rise, frozen⟩
    have assigned := targets_congr length (fun n q c hq hc => (given n q c hq hc).2) targets
    refine ⟨fun c hc on => ?_, fun c _ _ => ⟨Nat.zero_le _, Nat.zero_le _⟩, fun _ _ _ _ => Nat.zero_le _,
      clears.2 fun x y hx hy order => ⟨fun onX onY => rise x y hx hy onX onY order, fun k f on => ?_, fun k f on => ?_⟩⟩
    · by_cases inA : c ∈ a
      · exact (State.laneFree_some (laneIn_map.trans (if_pos inA))).2 (assigned c inA)
      · exact (State.laneFree_iff (laneIn_map.trans (if_neg inA))).2 (others c ((mem_carriagesOf c d).1 hc) on inA)
    · exact (frozen y k x hy f.1 f.2 hx on).1 order
    · exact (frozen x k y hx f.1 f.2 hy on).2 order

theorem State.sideReaches_iff (points : p ≠ []) (lanes : s.setup.fieldLanes d ≤ 128) : s.sideReaches d p = true ↔
    ∃ a lane, a.length = p.length ∧ a.Nodup ∧ (∀ c ∈ a, c ∈ s.inService d) ∧ s.Reaches d p a lane := by
  have notEmpty : p.isEmpty = false := List.isEmpty_eq_false_iff.2 points
  rw [State.sideReaches, notEmpty, Bool.false_or, List.any_eq_true]
  refine exists_congr fun a => ?_
  rw [mem_injections]
  have packs (length : a.length = p.length) (nodup : a.Nodup) (serves : ∀ c ∈ a, c ∈ s.inService d) :
      (match s.setup.targetLanes p a with
        | some l => s.packs d l (carriagesOf d) 0 0
        | none => false) = true ↔ ∃ lane, s.Reaches d p a lane := by
    obtain ⟨target, targets⟩ := s.exists_lanes (p := p) nodup
    obtain ⟨goes, fails⟩ := State.targetLanes_iff length targets
    by_cases fields : PlaceByPlace p a s.fieldOk
    · have held (c : Carriage) (k : Nat) (h : laneIn (a.map fun c => (c, target c)) c = some k) : k ≤ 127 := by
        rw [laneIn_map] at h
        split at h
        · next hc =>
          obtain rfl := Option.some.inj h
          obtain ⟨n, hn, rfl⟩ := List.mem_iff_getElem.1 hc
          have at_ := targets n p[n] a[n] (List.getElem?_eq_getElem (length ▸ hn)) (List.getElem?_eq_getElem hn)
          rw [at_]
          refine Setup.laneFor_le ?_
          rw [(State.mem_inService.1 (serves _ hc)).1]
          exact lanes
        · cases h
      rw [goes fields, State.packs_iff lanes held ((carriagesOf_sorted d).imp fun h e => absurd (congrArg driveNumber e) h.ne)]
      exact exists_congr fun lane => State.lanes_reaches length serves fields targets
    · rw [fails fields]
      exact ⟨nofun, fun ⟨lane, h⟩ => absurd (fun n q c hq hc => (h.targets n q c hq hc).1) fields⟩
  constructor
  · rintro ⟨⟨length, nodup, serves⟩, found⟩
    obtain ⟨lane, reaches⟩ := (packs length nodup serves).1 found
    exact ⟨lane, length, nodup, serves, reaches⟩
  · rintro ⟨lane, length, nodup, serves, reaches⟩
    exact ⟨⟨length, nodup, serves⟩, (packs length nodup serves).2 ⟨lane, reaches⟩⟩

/-! ## What the test reads (R81) -/

/-- Two states that the reachability test does not tell apart. -/
structure SameReach (s t : State) : Prop where
  setup : t.setup = s.setup
  states : ∀ x, (t.carr x).state = (s.carr x).state
  claims : ∀ x, (s.carr x).state = .fault → t.claimOf x = s.claimOf x

theorem SameReach.inService (h : SameReach s t) (d : Side) : t.inService d = s.inService d :=
  List.filter_congr fun c _ => by rw [CarriageRec.inService, CarriageRec.inService, h.states]

theorem SameReach.packs (h : SameReach s t) (cs : List Carriage) (placed low : Nat) :
    t.packs d l cs placed low = s.packs d l cs placed low := by
  induction cs generalizing placed low with
  | nil => rfl
  | cons c rest ih =>
    have cset : t.cset c = s.cset c := by rw [State.cset, State.cset, h.setup]
    have service : (t.carr c).inService = (s.carr c).inService := by
      rw [CarriageRec.inService, CarriageRec.inService, h.states]
    by_cases on : (s.carr c).inService = true
    · rw [State.packs_place (service.trans on) rfl, State.packs_place on rfl, ih, cset, h.setup]
    · have off := Bool.eq_false_iff.2 on
      have frozen (k : Interval) : t.frozen c k ↔ s.frozen c k := by
        rw [State.frozen, State.frozen, h.states]
        exact and_congr_right fun fault => by rw [h.claims c fault]
      by_cases holds : ∃ k, s.frozen c k
      · obtain ⟨k, f⟩ := holds
        rw [State.packs_freeze ((frozen k).2 f), State.packs_freeze f, ih]
      · have none_ := not_exists.1 holds
        rw [State.packs_skip (service.trans off) fun k f => none_ k ((frozen k).1 f), State.packs_skip off none_, ih]

theorem SameReach.unreachable (h : SameReach s t) (c : StepCopy) : t.unreachable c = s.unreachable c := by
  have reaches (d : Side) (p : List Point) : t.sideReaches d p = s.sideReaches d p := by
    rw [State.sideReaches, State.sideReaches, h.inService, h.setup]
    refine congrArg (fun f => p.isEmpty || (injections p (s.inService d)).any f) (funext fun a => ?_)
    cases s.setup.targetLanes p a with
    | none => rfl
    | some l => exact h.packs _ _ _
  simp only [State.unreachable, State.sideShort, h.inService, reaches] <;> rfl

theorem State.sideShort_iff {c : StepCopy} : (s.sideShort .top c || s.sideShort .bottom c) = true ↔
    ∃ d, (s.inService d).length < (c.pointsOn d).length := by
  rw [Bool.or_eq_true, State.sideShort, State.sideShort, decide_eq_true_eq, decide_eq_true_eq]
  refine ⟨fun h => h.elim (fun h => ⟨_, h⟩) fun h => ⟨_, h⟩, fun ⟨d, h⟩ => ?_⟩
  cases d with
  | top => exact .inl h
  | bottom => exact .inr h

theorem State.bothReach_iff {c : StepCopy} :
    (s.sideReaches .top (c.pointsOn .top) && s.sideReaches .bottom (c.pointsOn .bottom)) = true ↔
      ∀ d, s.sideReaches d (c.pointsOn d) = true := by
  rw [Bool.and_eq_true]
  refine ⟨fun h d => ?_, fun h => ⟨h _, h _⟩⟩
  cases d with
  | top => exact h.1
  | bottom => exact h.2

/-! ## A WAITING step that fails it (R82) -/

theorem State.testReach_same {e : Entry} (h : e.state ≠ .waiting ∨ e.outcome ≠ none ∨ s.unreachable e.copy = none) :
    s.testReach e = s := by
  unfold State.testReach
  by_cases tested : e.state = .waiting ∧ e.outcome.isNone = true
  · obtain other | decided | reached := h
    · exact absurd tested.1 other
    · exact absurd (Option.isNone_iff_eq_none.1 tested.2) decided
    · rw [if_pos tested, reached]
  · exact if_neg tested

theorem State.testReach_fails {e : Entry} {k : Cause} (waiting : e.state = .waiting) (open_ : e.outcome = none)
    (fails : s.unreachable e.copy = some k) : s.testReach e =
      s.endWaiting e.slot { e.endedOutcome .error k s.clock with value := 256 * 11, gain := e.copy.gainRead } := by
  unfold State.testReach
  rw [if_pos ⟨waiting, Option.isNone_iff_eq_none.2 open_⟩, fails]
end
end Sys2Proof.Machine

open Sys2Proof Sys2Proof.Machine in
/-- Settles O56: the greedy packing keeps every carriage as low as it can stand, so that it finds lanes wherever there are
some; the test reads nothing else. -/
theorem reachabilityRule : Obligations.ReachabilityRule := by
  refine ⟨fun s d points some_ lanes => (State.sideReaches_iff some_ lanes).trans ?_, fun s d => rfl, fun s c => ?_,
    fun s e there => ⟨State.testReach_same, fun k waiting open_ fails => ?_⟩, fun s t c setup states claims =>
      SameReach.unreachable ⟨setup, states, claims⟩ c⟩
  · refine exists_congr fun a => exists_congr fun lane => and_congr_right fun _ => and_congr_right fun _ => ?_
    refine and_congr (forall₂_congr fun c _ => State.mem_inService) ⟨fun h => ?_, fun ⟨targets, others, rise, frozen⟩ => ?_⟩
    · obtain ⟨targets, others, rise, frozen⟩ := h
      exact ⟨targets, others, rise, frozen⟩
    · exact ⟨targets, others, rise, frozen⟩
  · intro short reached
    have shortIff : (s.sideShort .top c || s.sideShort .bottom c) = true ↔ short := State.sideShort_iff
    have reachedIff : (s.sideReaches .top (c.pointsOn .top) && s.sideReaches .bottom (c.pointsOn .bottom)) = true ↔ reached :=
      State.bothReach_iff
    refine ⟨fun h => if_pos (shortIff.2 h), fun h r => ?_, fun h r => ?_⟩
    · rw [State.unreachable, if_neg fun g => h (shortIff.1 g), if_neg fun g => r (reachedIff.1 g)]
    · rw [State.unreachable, if_neg fun g => h (shortIff.1 g), if_pos (reachedIff.2 r)]
  · refine ⟨_, State.testReach_fails waiting open_ fails, State.endWaiting_error there rfl, _, _,
      State.endWaiting_entry there, rfl, rfl, rfl, rfl, rfl, rfl, rfl, rfl, rfl, rfl, rfl⟩
end

section
/-! PROOFS. The choice among the assignments of a side: the first of least travel, in the lexicographic order of the
carriages' indices (R91). -/

set_option Elab.async false

namespace Sys2Proof.Machine

section
variable {s : State} {d : Side} {p : List Point} {a b : List Carriage} {h k : Choice}

/-- The assignments stand in the lexicographic order of their indices. -/
theorem injections_sorted {free : List Carriage} (sorted : free.Pairwise fun x y => driveNumber x < driveNumber y) :
    (injections p free).Pairwise fun a b => a.map driveNumber < b.map driveNumber := by
  induction p generalizing free with
  | nil => exact List.pairwise_singleton ..
  | cons q rest ih =>
    rw [injections, List.pairwise_flatMap]
    refine ⟨fun c _ => ?_, sorted.imp fun {x y} less a ha b hb => ?_⟩
    · rw [List.pairwise_map]
      refine (ih (sorted.filter _)).imp fun {a b} less => ?_
      rw [List.map_cons, List.map_cons]
      exact List.cons_lt_cons_iff.2 (.inr ⟨rfl, less⟩)
    · obtain ⟨r, -, rfl⟩ := List.mem_map.1 ha
      obtain ⟨r', -, rfl⟩ := List.mem_map.1 hb
      rw [List.map_cons, List.map_cons]
      exact List.cons_lt_cons_iff.2 (.inl less)

theorem State.inService_sorted : (s.inService d).Pairwise fun x y => driveNumber x < driveNumber y :=
  (carriagesOf_sorted d).filter _

/-- The choice at one place of a list of assignments is the winning one: better than what stands before, and no worse than
what follows. -/
def State.WinsAt (s : State) (d : Side) (p : List Point) (l : List (List Carriage)) (h : Choice) : Prop :=
  ∃ before a after, l = before ++ a :: after ∧ s.choiceOf d p a = some h ∧
    (∀ b ∈ before, ∀ k, s.choiceOf d p b = some k → h.cost < k.cost) ∧
    ∀ b ∈ after, ∀ k, s.choiceOf d p b = some k → h.cost ≤ k.cost

/-- The choice over the first assignments of a list. -/
def State.bestOf (s : State) (d : Side) (p : List Point) (l : List (List Carriage)) : Option Choice :=
  l.foldl (fun b a => betterOf b (s.choiceOf d p a)) none

theorem State.bestOf_snoc (l : List (List Carriage)) :
    s.bestOf d p (l ++ [a]) = betterOf (s.bestOf d p l) (s.choiceOf d p a) := by
  rw [State.bestOf, List.foldl_append]
  rfl

theorem betterOf_none {u v : Option Choice} : betterOf u v = none ↔ u = none ∧ v = none := by
  cases u with
  | none =>
    rw [betterOf]
    exact (and_iff_right rfl).symm
  | some x =>
    cases v with
    | none => exact ⟨nofun, fun h => nomatch h.1⟩
    | some y =>
      rw [betterOf]
      split <;> exact ⟨nofun, fun h => nomatch h.1⟩

theorem State.bestOf_none (l : List (List Carriage)) : s.bestOf d p l = none ↔ ∀ a ∈ l, s.choiceOf d p a = none := by
  induction l using List.reverseRecOn with
  | nil => exact ⟨fun _ => nofun, fun _ => rfl⟩
  | append_singleton l a ih =>
    rw [State.bestOf_snoc, betterOf_none, ih, List.forall_mem_append]
    exact and_congr_right fun _ => (List.forall_mem_singleton (p := fun b => s.choiceOf d p b = none)).symm

theorem State.bestOf_wins (l : List (List Carriage)) (best : s.bestOf d p l = some h) : s.WinsAt d p l h := by
  induction l using List.reverseRecOn generalizing h with
  | nil => cases best
  | append_singleton l a ih =>
    rw [State.bestOf_snoc] at best
    /- The last assignment, with no choice or a choice no better, leaves the winner of the first ones. -/
    have stays (first : s.bestOf d p l = some h) (noBetter : ∀ k, s.choiceOf d p a = some k → h.cost ≤ k.cost) :
        s.WinsAt d p (l ++ [a]) h := by
      obtain ⟨before, c, after, rfl, is, better, least⟩ := ih first
      refine ⟨before, c, after ++ [a], by rw [List.append_assoc]; rfl, is, better, fun b hb k hk => ?_⟩
      obtain hb | hb := List.mem_append.1 hb
      · exact least b hb k hk
      · obtain rfl := List.mem_singleton.1 hb
        exact noBetter k hk
    cases first : s.bestOf d p l with
    | none =>
      rw [first] at best
      refine ⟨l, a, [], rfl, best, fun b hb k hk => ?_, nofun⟩
      rw [(State.bestOf_none l).1 first b hb] at hk
      cases hk
    | some f =>
      rw [first] at best
      cases last : s.choiceOf d p a with
      | none =>
        rw [last] at best
        obtain rfl := Option.some.inj best
        exact stays first fun k hk => by rw [last] at hk; cases hk
      | some g =>
        rw [last, betterOf] at best
        split at best
        · next less =>
          obtain rfl := Option.some.inj best
          obtain ⟨before, c, after, rfl, is, better, least⟩ := ih first
          refine ⟨_, a, [], rfl, last, fun b hb k hk => ?_, nofun⟩
          obtain hb | hb := List.mem_append.1 hb
          · exact less.trans (better b hb k hk)
          · obtain rfl | hb := List.mem_cons.1 hb
            · obtain rfl := Option.some.inj (is.symm.trans hk)
              exact less
            · exact less.trans_le (least b hb k hk)
        · next noLess =>
          obtain rfl := Option.some.inj best
          refine stays first fun k hk => ?_
          obtain rfl := Option.some.inj (last.symm.trans hk)
          exact Nat.le_of_not_lt noLess

theorem State.choose_eq : s.choose d p = s.bestOf d p (injections p (s.inService d)) := rfl

/-- The winner is the least, and the first in the order of the indices among the least. -/
theorem State.choose_least (best : s.choose d p = some h) : ∃ a ∈ injections p (s.inService d), s.choiceOf d p a = some h ∧
    ∀ b ∈ injections p (s.inService d), ∀ k, s.choiceOf d p b = some k →
      h.cost < k.cost ∨ (h.cost = k.cost ∧ a.map driveNumber ≤ b.map driveNumber) := by
  have sorted := injections_sorted (p := p) (State.inService_sorted (s := s) (d := d))
  obtain ⟨before, a, after, all, is, better, least⟩ := State.bestOf_wins _ best
  rw [all] at sorted ⊢
  refine ⟨a, by simp, is, fun b hb k hk => ?_⟩
  obtain hb | hb := List.mem_append.1 hb
  · exact .inl (better b hb k hk)
  · obtain rfl | hb := List.mem_cons.1 hb
    · obtain rfl := Option.some.inj (is.symm.trans hk)
      exact .inr ⟨rfl, le_refl _⟩
    · have follows := List.rel_of_pairwise_cons (List.pairwise_append.1 sorted).2.1 hb
      exact (Nat.lt_or_eq_of_le (least b hb k hk)).imp_right fun same => ⟨same, le_of_lt follows⟩
end

/-! ## Walks outward (R90) -/

section
variable {s : State} {c x : Carriage} {l : YieldPlan} {cs : List Carriage} {m : Nat}

/-- What tells the walk below from the walk above: when a carriage has to yield, to which lane if it can, and how far the
lanes swept then reach. -/
structure Outward where
  overlap : Carriage → Nat → Prop
  laneAt : Carriage → Nat → Option Nat
  edge : Carriage × Nat → Nat
  reach : Nat → Nat → Nat
  le : Nat → Nat → Prop

/-- One level reached by the sweeps of some carriages with their lanes: an edge of one of them that none passes. -/
def Outward.Level (w : Outward) (P : Carriage × Nat → Prop) (m : Nat) : Prop :=
  (∃ q, P q ∧ w.edge q = m) ∧ ∀ q, P q → w.le m (w.edge q)

/-- The levels are those of a linear order, and the walk keeps to them. -/
structure Outward.Sound (w : Outward) : Prop where
  antisymm : ∀ m n, w.le m n → w.le n m → m = n
  reach : ∀ P m q, w.Level P m → w.Level (fun x => P x ∨ x = q) (w.reach m (w.edge q))

theorem Outward.Level.unique {w : Outward} (sound : w.Sound) {P : Carriage × Nat → Prop} {m n : Nat} (hm : w.Level P m)
    (hn : w.Level P n) : m = n := by
  obtain ⟨⟨q, pq, rfl⟩, leastM⟩ := hm
  obtain ⟨⟨r, pr, rfl⟩, leastN⟩ := hn
  exact sound.antisymm _ _ (leastM r pr) (leastN q pq)

theorem Outward.Level.congr {w : Outward} {P Q : Carriage × Nat → Prop} {m : Nat} (h : w.Level P m) (same : ∀ q, P q ↔ Q q) :
    w.Level Q m := by
  obtain ⟨⟨q, pq, at_⟩, least⟩ := h
  exact ⟨⟨q, (same q).1 pq, at_⟩, fun r hr => least r ((same r).2 hr)⟩

/-- A run of the packing outward, as R90 gives it. -/
inductive Walks (s : State) (w : Outward) : List Carriage → Nat → Option YieldPlan → Prop
  | nil (m : Nat) : Walks s w [] m (some [])
  | off (c : Carriage) (cs : List Carriage) (m : Nat) (r : Option YieldPlan) (state : (s.carr c).state = .off)
      (rest : Walks s w cs m r) : Walks s w (c :: cs) m r
  | stop (c : Carriage) (cs : List Carriage) (m : Nat) (state : (s.carr c).state ≠ .off)
      (free : ¬ ((s.carr c).state = .idle ∧ w.overlap c m)) : Walks s w (c :: cs) m (some [])
  | fails (c : Carriage) (cs : List Carriage) (m : Nat) (state : (s.carr c).state = .idle) (meets : w.overlap c m)
      (lane : w.laneAt c m = none) : Walks s w (c :: cs) m none
  | yields (c : Carriage) (cs : List Carriage) (m k : Nat) (r : Option YieldPlan) (state : (s.carr c).state = .idle)
      (meets : w.overlap c m) (lane : w.laneAt c m = some k) (rest : Walks s w cs (w.reach m (w.edge (c, k))) r) :
      Walks s w (c :: cs) m (r.map fun l => (c, k) :: l)

/-- The carriages of a walk that have yielded so far, beside those whose sweeps it began with. -/
def Passed (P : Carriage × Nat → Prop) (l : YieldPlan) (pre : List Carriage) (q : Carriage × Nat) : Prop :=
  P q ∨ (q ∈ l ∧ q.1 ∈ pre)

/-- Who yields, and where to: the idle carriages that meet the lanes swept so far, behind a run of carriages that are OFF or
yield themselves. -/
def YieldsWell (s : State) (w : Outward) (P : Carriage × Nat → Prop) (cs : List Carriage) (l : YieldPlan) : Prop :=
  ∀ pre c post, cs = pre ++ c :: post → ∀ m, w.Level (Passed P l pre) m →
    (c ∈ l.map (·.1) ↔ (s.carr c).state = .idle ∧ w.overlap c m ∧ ∀ x ∈ pre, (s.carr x).state = .off ∨ x ∈ l.map (·.1)) ∧
    ∀ k, (c, k) ∈ l → w.laneAt c m = some k

theorem passed_nil {P : Carriage × Nat → Prop} (q : Carriage × Nat) : Passed P l [] q ↔ P q :=
  or_iff_left fun h => nomatch h.2

/-- What a walk that ends well comes to. -/
theorem Walks.well {w : Outward} (sound : w.Sound) {r : Option YieldPlan} (walks : Walks s w cs m r) (some_ : r = some l)
    (nodup : cs.Nodup) {P : Carriage × Nat → Prop} (level : w.Level P m) :
    (l.map (·.1)).Nodup ∧ (∀ q ∈ l, q.1 ∈ cs) ∧ YieldsWell s w P cs l := by
  induction walks generalizing l P with
  | nil m =>
    cases some_
    exact ⟨.nil, nofun, fun pre c post h => absurd h (by simp)⟩
  | off c cs m r state rest ih =>
    obtain ⟨out, nodup⟩ := List.nodup_cons.1 nodup
    obtain ⟨unique, within, well⟩ := ih some_ nodup level
    have notIn : c ∉ l.map (·.1) := fun h => by
      obtain ⟨q, hq, rfl⟩ := List.mem_map.1 h
      exact out (within q hq)
    refine ⟨unique, fun q hq => List.mem_cons_of_mem _ (within q hq), fun pre x post split n reached => ?_⟩
    cases pre with
    | nil =>
      obtain ⟨rfl, -⟩ := List.cons.inj split
      refine ⟨⟨fun h => absurd h notIn, fun h => ?_⟩, fun k hk => absurd (List.mem_map_of_mem (f := (·.1)) hk) notIn⟩
      rw [state] at h
      cases h.1
    | cons y pre =>
      obtain ⟨rfl, tail⟩ := List.cons.inj split
      have same (q : Carriage × Nat) : Passed P l (c :: pre) q ↔ Passed P l pre q := by
        refine or_congr_right (and_congr_right fun hq => ?_)
        refine List.mem_cons.trans (or_iff_right fun e => notIn ?_)
        exact (show q.1 = c from e) ▸ List.mem_map_of_mem hq
      obtain ⟨iff_, lanes⟩ := well pre x post tail n (reached.congr same)
      refine ⟨iff_.trans ?_, lanes⟩
      rw [List.forall_mem_cons]
      simp only [state, true_or, true_and]
  | stop c cs m state free =>
    cases some_
    refine ⟨.nil, nofun, fun pre x post split n reached => ⟨⟨nofun, fun h => ?_⟩, nofun⟩⟩
    cases pre with
    | nil =>
      obtain ⟨rfl, -⟩ := List.cons.inj split
      have same := (reached.congr passed_nil).unique sound level
      subst same
      exact absurd ⟨h.1, h.2.1⟩ free
    | cons y pre =>
      obtain ⟨rfl, -⟩ := List.cons.inj split
      exact absurd ((h.2.2 c List.mem_cons_self).resolve_right nofun) state
  | fails c cs m state meets lane => cases some_
  | yields c cs m k r state meets lane rest ih =>
    obtain ⟨out, nodup⟩ := List.nodup_cons.1 nodup
    obtain ⟨t, rfl, rfl⟩ := Option.map_eq_some_iff.1 some_
    obtain ⟨unique, within, well⟩ := ih rfl nodup (sound.reach P m (c, k) level)
    have notIn : c ∉ t.map (·.1) := fun h => by
      obtain ⟨q, hq, rfl⟩ := List.mem_map.1 h
      exact out (within q hq)
    refine ⟨List.nodup_cons.2 ⟨notIn, unique⟩, ?_, fun pre x post split n reached => ?_⟩
    · intro q hq
      obtain rfl | hq := List.mem_cons.1 hq
      · exact List.mem_cons_self
      · exact List.mem_cons_of_mem _ (within q hq)
    cases pre with
    | nil =>
      obtain ⟨rfl, -⟩ := List.cons.inj split
      have same := (reached.congr passed_nil).unique sound level
      subst same
      refine ⟨⟨fun _ => ⟨state, meets, nofun⟩, fun _ => List.mem_cons_self⟩, fun j hj => ?_⟩
      obtain e | hj := List.mem_cons.1 hj
      · obtain ⟨-, rfl⟩ := Prod.mk.inj e
        exact lane
      · exact absurd (List.mem_map_of_mem (f := (·.1)) hj) notIn
    | cons y pre =>
      obtain ⟨rfl, tail⟩ := List.cons.inj split
      have follows : x ∈ cs := by rw [tail]; simp
      have ne : x ≠ c := fun e => out (e ▸ follows)
      have prior (z : Carriage) (hz : z ∈ pre) : z ≠ c := fun e => out (by rw [tail, ← e]; simp [hz])
      have same (q : Carriage × Nat) : Passed P ((c, k) :: t) (c :: pre) q ↔ Passed (fun x => P x ∨ x = (c, k)) t pre q := by
        unfold Passed
        constructor
        · rintro (h | ⟨hq, hp⟩)
          · exact .inl (.inl h)
          · obtain rfl | hq := List.mem_cons.1 hq
            · exact .inl (.inr rfl)
            · refine .inr ⟨hq, (List.mem_cons.1 hp).resolve_left fun e => notIn (e ▸ List.mem_map_of_mem hq)⟩
        · rintro ((h | rfl) | ⟨hq, hp⟩)
          · exact .inl h
          · exact .inr ⟨List.mem_cons_self, List.mem_cons_self⟩
          · exact .inr ⟨List.mem_cons_of_mem _ hq, List.mem_cons_of_mem _ hp⟩
      obtain ⟨iff_, lanes⟩ := well pre x post tail n (reached.congr same)
      have added (z : Carriage) (hz : z ≠ c) : z ∈ ((c, k) :: t).map (·.1) ↔ z ∈ t.map (·.1) := by
        rw [List.map_cons, List.mem_cons]
        exact or_iff_right hz
      refine ⟨(added x ne).trans (iff_.trans ?_), fun j hj => ?_⟩
      · rw [List.forall_mem_cons]
        refine and_congr_right fun _ => and_congr_right fun _ => ?_
        rw [and_iff_right (.inr List.mem_cons_self)]
        exact forall₂_congr fun z hz => or_congr_right (added z (prior z hz)).symm
      · refine lanes j ((List.mem_cons.1 hj).resolve_left fun e => ne (Prod.mk.inj e).1)

/-- A walk for which there is a plan that yields well does not fail. -/
theorem Walks.some_of_well {w : Outward} (sound : w.Sound) {r : Option YieldPlan} (walks : Walks s w cs m r)
    (nodup : cs.Nodup) (unique : (l.map (·.1)).Nodup) {P : Carriage × Nat → Prop} (level : w.Level P m)
    (well : YieldsWell s w P cs l) : r ≠ none := by
  induction walks generalizing P with
  | nil m => nofun
  | off c cs m r state rest ih =>
    obtain ⟨out, nodup⟩ := List.nodup_cons.1 nodup
    have notIn : c ∉ l.map (·.1) := fun h => by
      have idle := (((well [] c cs rfl m (level.congr fun q => (passed_nil q).symm)).1).1 h).1
      rw [state] at idle
      cases idle
    refine ih nodup level fun pre x post split n reached => ?_
    have same (q : Carriage × Nat) : Passed P l pre q ↔ Passed P l (c :: pre) q := by
      refine or_congr_right (and_congr_right fun hq => ?_)
      exact (List.mem_cons.trans (or_iff_right fun e : q.1 = c => notIn (e ▸ List.mem_map_of_mem hq))).symm
    obtain ⟨iff_, lanes⟩ := well (c :: pre) x post (by rw [split]; rfl) n (reached.congr same)
    refine ⟨iff_.trans ?_, lanes⟩
    rw [List.forall_mem_cons]
    simp only [state, true_or, true_and]
  | stop c cs m state free => nofun
  | fails c cs m state meets lane =>
    obtain ⟨iff_, lanes⟩ := well [] c cs rfl m (level.congr fun q => (passed_nil q).symm)
    obtain ⟨⟨_, k⟩, hq, rfl⟩ := List.mem_map.1 (iff_.2 ⟨state, meets, nofun⟩)
    have := lanes k hq
    rw [lane] at this
    cases this
  | yields c cs m k r state meets lane rest ih =>
    obtain ⟨iff_, lanes⟩ := well [] c cs rfl m (level.congr fun q => (passed_nil q).symm)
    obtain ⟨⟨x, j⟩, hq, same⟩ := List.mem_map.1 (iff_.2 ⟨state, meets, nofun⟩)
    obtain rfl : x = c := same
    obtain rfl := Option.some.inj (lane.symm.trans (lanes j hq))
    have goes : r ≠ none := by
      refine ih (List.nodup_cons.1 nodup).2 (sound.reach P m _ level) fun pre y post split n reached => ?_
      have same (q : Carriage × Nat) : Passed (fun y => P y ∨ y = (x, k)) l pre q ↔ Passed P l (x :: pre) q := by
        unfold Passed
        constructor
        · rintro ((h | rfl) | ⟨hl, hp⟩)
          · exact .inl h
          · exact .inr ⟨hq, List.mem_cons_self⟩
          · exact .inr ⟨hl, List.mem_cons_of_mem _ hp⟩
        · rintro (h | ⟨hl, hp⟩)
          · exact .inl (.inl h)
          · obtain e | hp := List.mem_cons.1 hp
            · exact .inl (.inr (List.inj_on_of_nodup_map unique hl hq e))
            · exact .inr ⟨hl, hp⟩
      obtain ⟨iff', lanes'⟩ := well (x :: pre) y post (by rw [split]; rfl) n (reached.congr same)
      refine ⟨iff'.trans ?_, lanes'⟩
      rw [List.forall_mem_cons]
      exact and_congr_right fun _ => and_congr_right fun _ => and_iff_right (.inr (List.mem_map_of_mem (f := (·.1)) hq))
    intro h
    exact goes (Option.map_eq_none_iff.1 h)
end
end Sys2Proof.Machine
end

section
/-! PROOFS. The conditions of a feasible assignment: corridors, rising spans, and the carriages between (R89). -/

set_option Elab.async false

namespace Sys2Proof.Machine

section
variable {s : State} {d : Side} {c x : Carriage} {i : Interval} {a : List Carriage} {lane : Carriage → Nat}

/-! ## Corridors -/

/-- A busy carriage. -/
def State.Busy (s : State) (c : Carriage) : Prop := (s.carr c).state ≠ .off ∧ (s.carr c).state ≠ .idle

/-- The committed interval of a carriage. -/
def State.Holds (s : State) (c : Carriage) (i : Interval) : Prop :=
  (∃ e, s.pendingOf c = some e ∧ i = e.span) ∨ (s.pendingOf c = none ∧ s.claimOf c = some i)

/-- An interval clear of the committed intervals of the nearest busy carriages. -/
def State.Corridor (s : State) (d : Side) (c : Carriage) (i : Interval) : Prop :=
  ∀ b k, sideOf b = d → s.Busy b → s.Holds b k →
    (driveNumber b < driveNumber c →
      (∀ x, sideOf x = d → driveNumber b < driveNumber x → driveNumber x < driveNumber c → ¬ s.Busy x) → k.hi < i.lo) ∧
    (driveNumber c < driveNumber b →
      (∀ x, sideOf x = d → driveNumber c < driveNumber x → driveNumber x < driveNumber b → ¬ s.Busy x) → i.hi < k.lo)

theorem State.busy_iff : (s.carr c).busy = true ↔ s.Busy c := by
  rw [CarriageRec.busy, Bool.and_eq_true, bne_iff_ne, bne_iff_ne]
  rfl

theorem State.committed_iff {k : Interval} : s.committed c = some k ↔ s.Holds c k := by
  rw [State.committed, State.Holds]
  cases s.pendingOf c with
  | none =>
    dsimp only
    constructor
    · exact fun h => .inr ⟨rfl, h⟩
    · rintro (⟨e, h, -⟩ | ⟨-, h⟩)
      · cases h
      · exact h
  | some e =>
    dsimp only
    constructor
    · exact fun h => .inl ⟨e, rfl, (Option.some.inj h).symm⟩
    · rintro (⟨e', h, rfl⟩ | ⟨h, -⟩)
      · rw [Option.some.inj h]
      · cases h

/-- The first committed interval of a list is that of its nearest busy carriage. -/
theorem State.firstCommitted_iff {R : Carriage → Carriage → Prop} {l : List Carriage} (sorted : l.Pairwise R)
    (asymm : ∀ x y, R x y → ¬ R y x) {k : Interval} : s.firstCommitted l = some k ↔
      ∃ b ∈ l, s.Busy b ∧ (∀ x ∈ l, R x b → ¬ s.Busy x) ∧ s.Holds b k := by
  rw [State.firstCommitted, Option.bind_eq_some_iff]
  constructor
  · rintro ⟨b, found, holds⟩
    obtain ⟨busy, before, after, rfl, none_⟩ := List.find?_eq_some_iff_append.1 found
    refine ⟨b, by simp, State.busy_iff.1 busy, fun x hx prior => ?_, State.committed_iff.1 holds⟩
    have free (hx : x ∈ before) : ¬ s.Busy x := fun h => by
      have := none_ x hx
      rw [State.busy_iff.2 h] at this
      cases this
    obtain hx | hx := List.mem_append.1 hx
    · exact free hx
    · obtain rfl | hx := List.mem_cons.1 hx
      · exact absurd prior (asymm x x prior)
      · exact absurd prior (asymm b x (List.rel_of_pairwise_cons (List.pairwise_append.1 sorted).2.1 hx))
  · rintro ⟨b, hb, busy, nearest, holds⟩
    obtain ⟨before, after, rfl⟩ := List.append_of_mem hb
    refine ⟨b, List.find?_eq_some_iff_append.2 ⟨State.busy_iff.2 busy, before, after, rfl, fun x hx => ?_⟩,
      State.committed_iff.2 holds⟩
    have free := nearest x (List.mem_append_left _ hx) ((List.pairwise_append.1 sorted).2.2 x hx b List.mem_cons_self)
    rw [← State.busy_iff] at free
    simpa using free

theorem State.inCorridor_iff (side : sideOf c = d) (last : i.hi ≤ 127) : s.inCorridor c i = true ↔ s.Corridor d c i := by
  have lower (k : Interval) := s.firstCommitted_iff (lowerThan_sorted c) (fun x y h => h.not_gt) (k := k)
  have upper (k : Interval) := s.firstCommitted_iff (higherThan_sorted c) (fun x y h => h.not_gt) (k := k)
  have below : (match s.firstCommitted (lowerThan c) with
      | some k => decide (k.hi < i.lo)
      | none => true) = true ↔ ∀ k, s.firstCommitted (lowerThan c) = some k → k.hi < i.lo := by
    cases s.firstCommitted (lowerThan c) <;> simp
  have above : (match s.firstCommitted (higherThan c) with
      | some k => decide (i.hi < k.lo)
      | none => decide (i.hi ≤ lastLane)) = true ↔ ∀ k, s.firstCommitted (higherThan c) = some k → i.hi < k.lo := by
    cases s.firstCommitted (higherThan c) with
    | none => simpa using (show i.hi ≤ lastLane from last)
    | some k => simp
  rw [State.inCorridor, Bool.and_eq_true]
  refine (and_congr below above).trans ⟨fun ⟨low, high⟩ b k on busy holds => ⟨fun less nearest => ?_, fun less nearest => ?_⟩,
    fun h => ⟨fun k hk => ?_, fun k hk => ?_⟩⟩
  · refine low k ((lower k).2 ⟨b, (mem_lowerThan c b).2 ⟨on.trans side.symm, less⟩, busy, fun x hx prior => ?_, holds⟩)
    obtain ⟨onX, lessX⟩ := (mem_lowerThan c x).1 hx
    exact nearest x (onX.trans side) prior lessX
  · refine high k ((upper k).2 ⟨b, (mem_higherThan c b).2 ⟨on.trans side.symm, less⟩, busy, fun x hx prior => ?_, holds⟩)
    obtain ⟨onX, lessX⟩ := (mem_higherThan c x).1 hx
    exact nearest x (onX.trans side) lessX prior
  · obtain ⟨b, hb, busy, nearest, holds⟩ := (lower k).1 hk
    obtain ⟨on, less⟩ := (mem_lowerThan c b).1 hb
    exact (h b k (on.trans side) busy holds).1 less fun x onX prior lessX =>
      nearest x ((mem_lowerThan c x).2 ⟨onX.trans side.symm, lessX⟩) prior
  · obtain ⟨b, hb, busy, nearest, holds⟩ := (upper k).1 hk
    obtain ⟨on, less⟩ := (mem_higherThan c b).1 hb
    exact (h b k (on.trans side) busy holds).2 less fun x onX lessX prior =>
      nearest x ((mem_higherThan c x).2 ⟨onX.trans side.symm, lessX⟩) prior

/-! ## The assigned carriages in index order -/

/-- The assigned carriages of a side in index order. -/
def inOrder (d : Side) (a : List Carriage) : List Carriage := (carriagesOf d).filter fun c => decide (c ∈ a)

theorem inOrder_sorted : (inOrder d a).Pairwise fun x y => driveNumber x < driveNumber y := (carriagesOf_sorted d).filter _

theorem mem_inOrder (side : ∀ c ∈ a, sideOf c = d) : c ∈ inOrder d a ↔ c ∈ a := by
  rw [inOrder, List.mem_filter, mem_carriagesOf, decide_eq_true_eq]
  exact ⟨fun h => h.2, fun h => ⟨side c h, h⟩⟩

theorem inOrder_perm (side : ∀ c ∈ a, sideOf c = d) (nodup : a.Nodup) : (inOrder d a).Perm a :=
  (List.perm_ext_iff_of_nodup (inOrder_sorted.imp fun less e => less.ne (congrArg driveNumber e)) nodup).2 fun _ =>
    mem_inOrder side

theorem inOrder_targets : ((carriagesOf d).filterMap fun c => (laneIn (a.map fun c => (c, lane c)) c).map fun k => (c, k)) =
    (inOrder d a).map fun c => (c, lane c) := by
  conv_rhs => rw [inOrder, ← List.filterMap_eq_map, List.filterMap_filter]
  refine List.filterMap_congr fun c _ => ?_
  rw [laneIn_map]
  by_cases here : c ∈ a <;> simp [here]

/-- The last of a sorted list follows all others. -/
theorem getLast?_sorted {α : Type} {R : α → α → Prop} {l : List α} {q : α} (sorted : l.Pairwise R) (last : l.getLast? = some q) :
    q ∈ l ∧ ∀ x ∈ l, x = q ∨ R x q := by
  obtain ⟨l, rfl⟩ := List.getLast?_eq_some_iff.1 last
  refine ⟨by simp, fun x hx => ?_⟩
  obtain hx | hx := List.mem_append.1 hx
  · exact .inr ((List.pairwise_append.1 sorted).2.2 x hx q List.mem_cons_self)
  · exact .inl (List.mem_singleton.1 hx)

/-- The first of a sorted list precedes all others. -/
theorem head?_sorted {α : Type} {R : α → α → Prop} {l : List α} {q : α} (sorted : l.Pairwise R) (first : l.head? = some q) :
    q ∈ l ∧ ∀ x ∈ l, x = q ∨ R q x := by
  obtain ⟨l, rfl⟩ := List.head?_eq_some_iff.1 first
  exact ⟨List.mem_cons_self, fun x hx => (List.mem_cons.1 hx).imp_right fun hx => List.rel_of_pairwise_cons sorted hx⟩

/-! ## Spans and sweeps -/

/-- The sweep of a carriage to a lane. -/
def State.sweepTo (s : State) (q : Carriage × Nat) : Interval := s.setup.sweep q.1 (s.laneNow q.1) q.2

theorem Setup.span_hi_le {t : Setup} {k : Nat} : (t.span c k).hi ≤ 127 := min_le_left ..

theorem State.sweepTo_hi_le {q : Carriage × Nat} : (s.sweepTo q).hi ≤ 127 := min_le_left ..

/-- The conditions on the assigned carriages, and on those between them, of R89. -/
structure State.Fits (s : State) (d : Side) (a : List Carriage) (lane : Carriage → Nat) : Prop where
  assigned : ∀ c ∈ a, (s.carr c).state = .idle ∧ s.Corridor d c (s.setup.span c (lane c)) ∧ s.Corridor d c (s.sweepTo (c, lane c))
  rise : ∀ x ∈ a, ∀ y ∈ a, driveNumber x < driveNumber y → (s.setup.span x (lane x)).hi < (s.setup.span y (lane y)).lo
  between : ∀ c, sideOf c = d → (s.carr c).state = .idle → c ∉ a → (∃ x ∈ a, driveNumber x < driveNumber c) →
    (∃ y ∈ a, driveNumber c < driveNumber y) → ∀ x ∈ a,
      ((s.sweepTo (x, lane x)).hi < (s.spanNow c).lo ∨ (s.spanNow c).hi < (s.sweepTo (x, lane x)).lo) ∧
      (driveNumber x < driveNumber c → (s.setup.span x (lane x)).hi < (s.spanNow c).lo) ∧
      (driveNumber c < driveNumber x → (s.spanNow c).hi < (s.setup.span x (lane x)).lo)

section
variable (side : ∀ c ∈ a, sideOf c = d)
include side

theorem State.assigned_iff : (((inOrder d a).map fun c => (c, lane c)).all fun q => (s.carr q.1).state == .idle &&
      s.inCorridor q.1 (s.setup.span q.1 q.2) && s.inCorridor q.1 (s.setup.sweep q.1 (s.laneNow q.1) q.2)) = true ↔
    ∀ c ∈ a, (s.carr c).state = .idle ∧ s.Corridor d c (s.setup.span c (lane c)) ∧ s.Corridor d c (s.sweepTo (c, lane c)) := by
  rw [List.all_map, List.all_eq_true]
  refine forall_congr' fun c => ?_
  rw [mem_inOrder side]
  refine forall_congr' fun hc => ?_
  rw [Function.comp_apply, Bool.and_eq_true, Bool.and_eq_true, beq_iff_eq, State.inCorridor_iff (side c hc) Setup.span_hi_le,
    ← State.sweepTo, State.inCorridor_iff (side c hc) State.sweepTo_hi_le, and_assoc]

theorem State.targetsRise_iff (lanes : ∀ c ∈ a, lane c ≤ 127) :
    spansRise (((inOrder d a).map fun c => (c, lane c)).map fun q => s.setup.span q.1 q.2) = true ↔
      ∀ x ∈ a, ∀ y ∈ a, driveNumber x < driveNumber y → (s.setup.span x (lane x)).hi < (s.setup.span y (lane y)).lo := by
  rw [List.map_map, spansRise_iff_pairwise, List.pairwise_map, pairwise_iff_of_sorted inOrder_sorted]
  · simp only [mem_inOrder side]
    rfl
  · intro i hi
    obtain ⟨c, hc, rfl⟩ := List.mem_map.1 hi
    exact spanAt_nonempty (lanes c ((mem_inOrder side).1 hc))

/-- A carriage between: with rising target spans its nearest neighbours stand for all. -/
theorem State.betweenFits_iff (lanes : ∀ c ∈ a, lane c ≤ 127)
    (rise : ∀ x ∈ a, ∀ y ∈ a, driveNumber x < driveNumber y → (s.setup.span x (lane x)).hi < (s.setup.span y (lane y)).lo) :
    s.betweenFits ((inOrder d a).map fun c => (c, lane c)) c = true ↔ ∀ x ∈ a,
      ((s.sweepTo (x, lane x)).hi < (s.spanNow c).lo ∨ (s.spanNow c).hi < (s.sweepTo (x, lane x)).lo) ∧
      (driveNumber x < driveNumber c → (s.setup.span x (lane x)).hi < (s.spanNow c).lo) ∧
      (driveNumber c < driveNumber x → (s.spanNow c).hi < (s.setup.span x (lane x)).lo) := by
  have nonempty (x : Carriage) (hx : x ∈ a) : (s.setup.span x (lane x)).lo ≤ (s.setup.span x (lane x)).hi :=
    spanAt_nonempty (lanes x hx)
  have sorted : ((inOrder d a).map fun c => (c, lane c)).Pairwise fun q r => driveNumber q.1 < driveNumber r.1 :=
    List.pairwise_map.2 inOrder_sorted
  have mem (q : Carriage × Nat) : q ∈ ((inOrder d a).map fun c => (c, lane c)) ↔ q.1 ∈ a ∧ q.2 = lane q.1 := by
    rw [List.mem_map]
    constructor
    · rintro ⟨c, hc, rfl⟩
      exact ⟨(mem_inOrder side).1 hc, rfl⟩
    · rintro ⟨hq, same⟩
      exact ⟨q.1, (mem_inOrder side).2 hq, Prod.ext rfl same.symm⟩
  have sweeps : ((((inOrder d a).map fun c => (c, lane c)).all fun q =>
      !(s.setup.sweep q.1 (s.laneNow q.1) q.2).meets (s.spanNow c)) = true) ↔ ∀ x ∈ a,
        (s.sweepTo (x, lane x)).hi < (s.spanNow c).lo ∨ (s.spanNow c).hi < (s.sweepTo (x, lane x)).lo := by
    rw [List.all_map, List.all_eq_true]
    refine forall_congr' fun x => ?_
    rw [mem_inOrder side, Function.comp_apply, Bool.not_eq_true', ← Bool.not_eq_true, Interval.meets, Bool.and_eq_true,
      decide_eq_true_eq, decide_eq_true_eq, State.sweepTo]
    refine forall_congr' fun _ => ?_
    omega
  have lower : (match (((inOrder d a).map fun c => (c, lane c)).filter fun q => decide (driveNumber q.1 < driveNumber c)).getLast? with
      | some q => (s.setup.span q.1 q.2).below (s.spanNow c)
      | none => true) = true ↔ ∀ x ∈ a, driveNumber x < driveNumber c → (s.setup.span x (lane x)).hi < (s.spanNow c).lo := by
    cases last : (((inOrder d a).map fun c => (c, lane c)).filter fun q => decide (driveNumber q.1 < driveNumber c)).getLast? with
    | none =>
      refine iff_of_true rfl fun x hx less => ?_
      have empty := List.getLast?_eq_none_iff.1 last
      have : (x, lane x) ∈ [] := empty ▸ List.mem_filter.2 ⟨(mem _).2 ⟨hx, rfl⟩, decide_eq_true less⟩
      cases this
    | some q =>
      obtain ⟨hq, greatest⟩ := getLast?_sorted (sorted.filter _) last
      obtain ⟨hq, less⟩ := List.mem_filter.1 hq
      obtain ⟨assigned, at_⟩ := (mem q).1 hq
      dsimp only
      rw [Interval.below, decide_eq_true_eq, at_]
      refine ⟨fun h x hx lessX => ?_, fun h => h q.1 assigned (of_decide_eq_true less)⟩
      obtain e | before := greatest (x, lane x) (List.mem_filter.2 ⟨(mem _).2 ⟨hx, rfl⟩, decide_eq_true lessX⟩)
      · rw [← e] at h
        exact h
      · have := rise x hx q.1 assigned before
        have := nonempty q.1 assigned
        omega
  have upper : (match (((inOrder d a).map fun c => (c, lane c)).filter fun q => decide (driveNumber c < driveNumber q.1)).head? with
      | some q => (s.spanNow c).below (s.setup.span q.1 q.2)
      | none => true) = true ↔ ∀ x ∈ a, driveNumber c < driveNumber x → (s.spanNow c).hi < (s.setup.span x (lane x)).lo := by
    cases first : (((inOrder d a).map fun c => (c, lane c)).filter fun q => decide (driveNumber c < driveNumber q.1)).head? with
    | none =>
      refine iff_of_true rfl fun x hx less => ?_
      have empty := List.head?_eq_none_iff.1 first
      have : (x, lane x) ∈ [] := empty ▸ List.mem_filter.2 ⟨(mem _).2 ⟨hx, rfl⟩, decide_eq_true less⟩
      cases this
    | some q =>
      obtain ⟨hq, least⟩ := head?_sorted (sorted.filter _) first
      obtain ⟨hq, less⟩ := List.mem_filter.1 hq
      obtain ⟨assigned, at_⟩ := (mem q).1 hq
      dsimp only
      rw [Interval.below, decide_eq_true_eq, at_]
      refine ⟨fun h x hx lessX => ?_, fun h => h q.1 assigned (of_decide_eq_true less)⟩
      obtain e | after := least (x, lane x) (List.mem_filter.2 ⟨(mem _).2 ⟨hx, rfl⟩, decide_eq_true lessX⟩)
      · rw [← e] at h
        exact h
      · have := rise q.1 assigned x hx after
        have := nonempty q.1 assigned
        omega
  rw [State.betweenFits]
  rw [Bool.and_eq_true, Bool.and_eq_true]
  refine (and_congr (and_congr sweeps lower) upper).trans ?_
  exact ⟨fun ⟨⟨meets, low⟩, high⟩ x hx => ⟨meets x hx, low x hx, high x hx⟩,
    fun h => ⟨⟨fun x hx => (h x hx).1, fun x hx => (h x hx).2.1⟩, fun x hx => (h x hx).2.2⟩⟩
end
end
end Sys2Proof.Machine
end

section
/-! PROOFS. The packing of the idle carriages outward, what an assignment comes to, and the obligation that this settles. -/

set_option Elab.async false

namespace Sys2Proof.Machine

section
variable {s : State} {d : Side} {c x : Carriage} {a cs : List Carriage} {lane : Carriage → Nat} {l l' : YieldPlan} {m k : Nat}

/-! ## The two walks -/

/-- The walk down: an idle carriage that reaches up to the lowest lane swept yields to the lane just below it. -/
def State.downward (s : State) : Outward where
  overlap c b := b ≤ (s.spanNow c).hi
  laneAt c b :=
    if b < (s.cset c).guard + 1 then none
    else if s.inCorridor c (s.setup.span c (b - 1 - (s.cset c).guard)) then some (b - 1 - (s.cset c).guard) else none
  edge q := (s.sweepTo q).lo
  reach := min
  le m n := m ≤ n

/-- The walk up: an idle carriage that reaches down to the highest lane swept yields to the lane just above it. -/
def State.upward (s : State) (d : Side) : Outward where
  overlap c t := (s.spanNow c).lo ≤ t
  laneAt c t :=
    if s.setup.fieldLanes d ≤ t + 1 + (s.cset c).guard then none
    else if s.inCorridor c (s.setup.span c (t + 1 + (s.cset c).guard)) then some (t + 1 + (s.cset c).guard) else none
  edge q := (s.sweepTo q).hi
  reach := max
  le m n := n ≤ m

theorem State.downward_sound : s.downward.Sound where
  antisymm _ _ := le_antisymm
  reach P m q := by
    rintro ⟨⟨r, pr, at_⟩, least⟩
    refine ⟨?_, fun x hx => ?_⟩
    · obtain le | le := le_total m (s.downward.edge q)
      · exact ⟨r, .inl pr, at_.trans (min_eq_left le).symm⟩
      · exact ⟨q, .inr rfl, (min_eq_right le).symm⟩
    · obtain px | rfl := hx
      · exact (min_le_left ..).trans (least x px)
      · exact min_le_right ..

theorem State.upward_sound : (s.upward d).Sound where
  antisymm _ _ h h' := le_antisymm h' h
  reach P m q := by
    rintro ⟨⟨r, pr, at_⟩, greatest⟩
    refine ⟨?_, fun x hx => ?_⟩
    · obtain le | le := le_total m ((s.upward d).edge q)
      · exact ⟨q, .inr rfl, (max_eq_right le).symm⟩
      · exact ⟨r, .inl pr, at_.trans (max_eq_left le).symm⟩
    · obtain px | rfl := hx
      · exact (greatest x px).trans (le_max_left ..)
      · exact le_max_right ..

theorem State.downward_laneAt (side : sideOf c = d) : s.downward.laneAt c m = some k ↔
    k + 1 + (s.cset c).guard = m ∧ s.Corridor d c (s.setup.span c k) := by
  rw [← State.inCorridor_iff side Setup.span_hi_le]
  change (if m < (s.cset c).guard + 1 then none
    else if s.inCorridor c (s.setup.span c (m - 1 - (s.cset c).guard)) then some (m - 1 - (s.cset c).guard) else none) =
      some k ↔ _
  by_cases low : m < (s.cset c).guard + 1
  · rw [if_pos low]
    exact ⟨nofun, fun h => by omega⟩
  · rw [if_neg low, Option.ite_none_right_eq_some, Option.some.injEq]
    constructor
    · rintro ⟨corridor, rfl⟩
      exact ⟨by omega, corridor⟩
    · rintro ⟨rfl, corridor⟩
      have same : k + 1 + (s.cset c).guard - 1 - (s.cset c).guard = k := by omega
      rw [same]
      exact ⟨corridor, rfl⟩

theorem State.upward_laneAt (side : sideOf c = d) : (s.upward d).laneAt c m = some k ↔
    k = m + 1 + (s.cset c).guard ∧ k < s.setup.fieldLanes d ∧ s.Corridor d c (s.setup.span c k) := by
  rw [← State.inCorridor_iff side Setup.span_hi_le]
  change (if s.setup.fieldLanes d ≤ m + 1 + (s.cset c).guard then none
    else if s.inCorridor c (s.setup.span c (m + 1 + (s.cset c).guard)) then some (m + 1 + (s.cset c).guard) else none) =
      some k ↔ _
  by_cases high : s.setup.fieldLanes d ≤ m + 1 + (s.cset c).guard
  · rw [if_pos high]
    exact ⟨nofun, fun h => by omega⟩
  · rw [if_neg high, Option.ite_none_right_eq_some, Option.some.injEq]
    constructor
    · rintro ⟨corridor, rfl⟩
      exact ⟨rfl, by omega, corridor⟩
    · rintro ⟨rfl, -, corridor⟩
      exact ⟨corridor, rfl⟩

theorem State.packLower_walks (cs : List Carriage) (m : Nat) : Walks s s.downward cs m (s.packLower cs m) := by
  induction cs generalizing m with
  | nil => exact .nil m
  | cons c rest ih =>
    rw [State.packLower.eq_def]
    dsimp only
    cases state : (s.carr c).state with
    | off => exact .off c rest m _ state (ih m)
    | idle =>
      dsimp only
      by_cases free : (s.spanNow c).hi < m
      · rw [if_pos free]
        exact .stop c rest m (by rw [state]; decide) fun h => absurd h.2 free.not_ge
      · have meets : s.downward.overlap c m := Nat.le_of_not_lt free
        rw [if_neg free]
        by_cases low : m < (s.cset c).guard + 1
        · rw [if_pos low]
          exact .fails c rest m state meets (if_pos low)
        · rw [if_neg low]
          by_cases corridor : s.inCorridor c (s.setup.span c (m - 1 - (s.cset c).guard)) = true
          · rw [if_pos corridor]
            exact .yields c rest m _ _ state meets ((if_neg low).trans (if_pos corridor)) (ih _)
          · rw [if_neg corridor]
            exact .fails c rest m state meets ((if_neg low).trans (if_neg corridor))
    | _ => exact .stop c rest m (by rw [state]; decide) fun h => by rw [state] at h; cases h.1

theorem State.packUpper_walks (cs : List Carriage) (m : Nat) : Walks s (s.upward d) cs m (s.packUpper d cs m) := by
  induction cs generalizing m with
  | nil => exact .nil m
  | cons c rest ih =>
    rw [State.packUpper.eq_def]
    dsimp only
    cases state : (s.carr c).state with
    | off => exact .off c rest m _ state (ih m)
    | idle =>
      dsimp only
      by_cases free : m < (s.spanNow c).lo
      · rw [if_pos free]
        exact .stop c rest m (by rw [state]; decide) fun h => absurd h.2 free.not_ge
      · have meets : (s.upward d).overlap c m := Nat.le_of_not_lt free
        rw [if_neg free]
        by_cases high : s.setup.fieldLanes d ≤ m + 1 + (s.cset c).guard
        · rw [if_pos high]
          exact .fails c rest m state meets (if_pos high)
        · rw [if_neg high]
          by_cases corridor : s.inCorridor c (s.setup.span c (m + 1 + (s.cset c).guard)) = true
          · rw [if_pos corridor]
            exact .yields c rest m _ _ state meets ((if_neg high).trans (if_pos corridor)) (ih _)
          · rw [if_neg corridor]
            exact .fails c rest m state meets ((if_neg high).trans (if_neg corridor))
    | _ => exact .stop c rest m (by rw [state]; decide) fun h => by rw [state] at h; cases h.1

/-- The lowest lane of some sweeps is that of one of them. -/
theorem lowest_level {l : List Interval} (some_ : l ≠ []) (last : ∀ i ∈ l, i.lo ≤ 127) :
    (∃ i ∈ l, i.lo = lowest l) ∧ ∀ i ∈ l, lowest l ≤ i.lo := by
  have fold (l : List Interval) (m : Nat) : (l.foldl (fun m i => min m i.lo) m = m ∨ ∃ i ∈ l, i.lo = l.foldl (fun m i => min m i.lo) m) ∧
      l.foldl (fun m i => min m i.lo) m ≤ m ∧ ∀ i ∈ l, l.foldl (fun m i => min m i.lo) m ≤ i.lo := by
    induction l generalizing m with
    | nil => exact ⟨.inl rfl, le_refl _, nofun⟩
    | cons i rest ih =>
      rw [List.foldl_cons]
      obtain ⟨is, le, least⟩ := ih (min m i.lo)
      refine ⟨?_, le.trans (min_le_left ..), List.forall_mem_cons.2 ⟨le.trans (min_le_right ..), least⟩⟩
      obtain is | ⟨j, hj, is⟩ := is
      · rw [is]
        obtain le | le := le_total m i.lo
        · exact .inl (min_eq_left le)
        · exact .inr ⟨i, List.mem_cons_self, (min_eq_right le).symm⟩
      · exact .inr ⟨j, List.mem_cons_of_mem _ hj, is⟩
  obtain ⟨is, -, least⟩ := fold l lastLane
  refine ⟨is.elim (fun h => ?_) id, least⟩
  obtain ⟨i, hi⟩ := List.exists_mem_of_ne_nil l some_
  exact ⟨i, hi, le_antisymm ((last i hi).trans (Nat.le_of_eq h.symm)) (least i hi)⟩

/-- The highest lane of some sweeps is that of one of them. -/
theorem highest_level {l : List Interval} (some_ : l ≠ []) : (∃ i ∈ l, i.hi = highest l) ∧ ∀ i ∈ l, i.hi ≤ highest l := by
  have fold (l : List Interval) (m : Nat) : (l.foldl (fun m i => max m i.hi) m = m ∨ ∃ i ∈ l, i.hi = l.foldl (fun m i => max m i.hi) m) ∧
      m ≤ l.foldl (fun m i => max m i.hi) m ∧ ∀ i ∈ l, i.hi ≤ l.foldl (fun m i => max m i.hi) m := by
    induction l generalizing m with
    | nil => exact ⟨.inl rfl, le_refl _, nofun⟩
    | cons i rest ih =>
      rw [List.foldl_cons]
      obtain ⟨is, le, greatest⟩ := ih (max m i.hi)
      refine ⟨?_, (le_max_left ..).trans le, List.forall_mem_cons.2 ⟨(le_max_right ..).trans le, greatest⟩⟩
      obtain is | ⟨j, hj, is⟩ := is
      · rw [is]
        obtain le | le := le_total m i.hi
        · exact .inr ⟨i, List.mem_cons_self, (max_eq_right le).symm⟩
        · exact .inl (max_eq_left le)
      · exact .inr ⟨j, List.mem_cons_of_mem _ hj, is⟩
  obtain ⟨is, -, greatest⟩ := fold l 0
  refine ⟨is.elim (fun h => ?_) id, greatest⟩
  obtain ⟨i, hi⟩ := List.exists_mem_of_ne_nil l some_
  exact ⟨i, hi, le_antisymm (greatest i hi) ((Nat.le_of_eq h).trans (Nat.zero_le _))⟩

/-! ## Plans -/

/-- A walk's conditions told by the order of the carriages, for the members of a list. -/
def PlanFits (s : State) (w : Outward) (P : Carriage × Nat → Prop) (M : Carriage → Prop) (R : Carriage → Carriage → Prop)
    (l : YieldPlan) : Prop :=
  ∀ c m, M c → w.Level (fun q => P q ∨ (q ∈ l ∧ M q.1 ∧ R q.1 c)) m →
    (c ∈ l.map (·.1) ↔ (s.carr c).state = .idle ∧ w.overlap c m ∧
      ∀ x, M x → R x c → (s.carr x).state = .off ∨ x ∈ l.map (·.1)) ∧
    ∀ k, (c, k) ∈ l → w.laneAt c m = some k

theorem planFits_iff {w : Outward} {P : Carriage × Nat → Prop} {M : Carriage → Prop} {R : Carriage → Carriage → Prop}
    (sorted : cs.Pairwise R) (asymm : ∀ x y, R x y → ¬ R y x) (mem : ∀ c, c ∈ cs ↔ M c) :
    PlanFits s w P M R l ↔ YieldsWell s w P cs l := by
  /- What stands before a place of the list is what precedes it in the order. -/
  have prior (pre : List Carriage) (c : Carriage) (post : List Carriage) (split : cs = pre ++ c :: post) (x : Carriage) :
      x ∈ pre ↔ M x ∧ R x c := by
    rw [← mem]
    rw [split] at sorted ⊢
    obtain ⟨-, tail, across⟩ := List.pairwise_append.1 sorted
    refine ⟨fun h => ⟨List.mem_append_left _ h, across x h c List.mem_cons_self⟩, fun ⟨hx, before⟩ => ?_⟩
    refine (List.mem_append.1 hx).resolve_right fun h => ?_
    obtain rfl | h := List.mem_cons.1 h
    · exact asymm x x before before
    · exact asymm c x (List.rel_of_pairwise_cons tail h) before
  have step (pre : List Carriage) (c : Carriage) (post : List Carriage) (split : cs = pre ++ c :: post) :
      (∀ q, Passed P l pre q ↔ P q ∨ (q ∈ l ∧ M q.1 ∧ R q.1 c)) ∧
      ((∀ x ∈ pre, (s.carr x).state = .off ∨ x ∈ l.map (·.1)) ↔
        ∀ x, M x → R x c → (s.carr x).state = .off ∨ x ∈ l.map (·.1)) :=
    ⟨fun q => or_congr_right (and_congr_right fun _ => prior pre c post split q.1),
      ⟨fun h x hx before => h x ((prior pre c post split x).2 ⟨hx, before⟩),
        fun h x hx => h x ((prior pre c post split x).1 hx).1 ((prior pre c post split x).1 hx).2⟩⟩
  constructor
  · intro plan pre c post split m level
    obtain ⟨passed, before⟩ := step pre c post split
    rw [before]
    exact plan c m ((mem c).1 (by rw [split]; simp)) (level.congr passed)
  · intro well c m hc level
    obtain ⟨pre, post, split⟩ := List.append_of_mem ((mem c).2 hc)
    obtain ⟨passed, before⟩ := step pre c post split
    rw [← before]
    exact well pre c post split m (level.congr fun q => (passed q).symm)

/-- Only the yields of the walk's own carriages count. -/
theorem PlanFits.congr {w : Outward} {P : Carriage × Nat → Prop} {M : Carriage → Prop} {R : Carriage → Carriage → Prop}
    (h : PlanFits s w P M R l) (same : ∀ q : Carriage × Nat, M q.1 → (q ∈ l ↔ q ∈ l')) : PlanFits s w P M R l' := by
  have who (c : Carriage) (hc : M c) : c ∈ l.map (·.1) ↔ c ∈ l'.map (·.1) := by
    simp only [List.mem_map]
    constructor
    · rintro ⟨q, hq, rfl⟩
      exact ⟨q, (same q hc).1 hq, rfl⟩
    · rintro ⟨q, hq, rfl⟩
      exact ⟨q, (same q hc).2 hq, rfl⟩
  intro c m hc level
  obtain ⟨iff_, lanes⟩ := h c m hc (level.congr fun q => or_congr_right
    ⟨fun ⟨hq, hm, r⟩ => ⟨(same q hm).2 hq, hm, r⟩, fun ⟨hq, hm, r⟩ => ⟨(same q hm).1 hq, hm, r⟩⟩)
  refine ⟨(who c hc).symm.trans (iff_.trans ?_), fun k hk => lanes k ((same (c, k) hc).2 hk)⟩
  exact and_congr_right fun _ => and_congr_right fun _ => forall₂_congr fun x hx => imp_congr_right fun _ =>
    or_congr_right (who x hx)

/-- The carriages of a side below all assigned ones, and above them. -/
def Below (d : Side) (a : List Carriage) (c : Carriage) : Prop := sideOf c = d ∧ ∀ x ∈ a, driveNumber c < driveNumber x

def Above (d : Side) (a : List Carriage) (c : Carriage) : Prop := sideOf c = d ∧ ∀ x ∈ a, driveNumber x < driveNumber c

/-- The yields of a packing on both sides of the assigned carriages. -/
structure State.Packed (s : State) (d : Side) (a : List Carriage) (lane : Carriage → Nat) (l : YieldPlan) : Prop where
  nodup : (l.map (·.1)).Nodup
  within : ∀ q ∈ l, Below d a q.1 ∨ Above d a q.1
  lower : PlanFits s s.downward (fun q => q ∈ a.map fun c => (c, lane c)) (Below d a) (fun x y => driveNumber y < driveNumber x) l
  upper : PlanFits s (s.upward d) (fun q => q ∈ a.map fun c => (c, lane c)) (Above d a) (fun x y => driveNumber x < driveNumber y) l

theorem not_below_above {a : List Carriage} (some_ : a ≠ []) (low : Below d a c) : ¬ Above d a c := fun high => by
  obtain ⟨x, hx⟩ := List.exists_mem_of_ne_nil a some_
  exact (low.2 x hx).not_gt (high.2 x hx)

/-! ## What an assignment comes to -/

theorem State.feasible_eq {o : List (Carriage × Nat)} {first last : Carriage × Nat}
    (sorted : ((carriagesOf d).filterMap fun c => (laneIn l c).map fun k => (c, k)) = o) (head : o.head? = some first)
    (tail : o.getLast? = some last) : s.feasible d l =
      if (o.all fun q => (s.carr q.1).state == .idle && s.inCorridor q.1 (s.setup.span q.1 q.2) &&
            s.inCorridor q.1 (s.setup.sweep q.1 (s.laneNow q.1) q.2)) &&
          spansRise (o.map fun q => s.setup.span q.1 q.2) &&
          ((carriagesOf d).filter fun c => driveNumber first.1 < driveNumber c && driveNumber c < driveNumber last.1 &&
            (laneIn l c).isNone && (s.carr c).state == .idle).all (s.betweenFits o) then
        match s.packLower (lowerThan first.1) (lowest (o.map s.sweepTo)), s.packUpper d (higherThan last.1) (highest (o.map s.sweepTo)) with
        | some a, some b => some (a ++ b, ((o ++ a ++ b).map s.travel).sum)
        | _, _ => none
      else none := by
  rw [State.feasible, sorted, head, tail] <;> rfl

theorem State.travel_eq (q : Carriage × Nat) : s.travel q = ((s.laneNow q.1 : Int) - q.2).natAbs := by
  rw [State.travel]
  omega

/-- What the walks of an assignment give, whose first and last carriages are those given. -/
theorem State.plan_packed {first last : Carriage} {A B : YieldPlan} (side : ∀ c ∈ a, sideOf c = d)
    (lanes : ∀ c ∈ a, lane c ≤ 127)
    (hfirst : first ∈ a ∧ ∀ x ∈ a, x = first ∨ driveNumber first < driveNumber x)
    (hlast : last ∈ a ∧ ∀ x ∈ a, x = last ∨ driveNumber x < driveNumber last) :
    (s.packLower (lowerThan first) (lowest ((inOrder d a).map fun c => s.sweepTo (c, lane c))) = some A →
      s.packUpper d (higherThan last) (highest ((inOrder d a).map fun c => s.sweepTo (c, lane c))) = some B →
      s.Packed d a lane (A ++ B)) ∧
    ∀ l, s.Packed d a lane l →
      s.packLower (lowerThan first) (lowest ((inOrder d a).map fun c => s.sweepTo (c, lane c))) ≠ none ∧
      s.packUpper d (higherThan last) (highest ((inOrder d a).map fun c => s.sweepTo (c, lane c))) ≠ none := by
  have some_ : a ≠ [] := List.ne_nil_of_mem hfirst.1
  have memLower (c : Carriage) : c ∈ lowerThan first ↔ Below d a c := by
    rw [mem_lowerThan, side first hfirst.1]
    refine and_congr_right fun _ => ⟨fun h x hx => ?_, fun h => h first hfirst.1⟩
    obtain rfl | least := hfirst.2 x hx
    · exact h
    · exact h.trans least
  have memUpper (c : Carriage) : c ∈ higherThan last ↔ Above d a c := by
    rw [mem_higherThan, side last hlast.1]
    refine and_congr_right fun _ => ⟨fun h x hx => ?_, fun h => h last hlast.1⟩
    obtain rfl | greatest := hlast.2 x hx
    · exact h
    · exact greatest.trans h
  have sweepsNe : ((inOrder d a).map fun c => s.sweepTo (c, lane c)) ≠ [] :=
    List.ne_nil_of_mem (List.mem_map_of_mem ((mem_inOrder side).2 hfirst.1))
  have levelLower : s.downward.Level (fun q => q ∈ a.map fun c => (c, lane c))
      (lowest ((inOrder d a).map fun c => s.sweepTo (c, lane c))) := by
    obtain ⟨⟨i, hi, is⟩, least⟩ := lowest_level sweepsNe fun i hi => by
      obtain ⟨c, hc, rfl⟩ := List.mem_map.1 hi
      exact (Nat.sub_le ..).trans ((min_le_right ..).trans (lanes c ((mem_inOrder side).1 hc)))
    obtain ⟨c, hc, rfl⟩ := List.mem_map.1 hi
    refine ⟨⟨(c, lane c), List.mem_map_of_mem ((mem_inOrder side).1 hc), is⟩, fun q hq => ?_⟩
    obtain ⟨x, hx, rfl⟩ := List.mem_map.1 hq
    exact least _ (List.mem_map_of_mem ((mem_inOrder side).2 hx))
  have levelUpper : (s.upward d).Level (fun q => q ∈ a.map fun c => (c, lane c))
      (highest ((inOrder d a).map fun c => s.sweepTo (c, lane c))) := by
    obtain ⟨⟨i, hi, is⟩, greatest⟩ := highest_level sweepsNe
    obtain ⟨c, hc, rfl⟩ := List.mem_map.1 hi
    refine ⟨⟨(c, lane c), List.mem_map_of_mem ((mem_inOrder side).1 hc), is⟩, fun q hq => ?_⟩
    obtain ⟨x, hx, rfl⟩ := List.mem_map.1 hq
    exact greatest _ (List.mem_map_of_mem ((mem_inOrder side).2 hx))
  have nodupLower : (lowerThan first).Nodup := (lowerThan_sorted first).imp fun less e => less.ne' (congrArg driveNumber e)
  have nodupUpper : (higherThan last).Nodup := (higherThan_sorted last).imp fun less e => less.ne (congrArg driveNumber e)
  have fitsLower (l : YieldPlan) := planFits_iff (s := s) (w := s.downward) (P := fun q => q ∈ a.map fun c => (c, lane c)) (l := l)
    (lowerThan_sorted first) (fun x y h => h.not_gt) memLower
  have fitsUpper (l : YieldPlan) := planFits_iff (s := s) (w := s.upward d) (P := fun q => q ∈ a.map fun c => (c, lane c)) (l := l)
    (higherThan_sorted last) (fun x y h => h.not_gt) memUpper
  refine ⟨fun hA hB => ?_, fun l packed => ⟨?_, ?_⟩⟩
  · obtain ⟨uniqueA, withinA, wellA⟩ := (State.packLower_walks _ _).well State.downward_sound hA nodupLower levelLower
    obtain ⟨uniqueB, withinB, wellB⟩ := (State.packUpper_walks _ _).well State.upward_sound hB nodupUpper levelUpper
    have below (q : Carriage × Nat) (hq : q ∈ A) : Below d a q.1 := (memLower _).1 (withinA q hq)
    have above (q : Carriage × Nat) (hq : q ∈ B) : Above d a q.1 := (memUpper _).1 (withinB q hq)
    refine ⟨?_, fun q hq => (List.mem_append.1 hq).imp (below q) (above q), ((fitsLower A).2 wellA).congr fun q hq => ?_,
      ((fitsUpper B).2 wellB).congr fun q hq => ?_⟩
    · rw [List.map_append, List.nodup_append]
      refine ⟨uniqueA, uniqueB, fun c hc x hx e => ?_⟩
      obtain ⟨q, hq, rfl⟩ := List.mem_map.1 hc
      obtain ⟨r, hr, rfl⟩ := List.mem_map.1 hx
      exact not_below_above some_ (below q hq) (e ▸ above r hr)
    · exact (List.mem_append.trans (or_iff_left fun h => not_below_above some_ hq (above q h))).symm
    · exact (List.mem_append.trans (or_iff_right fun h => not_below_above some_ (below q h) hq)).symm
  · exact (State.packLower_walks _ _).some_of_well State.downward_sound nodupLower packed.nodup levelLower
      ((fitsLower l).1 packed.lower)
  · exact (State.packUpper_walks _ _).some_of_well State.upward_sound nodupUpper packed.nodup levelUpper
      ((fitsUpper l).1 packed.upper)

/-- An assignment with its lanes is feasible exactly where it fits and the packing outward succeeds. -/
theorem State.feasible_iff (side : ∀ c ∈ a, sideOf c = d) (nodup : a.Nodup) (lanes : ∀ c ∈ a, lane c ≤ 127) (some_ : a ≠ []) :
    (∀ r, s.feasible d (a.map fun c => (c, lane c)) = some r → s.Fits d a lane ∧ s.Packed d a lane r.1 ∧
      r.2 = (((a.map fun c => (c, lane c)) ++ r.1).map fun (q : Carriage × Nat) => ((s.laneNow q.1 : Int) - q.2).natAbs).sum) ∧
    ∀ l, s.Fits d a lane → s.Packed d a lane l → s.feasible d (a.map fun c => (c, lane c)) ≠ none := by
  have orderNe : inOrder d a ≠ [] := fun e => by
    obtain ⟨x, hx⟩ := List.exists_mem_of_ne_nil a some_
    rw [← mem_inOrder side, e] at hx
    cases hx
  obtain ⟨first, head⟩ := Option.ne_none_iff_exists'.1 (List.head?_eq_none_iff.not.2 orderNe)
  obtain ⟨last, tail⟩ := Option.ne_none_iff_exists'.1 (List.getLast?_eq_none_iff.not.2 orderNe)
  have hfirst : first ∈ a ∧ ∀ x ∈ a, x = first ∨ driveNumber first < driveNumber x := by
    obtain ⟨mem, least⟩ := head?_sorted inOrder_sorted head
    exact ⟨(mem_inOrder side).1 mem, fun x hx => least x ((mem_inOrder side).2 hx)⟩
  have hlast : last ∈ a ∧ ∀ x ∈ a, x = last ∨ driveNumber x < driveNumber last := by
    obtain ⟨mem, greatest⟩ := getLast?_sorted inOrder_sorted tail
    exact ⟨(mem_inOrder side).1 mem, fun x hx => greatest x ((mem_inOrder side).2 hx)⟩
  have betweenMem (c : Carriage) : (driveNumber first < driveNumber c ∧ driveNumber c < driveNumber last) ↔
      (∃ x ∈ a, driveNumber x < driveNumber c) ∧ ∃ y ∈ a, driveNumber c < driveNumber y := by
    refine and_congr ⟨fun h => ⟨first, hfirst.1, h⟩, fun ⟨x, hx, less⟩ => ?_⟩ ⟨fun h => ⟨last, hlast.1, h⟩, fun ⟨y, hy, less⟩ => ?_⟩
    · obtain rfl | least := hfirst.2 x hx
      · exact less
      · exact least.trans less
    · obtain rfl | greatest := hlast.2 y hy
      · exact less
      · exact less.trans greatest
  have isNone (c : Carriage) : (laneIn (a.map fun c => (c, lane c)) c).isNone = true ↔ c ∉ a := by
    rw [laneIn_map]
    by_cases here : c ∈ a <;> simp [here]
  have test : (((inOrder d a).map fun c => (c, lane c)).all fun q => (s.carr q.1).state == .idle &&
        s.inCorridor q.1 (s.setup.span q.1 q.2) && s.inCorridor q.1 (s.setup.sweep q.1 (s.laneNow q.1) q.2)) = true ∧
      spansRise (((inOrder d a).map fun c => (c, lane c)).map fun q => s.setup.span q.1 q.2) = true ∧
      (((carriagesOf d).filter fun c => driveNumber first < driveNumber c && driveNumber c < driveNumber last &&
        (laneIn (a.map fun c => (c, lane c)) c).isNone && (s.carr c).state == .idle).all
          (s.betweenFits ((inOrder d a).map fun c => (c, lane c)))) = true ↔ s.Fits d a lane := by
    rw [State.assigned_iff side, State.targetsRise_iff side lanes]
    have between (rise : ∀ x ∈ a, ∀ y ∈ a, driveNumber x < driveNumber y →
        (s.setup.span x (lane x)).hi < (s.setup.span y (lane y)).lo) (c : Carriage) :=
      State.betweenFits_iff (s := s) (c := c) side lanes rise
    simp only [List.all_eq_true, List.mem_filter, mem_carriagesOf, Bool.and_eq_true, decide_eq_true_eq, beq_iff_eq, isNone,
      betweenMem]
    constructor
    · rintro ⟨assigned, rise, all⟩
      exact ⟨assigned, rise, fun c on idle out low high => (between rise c).1 (all c ⟨on, ⟨⟨low, high⟩, out⟩, idle⟩)⟩
    · rintro ⟨assigned, rise, all⟩
      exact ⟨assigned, rise, fun c ⟨on, ⟨⟨low, high⟩, out⟩, idle⟩ => (between rise c).2 (all c on idle out low high)⟩
  have sweeps : ((inOrder d a).map fun c => (c, lane c)).map s.sweepTo = (inOrder d a).map fun c => s.sweepTo (c, lane c) :=
    List.map_map
  rw [State.feasible_eq (inOrder_targets (lane := lane)) (first := (first, lane first)) (last := (last, lane last))
    (by rw [List.head?_map, head]; rfl) (by rw [List.getLast?_map, tail]; rfl), sweeps]
  have plan (A B : YieldPlan) := State.plan_packed (s := s) (A := A) (B := B) side lanes hfirst hlast
  by_cases fits : s.Fits d a lane
  · obtain ⟨assigned, rise, between⟩ := test.2 fits
    rw [if_pos (by rw [assigned, rise, between]; rfl)]
    dsimp only
    cases hA : s.packLower (lowerThan first) (lowest ((inOrder d a).map fun c => s.sweepTo (c, lane c))) with
    | none => exact ⟨nofun, fun l _ packed => absurd hA ((plan [] []).2 l packed).1⟩
    | some A =>
      cases hB : s.packUpper d (higherThan last) (highest ((inOrder d a).map fun c => s.sweepTo (c, lane c))) with
      | none => exact ⟨nofun, fun l _ packed => absurd hB ((plan [] []).2 l packed).2⟩
      | some B =>
        refine ⟨fun r hr => ?_, fun _ _ _ => nofun⟩
        obtain rfl := Option.some.inj hr
        refine ⟨fits, (plan A B).1 hA hB, ?_⟩
        have perm : (((inOrder d a).map fun c => (c, lane c)) ++ A ++ B).Perm ((a.map fun c => (c, lane c)) ++ (A ++ B)) := by
          rw [List.append_assoc]
          exact ((inOrder_perm side nodup).map _).append_right _
        rw [(perm.map _).sum_eq]
        exact congrArg List.sum (List.map_congr_left fun q _ => State.travel_eq q)
  · rw [if_neg fun h => fits (test.1 (by simpa [and_assoc] using h))]
    exact ⟨nofun, fun l h => absurd h fits⟩
end
end Sys2Proof.Machine
end

section
/-! PROOFS. The choice of a side's carriages: the obligation that this settles. -/

set_option Elab.async false

namespace Sys2Proof.Machine

section
variable {s : State} {d : Side} {p : List Point} {a : List Carriage} {lane : Carriage → Nat}

/-- An assignment's choice is that of its targets' lanes, where they are in field. -/
theorem State.choiceOf_eq (length : a.length = p.length) (lanes : PlaceByPlace p a (s.laneOk lane)) :
    (PlaceByPlace p a s.fieldOk → s.choiceOf d p a =
      (s.feasible d (a.map fun c => (c, lane c))).map fun y => ⟨a.map fun c => (c, lane c), y.1, y.2⟩) ∧
    (¬ PlaceByPlace p a s.fieldOk → s.choiceOf d p a = none) := by
  obtain ⟨goes, fails⟩ := State.targetLanes_iff length lanes
  refine ⟨fun h => ?_, fun h => ?_⟩
  · rw [State.choiceOf, goes h]
    rfl
  · rw [State.choiceOf, fails h]
    rfl

/-- The lanes of an assignment's targets lie in the field. -/
theorem State.laneOk_le (side : ∀ c ∈ a, sideOf c = d) (length : a.length = p.length) (field : s.setup.fieldLanes d ≤ 128)
    (lanes : PlaceByPlace p a (s.laneOk lane)) : ∀ c ∈ a, lane c ≤ 127 := by
  intro c hc
  obtain ⟨n, bound, rfl⟩ := List.getElem_of_mem hc
  rw [lanes n p[n] a[n] (List.getElem?_eq_getElem (length ▸ bound)) (List.getElem?_eq_getElem bound)]
  exact Setup.laneFor_le (by rw [side _ hc]; exact field)

theorem State.mem_assignments : a ∈ injections p (s.inService d) ↔ a.length = p.length ∧ a.Nodup ∧
    ∀ c ∈ a, sideOf c = d ∧ (s.carr c).inService = true := by
  rw [mem_injections]
  simp only [State.mem_inService]

/-- What an assignment comes to: a choice exactly where it fits and the packing succeeds. -/
theorem State.choiceOf_iff (field : s.setup.fieldLanes d ≤ 128) (all : a ∈ injections p (s.inService d)) (some_ : p ≠ [])
    (lanes : PlaceByPlace p a (s.laneOk lane)) :
    (∀ h, s.choiceOf d p a = some h → (PlaceByPlace p a s.fieldOk ∧ s.Fits d a lane) ∧ h.lanes = (a.map fun c => (c, lane c)) ∧
      s.Packed d a lane h.yields ∧ h.cost = (((a.map fun c => (c, lane c)) ++ h.yields).map
        fun (q : Carriage × Nat) => ((s.laneNow q.1 : Int) - q.2).natAbs).sum) ∧
    ∀ l, PlaceByPlace p a s.fieldOk ∧ s.Fits d a lane → s.Packed d a lane l → s.choiceOf d p a ≠ none := by
  obtain ⟨length, nodup, mem⟩ := State.mem_assignments.1 all
  have side (c : Carriage) (hc : c ∈ a) : sideOf c = d := (mem c hc).1
  have ne : a ≠ [] := fun e => some_ (List.length_eq_zero_iff.1 (by rw [← length, e]; rfl))
  obtain ⟨goes, fails⟩ := State.choiceOf_eq (d := d) length lanes
  obtain ⟨comes, succeeds⟩ := State.feasible_iff (s := s) side nodup (State.laneOk_le side length field lanes) ne
  refine ⟨fun h hh => ?_, fun l ⟨inField, fits⟩ packed => ?_⟩
  · have inField : PlaceByPlace p a s.fieldOk := by
      by_contra out
      rw [fails out] at hh
      cases hh
    rw [goes inField] at hh
    obtain ⟨r, hr, rfl⟩ := Option.map_eq_some_iff.1 hh
    obtain ⟨fits, packed, cost⟩ := comes r hr
    exact ⟨⟨inField, fits⟩, rfl, packed, cost⟩
  · rw [goes inField]
    exact Option.map_eq_none_iff.not.2 (succeeds l fits packed)
end
end Sys2Proof.Machine

open Sys2Proof Sys2Proof.Machine in
/-- Settles O57: the search keeps the first of the least, and an assignment is a choice exactly where it fits and the idle
carriages outside can be packed outward. -/
theorem leastTravelWins : Obligations.LeastTravelWins := by
  intro s d p field
  refine ⟨fun a => State.mem_assignments, ?_, fun h best => State.choose_least best, by cases d <;> rfl, fun a all lane some_ lanes => ?_⟩
  · rw [State.choose_eq]
    exact State.bestOf_none _
  · obtain ⟨comes, succeeds⟩ := State.choiceOf_iff field all some_ lanes
    refine ⟨fun h hh => ?_, fun l ⟨inField, assigned, rise, between⟩ ⟨nodup, within, lower, upper⟩ => ?_⟩
    · obtain ⟨⟨inField, assigned, rise, between⟩, targets, ⟨nodup, within, lower, upper⟩, cost⟩ := comes h hh
      refine ⟨⟨inField, assigned, rise, between⟩, targets, ⟨nodup, within, fun c b below => ?_, fun c t above => ?_⟩, cost⟩
      · intro passed some_ least
        obtain ⟨who, lanes⟩ := lower c b below ⟨some_, least⟩
        exact ⟨who, fun k hk => (State.downward_laneAt below.1).1 (lanes k hk)⟩
      · intro passed some_ greatest
        obtain ⟨who, lanes⟩ := upper c t above ⟨some_, greatest⟩
        exact ⟨who, fun k hk => (State.upward_laneAt above.1).1 (lanes k hk)⟩
    · refine succeeds l ⟨inField, assigned, rise, between⟩ ⟨nodup, within, fun c b below level => ?_, fun c t above level => ?_⟩
      · obtain ⟨who, lanes⟩ := lower c b below level.1 level.2
        exact ⟨who, fun k hk => (State.downward_laneAt below.1).2 (lanes k hk)⟩
      · obtain ⟨who, lanes⟩ := upper c t above level.1 level.2
        exact ⟨who, fun k hk => (State.upward_laneAt above.1).2 (lanes k hk)⟩
end
